-- ==== Sys2Proof/Word.lean ====
section
/-! DEFINITION. The word types of the TW-880 (R3, R9) and their plainest arithmetic. -/

namespace Sys2Proof

/-- A byte (R3). -/
abbrev Byte := BitVec 8
/-- A word of 32 bits (R3): one lane of a vector (R242). -/
abbrev Word := BitVec 32
/-- A doubleword of 64 bits (R3): one x register (R9). -/
abbrev Dword := BitVec 64

/-- The field of `len` bits of `w` whose lowest bit is bit `lo` (R4, `x[hi:lo]` of R7). -/
def fld (w lo len : Nat) : Nat := w / 2 ^ lo % 2 ^ len

/-- Bit `i` of `w` (R4). -/
def bitAt (w i : Nat) : Bool := w / 2 ^ i % 2 == 1

/-- A Boolean as the one-bit number of a record field. -/
def b2n (b : Bool) : Nat := if b then 1 else 0

/-- The two's-complement reading of the `len`-bit number `v` (`sext` of R7). -/
def sextN (len v : Nat) : Int :=
  if v < 2 ^ (len - 1) then (v : Int) else (v : Int) - (2 ^ len : Nat)

/-- The `len`-bit two's-complement code of an integer (a slice of R7). -/
def codeN (len : Nat) (v : Int) : Nat := (v % (2 ^ len : Nat)).toNat

/-- Rounding a quotient up (`ceil` of R233, R286). -/
def ceilDiv (a b : Nat) : Nat := (a + b - 1) / b

end Sys2Proof
end

