-- ==== Sys2Proof/Syntax.lean ====
section
/-! DEFINITION. The instructions and events of the TW-880: one constructor of `Instr` per row of
spec/opcode_table.json. Operand fields carry the widths of R151 to R165; the events carry the agent that
acts and the values that the outside world supplies. -/

namespace Sys2Proof

/-- A package core number, 0 to 287 (R12). -/
abbrev CoreId := Fin 288
/-- A die number (R11). -/
abbrev DieId := Fin 4
/-- An x register (R9). -/
abbrev XReg := Fin 64
/-- A flag (R9). -/
abbrev FReg := Fin 16
/-- A branch-target register (R9). -/
abbrev BReg := Fin 8
/-- A tensor handle (R9). -/
abbrev HReg := Fin 32
/-- A token queue (R9). -/
abbrev QReg := Fin 16
/-- A guard FIFO (R9). -/
abbrev GReg := Fin 8
/-- A barrier slot (R9). -/
abbrev KReg := Fin 32
/-- A predicate (R9). -/
abbrev PReg := Fin 8

/-- The four sequencers, coded as R146 codes PROD. -/
inductive Seq where
  | ctl | ld | cmp | st
deriving DecidableEq, Repr

/-- The four engines in the order of R34. -/
inductive Engine where
  | load | vector | matrix | store
deriving DecidableEq, Repr

/-- The orders of R103. -/
inductive Order where
  | rlx | acq | rel | ar
deriving DecidableEq, Repr

/-- The scopes of R102. -/
inductive Scope where
  | core | cl | die | pkg | pod | sys
deriving DecidableEq, Repr

/-- The PHASE levels of R156. -/
inductive Level where
  | task | cl | die | pkg | pod
deriving DecidableEq, Repr

/-- The format codes of R122. -/
inductive Fmt where
  | f64 | f32 | f16 | bf16 | e5m2 | e4m3 | f4
  | s64 | s32 | s16 | s8 | s4
  | n64 | n32 | n16 | n8 | n4
  | b1
deriving DecidableEq, Repr

/-- The rounding modes of R129. -/
inductive Rnd where
  | rne | rtz | rpi | rmi | sto
deriving DecidableEq, Repr

/-- The handle fields of R156. -/
inductive HField where
  | buf | off | spc | hint | fmt | n0 | n1 | n2 | s1 | s2 | cur | xv | gsz | glay
deriving DecidableEq, Repr

/-- The special registers of R157. -/
inductive SReg where
  | partw | dmr | vl | spb | spl | sp | ctxn | core | depth | tleft | cycle | timeus
  | dlo0 | dhi0 | dlo1 | dhi1 | dlo2 | dhi2
deriving DecidableEq, Repr

/-- The conditions of VCMP (R254). -/
inductive VCond where
  | eq | ne | lt | le | gt | ge | uno
deriving DecidableEq, Repr

/-- The ACC codes of R165. -/
inductive Acc where
  | ovw | add | neg
deriving DecidableEq, Repr

/-- A guard reference: the slot and the keep bit (R35, R159). -/
structure Guard where
  slot : GReg
  keep : Bool
deriving DecidableEq, Repr

/-- The operand levels of a vector word (R160). -/
inductive Operand where
  | latch
  | file (o : Fin 16)
  | main (v : Fin 1024)
  | stream (h : HReg) (off : BitVec 16)
deriving DecidableEq, Repr

/-- The operands of an atomic (R151 format A, R191). -/
structure Atom where
  d : XReg
  h : HReg
  a : XReg
  ord : Order
  scope : Scope
deriving DecidableEq, Repr

/-- The fields of a transfer word (R161). -/
structure Xfer where
  guard : Option Guard
  bar : Option KReg
  dh : HReg
  doff : BitVec 24
  sh : HReg
  soff : BitVec 24
  cnt : BitVec 12
deriving DecidableEq, Repr

/-- The fields of a vector word with two sources (R159). -/
structure Vec2 where
  fmt : Fmt
  pred : Option PReg
  guard : Option Guard
  d : Operand
  a : Operand
  b : Operand
deriving DecidableEq, Repr

/-- The fields of a unary vector word (R159, R248). -/
structure Vec1 where
  fmt : Fmt
  pred : Option PReg
  guard : Option Guard
  d : Operand
  a : Operand
deriving DecidableEq, Repr

/-- The common fields of a matrix word (R165). -/
structure Mat where
  guard : Option Guard
  ah : HReg
  aoff : BitVec 24
  bh : HReg
  boff : BitVec 24
  ct : BitVec 12
  k : BitVec 11
  sh : HReg
  zh : HReg
  m : BitVec 6
  n : BitVec 6
  acc : Acc
  ta : Bool
  tb : Bool
  bat : Bool
deriving DecidableEq, Repr

/-- Who writes the doorbell aperture (R290, R343). -/
inductive BellSource where
  | pf
  | vf (n : Fin 64)
  | task
deriving DecidableEq, Repr

/-- A UALink request in trouble (R418): the core and the sequencer that waits on it, the request's buffer
and byte offset, whether it writes, the port and the target package. -/
structure LinkReq where
  core : CoreId
  seq : Seq
  buf : Nat
  off : Nat
  writes : Bool
  port : Fin 12
  pkg : Fin 1024
deriving DecidableEq, Repr

/-- A request that another package makes of this one (R351): a read of n bytes, a write of bytes, or an atomic
with the function number of R154, its width flag (true for 64 bits) and its two operands. -/
inductive RemoteReq where
  | read (addr : Nat) (n : Nat)
  | write (addr : Nat) (bytes : List Byte)
  | atomic (addr : Nat) (fn : Fin 13) (wide : Bool) (v : Dword) (v2 : Dword)
deriving DecidableEq, Repr

/-- The instructions (R153 to R165) and the events of spec/opcode_table.json, those with operands first. An
event's agent and the values the outside world supplies stand in the turn that performs it (State.lean). -/
inductive Instr where
  -- integer, R form (R175)
  | add (d a b : XReg) | sub (d a b : XReg) | and (d a b : XReg) | or (d a b : XReg) | xor (d a b : XReg)
  | andn (d a b : XReg) | sll (d a b : XReg) | srl (d a b : XReg) | sra (d a b : XReg) | rol (d a b : XReg)
  | ror (d a b : XReg) | mul (d a b : XReg) | mulh (d a b : XReg) | mulhn (d a b : XReg) | div (d a b : XReg)
  | divn (d a b : XReg) | rem (d a b : XReg) | remn (d a b : XReg) | min (d a b : XReg) | max (d a b : XReg)
  | minn (d a b : XReg) | maxn (d a b : XReg) | clz (d a : XReg) | ctz (d a : XReg) | popc (d a : XReg)
  | sextB (d a : XReg) | sextH (d a : XReg) | sextW (d a : XReg) | zextB (d a : XReg) | zextH (d a : XReg)
  | zextW (d a : XReg) | bswap (d a : XReg)
  -- integer, I and U forms (R177, R178)
  | addi (d a : XReg) (imm : BitVec 14) | andi (d a : XReg) (imm : BitVec 14) | ori (d a : XReg) (imm : BitVec 14)
  | xori (d a : XReg) (imm : BitVec 14) | slli (d a : XReg) (sh : Fin 64) | srli (d a : XReg) (sh : Fin 64)
  | srai (d a : XReg) (sh : Fin 64) | rori (d a : XReg) (sh : Fin 64) | muli (d a : XReg) (imm : BitVec 14)
  | li (d : XReg) (imm : BitVec 20) | lhi (d : XReg) (imm : BitVec 20)
  -- compares and flag logic (R179, R180)
  | cmpEq (fd : FReg) (a b : XReg) | cmpNe (fd : FReg) (a b : XReg) | cmpLt (fd : FReg) (a b : XReg)
  | cmpGe (fd : FReg) (a b : XReg) | cmpLtn (fd : FReg) (a b : XReg) | cmpGen (fd : FReg) (a b : XReg)
  | cmpLe (fd : FReg) (a b : XReg) | cmpGt (fd : FReg) (a b : XReg) | cmpLen (fd : FReg) (a b : XReg)
  | cmpGtn (fd : FReg) (a b : XReg)
  | fand (fd fa fb : FReg) | forF (fd fa fb : FReg) | fxor (fd fa fb : FReg) | fandn (fd fa fb : FReg)
  | fnot (fd fa : FReg)
  | cmpiEq (fd : FReg) (a : XReg) (imm : BitVec 10) | cmpiNe (fd : FReg) (a : XReg) (imm : BitVec 10)
  | cmpiLt (fd : FReg) (a : XReg) (imm : BitVec 10) | cmpiGe (fd : FReg) (a : XReg) (imm : BitVec 10)
  | cmpiLtn (fd : FReg) (a : XReg) (imm : BitVec 10) | cmpiGen (fd : FReg) (a : XReg) (imm : BitVec 10)
  | cmpiLe (fd : FReg) (a : XReg) (imm : BitVec 10) | cmpiGt (fd : FReg) (a : XReg) (imm : BitVec 10)
  | cmpiLen (fd : FReg) (a : XReg) (imm : BitVec 10) | cmpiGtn (fd : FReg) (a : XReg) (imm : BitVec 10)
  -- control loads and stores (R187)
  | ldB (d : XReg) (h : HReg) (a : XReg) (imm : BitVec 9) | ldH (d : XReg) (h : HReg) (a : XReg) (imm : BitVec 9)
  | ldW (d : XReg) (h : HReg) (a : XReg) (imm : BitVec 9) | ldD (d : XReg) (h : HReg) (a : XReg) (imm : BitVec 9)
  | stB (d : XReg) (h : HReg) (a : XReg) (imm : BitVec 9) | stH (d : XReg) (h : HReg) (a : XReg) (imm : BitVec 9)
  | stW (d : XReg) (h : HReg) (a : XReg) (imm : BitVec 9) | stD (d : XReg) (h : HReg) (a : XReg) (imm : BitVec 9)
  -- atomics (R191)
  | aaddW (o : Atom) | aminW (o : Atom) | amaxW (o : Atom) | aminnW (o : Atom) | amaxnW (o : Atom)
  | aandW (o : Atom) | aorW (o : Atom) | axorW (o : Atom) | aswpW (o : Atom) | acasW (o : Atom)
  | afaddW (o : Atom) | aldW (o : Atom) | astW (o : Atom)
  | aaddD (o : Atom) | aminD (o : Atom) | amaxD (o : Atom) | aminnD (o : Atom) | amaxnD (o : Atom)
  | aandD (o : Atom) | aorD (o : Atom) | axorD (o : Atom) | aswpD (o : Atom) | acasD (o : Atom)
  | afaddD (o : Atom) | aldD (o : Atom) | astD (o : Atom)
  -- transfers of control (R181)
  | pt (b : BReg) (imm : BitVec 23) | j (imm : BitVec 23) | br (b : BReg) (f : FReg) | brNot (b : BReg) (f : FReg)
  | ptr (b : BReg) (a : XReg) | call (b : BReg) | loop (b : BReg) (a : XReg)
  -- scratchpad accesses and handles (R189, R190, R195)
  | ldsB (d a : XReg) (imm : BitVec 9) | ldsH (d a : XReg) (imm : BitVec 9) | ldsW (d a : XReg) (imm : BitVec 9)
  | ldsD (d a : XReg) (imm : BitVec 9) | stsB (d a : XReg) (imm : BitVec 9) | stsH (d a : XReg) (imm : BitVec 9)
  | stsW (d a : XReg) (imm : BitVec 9) | stsD (d a : XReg) (imm : BitVec 9)
  | hld (h : HReg) (a : XReg) (imm : BitVec 9) | hst (h : HReg) (a : XReg) (imm : BitVec 9)
  | hsetf (h : HReg) (a : XReg) (f : HField) | hgetf (d : XReg) (h : HReg) (f : HField) | hadv (h : HReg) (a : XReg)
  -- tokens, guards, format queue, allocation (R197 to R200)
  | tsig (q : QReg) | twait (q : QReg) | tcnt (d : XReg) (q : QReg)
  | gset (g : GReg) (f : FReg) | gseti (g : GReg) (v : Bool) | fqw (a : XReg)
  | allocS (d a : XReg) (imm : BitVec 14) | allocV (d a : XReg) (imm : BitVec 14)
  -- fences, phases, barriers (R192, R201)
  | fenceAcq (s : Scope) | fenceRel (s : Scope) | fenceAr (s : Scope) | flush (s : Scope) (h : HReg) (a : XReg)
  | inv (s : Scope) (h : HReg) (a : XReg) | phase (l : Level)
  | binit (k : KReg) (a : XReg) (s : Scope) | bslot (k : KReg) (h : HReg) (a : XReg) | bexpect (k : KReg) (a : XReg)
  | barrive (k : KReg) | bwait (k : KReg) | btest (f : FReg) (k : KReg)
  -- tasks, pool objects, system (R203, R209 to R216)
  | spawn (a : XReg) | park (a : XReg) | wake (a : XReg) | dmrw (a : XReg)
  | snapoRd (a b : XReg) | snapoWr (a b : XReg) | snapc (a : XReg) | repart (a : XReg)
  | srd (d : XReg) (r : SReg) | swr (r : SReg) (a : XReg) | trap (code : BitVec 16) | brk (code : BitVec 16)
  | csw (a : XReg) | cswReg (a : XReg) | chrd (d : XReg) (h : HReg) (a : XReg)
  -- transfers (R219)
  | copy (w : Xfer) | copyt (w : Xfer) | copyc (w : Xfer) (mode : Rnd) (prop : Bool) | gather (w : Xfer) (xh : HReg)
  | scatter (w : Xfer) (xh : HReg) | fill (w : Xfer) | redadd (w : Xfer)
  | pref (guard : Option Guard) (sh : HReg) (soff : BitVec 24) (cnt : BitVec 12) | bcopy (w : Xfer)
  | radv (guard : Option Guard) (q : QReg)
  -- stream control of LD and ST, then of CMP (R239, R267)
  | loops (n : BitVec 24) | jump (off : BitVec 24) | tsigLdSt (q : QReg) | twaitLdSt (q : QReg)
  | loopsCmp (n : BitVec 24) | jumpCmp (off : BitVec 24) | tsigCmp (q : QReg) | twaitCmp (q : QReg)
  -- vector floating (R249)
  | vadd (w : Vec2) | vsub (w : Vec2) | vmul (w : Vec2) | vfma (w : Vec2) | vfms (w : Vec2) | vfnma (w : Vec2)
  | vfnms (w : Vec2) | vdiv (w : Vec2) | vsqrt (w : Vec1) | vrsqrt (w : Vec1) | vrcp (w : Vec1) | vexp2 (w : Vec1)
  | vlog2 (w : Vec1) | vexp (w : Vec1) | vtanh (w : Vec1) | vmin (w : Vec2) | vmax (w : Vec2) | vabs (w : Vec1)
  | vneg (w : Vec1) | vclamp (w : Vec2)
  -- vector integer and bit (R251 to R253)
  | viadd (w : Vec2) | visub (w : Vec2) | vimul (w : Vec2) | vimulh (w : Vec2) | vand (w : Vec2) | vor (w : Vec2)
  | vxor (w : Vec2) | vandn (w : Vec2) | vsll (w : Vec2) | vsrl (w : Vec2) | vsra (w : Vec2) | vrol (w : Vec2)
  | vpopc (w : Vec1) | vclz (w : Vec1) | vclmul (w : Vec2) | vclmulh (w : Vec2) | vbswap (w : Vec1) | vbrev (w : Vec1)
  -- compares, predicates, VOTE (R254 to R256)
  | vcmp (fmt : Fmt) (pred : Option PReg) (guard : Option Guard) (pd : PReg) (cond : VCond) (a b : Operand)
  | vpand (guard : Option Guard) (pd pa pb : PReg) | vpor (guard : Option Guard) (pd pa pb : PReg)
  | vpxor (guard : Option Guard) (pd pa pb : PReg) | vpnot (guard : Option Guard) (pd pa : PReg)
  | voteAny (pred : Option PReg) (guard : Option Guard) (f : FReg) (pa : PReg)
  | voteAll (pred : Option PReg) (guard : Option Guard) (f : FReg) (pa : PReg)
  | voteNone (pred : Option PReg) (guard : Option Guard) (f : FReg) (pa : PReg)
  | voteCnt (pred : Option PReg) (guard : Option Guard) (pa : PReg)
  -- conversion, packing, reductions, moves (R258 to R264)
  | vcvt (w : Vec1) (sfmt : Fmt) (mode : Rnd) (prop : Bool) | vpack (w : Vec2) | vunpack (w : Vec1) (part : Fin 8)
  | vradd (w : Vec1) | vrmax (w : Vec1) | vrmin (w : Vec1) | vargmax (w : Vec1) | vtopk8 (w : Vec1)
  | vperm (w : Vec2) | vbcast (w : Vec1) (j : BitVec 8) | vsel (w : Vec2)
  | viota (fmt : Fmt) (pred : Option PReg) (guard : Option Guard) (d : Operand) (start : BitVec 16)
  | vscan (w : Vec1) | vmov (w : Vec1) | vsetn (n : BitVec 7)
  -- matrix (R276)
  | mma (w : Mat) | mmab (w : Mat) | mmag (w : Mat) | mzero (w : Mat) | mld (w : Mat) | mst (w : Mat) | mstat (w : Mat)
  -- instructions without operands
  | ret | endT | yield | commit | rte | nop | wfe | sev | loope | stop | loopeCmp | stopCmp
  -- MCLR, whose guard and CT stand in the word that its turn carries (log 15)
  | mclr
  -- events of the cores
  | commandStart | commandRetirement
  | resultLands | bcopyComplete | overlaySwap | taskRetirement
  | timeAllowanceExpiry | dispatch | preemptingRequest
  | preemptOverrun | contextSaveComplete | timeParkExpiry
  | recallLeadExpiry | pageMoveStart | pageMoveComplete
  -- events of the queues
  | doorbellStore | queueMapping
  | idleTimeout | ridxWriteback
  | launch | wait | waitSatisfied
  | sigfarPoll | signal | reside
  | note | ageingStep
  -- faults, Helm, links
  | faultDelivery | helmFaultRelease | helmCoreFailure
  | helmSelfTestDone | ucieLinkDown | ualinkPortDown
  | ualinkRequestTimeout | ualinkErrorCompletion | ualinkRemoteRequest
  | cxlPortDown | pcieLinkDown | vfFlr | pfFlr
  | hostBar4Write | hostBar4Read
  -- heat, power, scrub, boot, keys
  | heatGating | trip | powerGatingStep
  | telemetrySample
  | plimTakesEffect | scrubPass | packageReset | bootstGo
  | keyLoad | keyDestroy | keyCommandDone
  -- Binnacle and register window
  | accqWrite | accountingSampleDone | accountFlush
  | pmcReprogram | pmcClear
  | pmcOvfClear | traceGo | traceHalt
  | traceEnableWrite | traceTimeRecord | traceSample
  | breakpointHit | dbgcmdStop
  | dbgcmdResume | dbgcmdDump | debugCut
  | stopvClear | nslotWrite | pkgidWrite
  | registerWrite | pcieLinkUp | helmSelfTestTimeout
deriving DecidableEq, Repr

end Sys2Proof
end

