-- ==== Sys2Proof/WellFormed.lean ====
section
/-! DEFINITION. Which terms of `Instr` an encoding exists for (R151 to R165, R219, R243, R276). -/

namespace Sys2Proof

/-- The width in bits of a format's element (R122). -/
def Fmt.width : Fmt → Nat
  | .f64 | .s64 | .n64 => 64
  | .f32 | .s32 | .n32 => 32
  | .f16 | .bf16 | .s16 | .n16 => 16
  | .e5m2 | .e4m3 | .s8 | .n8 => 8
  | .f4 | .s4 | .n4 => 4
  | .b1 => 1

/-- Floating formats (R122). -/
def Fmt.isFloat : Fmt → Bool
  | .f64 | .f32 | .f16 | .bf16 | .e5m2 | .e4m3 | .f4 => true
  | _ => false

/-- Signed integer formats (R122). -/
def Fmt.isSigned : Fmt → Bool
  | .s64 | .s32 | .s16 | .s8 | .s4 => true
  | _ => false

/-- The class FF of R243. -/
def Fmt.isFF : Fmt → Bool
  | .f64 | .f32 | .f16 | .bf16 => true
  | _ => false

/-- The class FT of R243. -/
def Fmt.isFT : Fmt → Bool
  | .f32 | .f16 | .bf16 => true
  | _ => false

/-- The class IW of R243. -/
def Fmt.isIW : Fmt → Bool
  | .s64 | .s32 | .s16 | .s8 | .n64 | .n32 | .n16 | .n8 => true
  | _ => false

/-- The class W32 of R243. -/
def Fmt.isW32 : Fmt → Bool
  | .f32 | .s32 | .n32 => true
  | _ => false

/-- The class W64 of R243. -/
def Fmt.isW64 : Fmt → Bool
  | .f64 | .f32 | .s64 | .s32 | .n64 | .n32 => true
  | _ => false

/-- The class NW of R243. -/
def Fmt.isNW (f : Fmt) : Bool := f.width == 4 || f.width == 8 || f.width == 16

/-- The class AW of R243. -/
def Fmt.isAW (f : Fmt) : Bool := f.width == 8 || f.width == 16 || f.width == 32 || f.width == 64

/-- The class "none" of R243. -/
def Fmt.isNone : Fmt → Bool
  | .b1 => true
  | _ => false

/-- The IW codes of width 16, 32 and 64, which VBSWAP accepts (R253). -/
def Fmt.isBswap (f : Fmt) : Bool := f.isIW && f.width != 8

/-- N64 alone (R252). -/
def Fmt.isN64 : Fmt → Bool
  | .n64 => true
  | _ => false

/-- Floating or integer codes: every code but B1 (R258). -/
def Fmt.isNum (f : Fmt) : Bool := f != .b1

/-- A destination operand is never a stream (R160). -/
def Operand.isDest : Operand → Bool
  | .stream _ _ => false
  | _ => true

/-- The elements of one vector (R242). -/
def Fmt.perVec (f : Fmt) : Nat := 2048 / f.width

/-- A two-source vector word whose format lies in a class. -/
def Vec2.ok (w : Vec2) (cls : Fmt → Bool) : Bool := cls w.fmt && w.d.isDest

/-- A unary vector word whose format lies in a class. -/
def Vec1.ok (w : Vec1) (cls : Fmt → Bool) : Bool := cls w.fmt && w.d.isDest

/-- The count rule of M and N (R276): any count in the plain layout, 1 to 16 in the batched one. -/
def Mat.countsOk (w : Mat) : Bool :=
  !w.bat || (1 ≤ w.m.toNat && w.m.toNat ≤ 16 && 1 ≤ w.n.toNat && w.n.toNat ≤ 16)

/-- No B operand (R276). -/
def Mat.noB (w : Mat) : Bool := w.bh == 0 && w.boff == 0 && !w.tb

/-- No A operand (R276). -/
def Mat.noA (w : Mat) : Bool := w.ah == 0 && w.aoff == 0

/-- No scale and no second auxiliary handle (R276). -/
def Mat.noAux (w : Mat) : Bool := w.sh == 0 && w.zh == 0

/-- K and ACC zero, as the tile moves require (R276). -/
def Mat.noK (w : Mat) : Bool := w.k == 0 && w.acc == .ovw

/-- K from 1 to 2,047 (R276). -/
def Mat.hasK (w : Mat) : Bool := w.k != 0

/-- Every count and flag zero, as MSTAT and MCLR require (R276). -/
def Mat.noShape (w : Mat) : Bool := w.m == 0 && w.n == 0 && !w.ta && !w.bat

/-- The well-formed terms: those that the encodings of chapter 06 can write. Events carry no encoding and are
well formed. -/
def Instr.wf : Instr → Bool
  | .acasW o | .acasD o => o.d.val != 63
  | .chrd d _ _ => d.val != 63
  | .copyc _ m _ => m != .sto
  | .vadd w | .vsub w | .vmul w | .vfma w | .vfms w | .vfnma w | .vfnms w | .vdiv w | .vmin w | .vmax w
  | .vclamp w => w.ok Fmt.isFF
  | .vsqrt w | .vabs w | .vneg w => w.ok Fmt.isFF
  | .vrsqrt w | .vrcp w | .vexp2 w | .vlog2 w | .vexp w | .vtanh w => w.ok Fmt.isFT
  | .viadd w | .visub w | .vimul w | .vimulh w | .vsll w | .vsrl w | .vsra w | .vrol w => w.ok Fmt.isIW
  | .vpopc w | .vclz w | .vbrev w => w.ok Fmt.isIW
  | .vand w | .vor w | .vxor w | .vandn w => w.ok Fmt.isNone
  | .vclmul w | .vclmulh w => w.ok Fmt.isN64
  | .vbswap w => w.ok Fmt.isBswap
  | .vcmp f _ _ _ c _ _ => f.isW64 && (c != .uno || f.isFloat)
  | .vcvt w s m _ =>
    w.ok Fmt.isNum && s.isNum && (m != .sto || decide (32 ≤ s.width) || decide (32 ≤ w.fmt.width))
  | .vpack w => w.ok Fmt.isNW
  | .vunpack w p => w.ok Fmt.isNW && decide (p.val < 32 / w.fmt.width)
  | .vradd w | .vrmax w | .vrmin w | .vargmax w | .vtopk8 w | .vscan w => w.ok Fmt.isW32
  | .vperm w => w.ok Fmt.isAW
  | .vbcast w el => w.ok Fmt.isAW && decide (el.toNat < w.fmt.perVec)
  | .vsel w => w.ok Fmt.isNone && w.pred.isSome
  | .viota f _ _ d _ => f.isIW && d.isDest
  | .vmov w => w.ok Fmt.isNone
  | .vsetn n => 1 ≤ n.toNat && n.toNat ≤ 64
  | .mma w => w.hasK && w.noAux && !w.bat
  | .mmab w => w.hasK && w.noAux && w.bat && w.countsOk
  | .mmag w => w.hasK && !w.bat
  | .mzero w => w.noA && w.noB && w.noAux && w.noK && !w.ta && w.countsOk
  | .mld w => w.noB && w.noAux && w.noK && w.countsOk
  | .mst w => w.noB && w.noK && w.countsOk
  | .mstat w => w.noB && w.noAux && w.noK && w.noShape
  | _ => true

end Sys2Proof
end

