-- ==== Sys2Proof/Decode.lean ====
section
/-! DEFINITION. The decoder, total on any word (R151 to R165), and after it the encoder, both written from the
encoding tables of chapter 06. A word is read as one number with bit 0 its least significant bit. -/

namespace Sys2Proof

/-- What a word is (R152): an instruction, an illegal instruction, or a word with a reserved field, given with
the bit number of the lowest offending bit (R366). -/
inductive Decoded where
  | ok (i : Instr)
  | illegal
  | reserved (bit : Nat)
deriving DecidableEq, Repr

/-- The number of the lowest set bit of `v`, counted from `at0`. -/
def lowBit : Nat → Nat → Nat → Nat
  | 0, _, at0 => at0
  | n + 1, v, at0 => if v % 2 = 1 then at0 else lowBit n (v / 2) (at0 + 1)

/-- A field that must be zero (R152): the lowest set bit when it is not. -/
def mustZero (w lo len : Nat) : Option Nat :=
  if fld w lo len = 0 then none else some (lowBit len (fld w lo len) lo)

/-- A field whose code is legal when `good` holds (R152). -/
def mustBe (lo : Nat) (good : Bool) : Option Nat := if good then none else some lo

/-- The lower of two offending bits. -/
def lowerBit : Option Nat → Option Nat → Option Nat
  | none, b => b
  | a, none => a
  | some a, some b => some (min a b)

/-- An instruction unless one of the checks fails (R152, third case). -/
def checked (bad : List (Option Nat)) (i : Instr) : Decoded :=
  match bad.foldl lowerBit none with
  | none => .ok i
  | some b => .reserved b

/-- A register number of n registers read from a field (R151). -/
def regOf (n : Nat) [NeZero n] (w lo len : Nat) : Fin n := Fin.ofNat n (fld w lo len)

/-- Order codes (R103). -/
def orderOf : Nat → Order
  | 0 => .rlx
  | 1 => .acq
  | 2 => .rel
  | _ => .ar

/-- The code of an order (R103). -/
def Order.code : Order → Nat
  | .rlx => 0
  | .acq => 1
  | .rel => 2
  | .ar => 3

/-- Scope codes (R102); 6 and 7 are reserved. -/
def scopeOf : Nat → Scope
  | 0 => .core
  | 1 => .cl
  | 2 => .die
  | 3 => .pkg
  | 4 => .pod
  | _ => .sys

/-- The code of a scope (R102). -/
def Scope.code : Scope → Nat
  | .core => 0
  | .cl => 1
  | .die => 2
  | .pkg => 3
  | .pod => 4
  | .sys => 5

/-- Level codes (R156); 5 to 7 are reserved. -/
def levelOf : Nat → Level
  | 0 => .task
  | 1 => .cl
  | 2 => .die
  | 3 => .pkg
  | _ => .pod

/-- The code of a level (R156). -/
def Level.code : Level → Nat
  | .task => 0
  | .cl => 1
  | .die => 2
  | .pkg => 3
  | .pod => 4

/-- Format codes (R122). -/
def fmtOf : Nat → Option Fmt
  | 0x01 => some .f64 | 0x02 => some .f32 | 0x03 => some .f16 | 0x04 => some .bf16 | 0x05 => some .e5m2
  | 0x06 => some .e4m3 | 0x07 => some .f4
  | 0x10 => some .s64 | 0x11 => some .s32 | 0x12 => some .s16 | 0x13 => some .s8 | 0x14 => some .s4
  | 0x18 => some .n64 | 0x19 => some .n32 | 0x1A => some .n16 | 0x1B => some .n8 | 0x1C => some .n4
  | 0x20 => some .b1
  | _ => none

/-- The code of a format (R122). -/
def Fmt.code : Fmt → Nat
  | .f64 => 0x01 | .f32 => 0x02 | .f16 => 0x03 | .bf16 => 0x04 | .e5m2 => 0x05 | .e4m3 => 0x06 | .f4 => 0x07
  | .s64 => 0x10 | .s32 => 0x11 | .s16 => 0x12 | .s8 => 0x13 | .s4 => 0x14
  | .n64 => 0x18 | .n32 => 0x19 | .n16 => 0x1A | .n8 => 0x1B | .n4 => 0x1C
  | .b1 => 0x20

/-- Rounding mode codes (R129); 5 to 7 are reserved. -/
def rndOf : Nat → Rnd
  | 0 => .rne
  | 1 => .rtz
  | 2 => .rpi
  | 3 => .rmi
  | _ => .sto

/-- The code of a rounding mode (R129). -/
def Rnd.code : Rnd → Nat
  | .rne => 0
  | .rtz => 1
  | .rpi => 2
  | .rmi => 3
  | .sto => 4

/-- Handle field codes (R156). -/
def hfieldOf : Nat → HField
  | 0 => .buf | 1 => .off | 2 => .spc | 3 => .hint | 4 => .fmt | 5 => .n0 | 6 => .n1 | 7 => .n2 | 8 => .s1
  | 9 => .s2 | 10 => .cur | 11 => .xv | 12 => .gsz | _ => .glay

/-- The code of a handle field (R156). -/
def HField.code : HField → Nat
  | .buf => 0 | .off => 1 | .spc => 2 | .hint => 3 | .fmt => 4 | .n0 => 5 | .n1 => 6 | .n2 => 7 | .s1 => 8
  | .s2 => 9 | .cur => 10 | .xv => 11 | .gsz => 12 | .glay => 13

/-- Special register codes (R157). -/
def sregOf : Nat → Option SReg
  | 0x000 => some .partw | 0x001 => some .dmr | 0x002 => some .vl | 0x003 => some .spb | 0x004 => some .spl
  | 0x005 => some .sp | 0x006 => some .ctxn | 0x007 => some .core | 0x008 => some .depth | 0x009 => some .tleft
  | 0x00A => some .cycle | 0x00B => some .timeus | 0x010 => some .dlo0 | 0x011 => some .dhi0 | 0x012 => some .dlo1
  | 0x013 => some .dhi1 | 0x014 => some .dlo2 | 0x015 => some .dhi2
  | _ => none

/-- The code of a special register (R157). -/
def SReg.code : SReg → Nat
  | .partw => 0x000 | .dmr => 0x001 | .vl => 0x002 | .spb => 0x003 | .spl => 0x004 | .sp => 0x005 | .ctxn => 0x006
  | .core => 0x007 | .depth => 0x008 | .tleft => 0x009 | .cycle => 0x00A | .timeus => 0x00B | .dlo0 => 0x010
  | .dhi0 => 0x011 | .dlo1 => 0x012 | .dhi1 => 0x013 | .dlo2 => 0x014 | .dhi2 => 0x015

/-- VCMP condition codes (R254); 7 to 15 are reserved. -/
def vcondOf : Nat → VCond
  | 0 => .eq | 1 => .ne | 2 => .lt | 3 => .le | 4 => .gt | 5 => .ge | _ => .uno

/-- The code of a VCMP condition (R254). -/
def VCond.code : VCond → Nat
  | .eq => 0 | .ne => 1 | .lt => 2 | .le => 3 | .gt => 4 | .ge => 5 | .uno => 6

/-- ACC codes (R165); 3 is reserved. -/
def accOf : Nat → Acc
  | 0 => .ovw
  | 1 => .add
  | _ => .neg

/-- The code of ACC (R165). -/
def Acc.code : Acc → Nat
  | .ovw => 0
  | .add => 1
  | .neg => 2

/-! ## Control words -/

/-- The instruction of op 0x01 (R154): three registers. -/
def intR : Nat → Option (XReg → XReg → XReg → Instr)
  | 0x00 => some .add | 0x01 => some .sub | 0x02 => some .and | 0x03 => some .or | 0x04 => some .xor
  | 0x05 => some .andn | 0x06 => some .sll | 0x07 => some .srl | 0x08 => some .sra | 0x09 => some .rol
  | 0x0A => some .ror | 0x0B => some .mul | 0x0C => some .mulh | 0x0D => some .mulhn | 0x0E => some .div
  | 0x0F => some .divn | 0x10 => some .rem | 0x11 => some .remn | 0x12 => some .min | 0x13 => some .max
  | 0x14 => some .minn | 0x15 => some .maxn
  | _ => none

/-- The unary instructions of op 0x01 (R154). -/
def intU : Nat → Option (XReg → XReg → Instr)
  | 0x16 => some .clz | 0x17 => some .ctz | 0x18 => some .popc | 0x19 => some .sextB | 0x1A => some .sextH
  | 0x1B => some .sextW | 0x1C => some .zextB | 0x1D => some .zextH | 0x1E => some .zextW | 0x1F => some .bswap
  | _ => none

/-- CMP by condition code (R155). -/
def cmpR : Nat → Option (FReg → XReg → XReg → Instr)
  | 0 => some .cmpEq | 1 => some .cmpNe | 2 => some .cmpLt | 3 => some .cmpGe | 4 => some .cmpLtn
  | 5 => some .cmpGen | 6 => some .cmpLe | 7 => some .cmpGt | 8 => some .cmpLen | 9 => some .cmpGtn
  | _ => none

/-- CMPI by condition code (R155); 10 to 15 are reserved there. -/
def cmpI : Nat → Option (FReg → XReg → BitVec 10 → Instr)
  | 0 => some .cmpiEq | 1 => some .cmpiNe | 2 => some .cmpiLt | 3 => some .cmpiGe | 4 => some .cmpiLtn
  | 5 => some .cmpiGen | 6 => some .cmpiLe | 7 => some .cmpiGt | 8 => some .cmpiLen | 9 => some .cmpiGtn
  | _ => none

/-- The flag logic of op 0x0E (R155). -/
def flagR : Nat → Option (FReg → FReg → FReg → Instr)
  | 0x10 => some .fand | 0x11 => some .forF | 0x12 => some .fxor | 0x13 => some .fandn
  | _ => none

/-- The atomics of width .w (R154). -/
def atomW : Nat → Option (Atom → Instr)
  | 0 => some .aaddW | 1 => some .aminW | 2 => some .amaxW | 3 => some .aminnW | 4 => some .amaxnW
  | 5 => some .aandW | 6 => some .aorW | 7 => some .axorW | 8 => some .aswpW | 9 => some .acasW
  | 10 => some .afaddW | 11 => some .aldW | 12 => some .astW
  | _ => none

/-- The atomics of width .d (R154). -/
def atomD : Nat → Option (Atom → Instr)
  | 0 => some .aaddD | 1 => some .aminD | 2 => some .amaxD | 3 => some .aminnD | 4 => some .amaxnD
  | 5 => some .aandD | 6 => some .aorD | 7 => some .axorD | 8 => some .aswpD | 9 => some .acasD
  | 10 => some .afaddD | 11 => some .aldD | 12 => some .astD
  | _ => none

/-- The atomics group, format A (R151). A d of 63 in ACAS is reserved (R191). -/
def decAtom (mk : Nat → Option (Atom → Instr)) (w : Nat) : Decoded :=
  match mk (fld w 5 4) with
  | none => .illegal
  | some c =>
    checked [mustBe 0 (decide (fld w 0 3 < 6)), mustBe 20 (!(fld w 5 4 == 9 && fld w 20 6 == 63))]
      (c ⟨regOf 64 w 20 6, regOf 32 w 15 5, regOf 64 w 9 6, orderOf (fld w 3 2), scopeOf (fld w 0 3)⟩)

/-- Format M with a handle (R151). -/
def decM (c : XReg → HReg → XReg → BitVec 9 → Instr) (w : Nat) : Decoded :=
  .ok (c (regOf 64 w 20 6) (regOf 32 w 15 5) (regOf 64 w 9 6) (BitVec.ofNat 9 (fld w 0 9)))

/-- Format M of LDS and STS: bits 16:15 carry the width, bits 19:17 are zero (R189). -/
def decS (b h wd d : XReg → XReg → BitVec 9 → Instr) (w : Nat) : Decoded :=
  let c := match fld w 15 2 with
    | 0 => b
    | 1 => h
    | 2 => wd
    | _ => d
  checked [mustZero w 17 3] (c (regOf 64 w 20 6) (regOf 64 w 9 6) (BitVec.ofNat 9 (fld w 0 9)))

/-- Format I with a signed immediate (R151). -/
def decI (c : XReg → XReg → BitVec 14 → Instr) (w : Nat) : Decoded :=
  .ok (c (regOf 64 w 20 6) (regOf 64 w 14 6) (BitVec.ofNat 14 (fld w 0 14)))

/-- Format I of the shifts: imm14 bits 13:6 are zero (R177). -/
def decSh (c : XReg → XReg → Fin 64 → Instr) (w : Nat) : Decoded :=
  checked [mustZero w 6 8] (c (regOf 64 w 20 6) (regOf 64 w 14 6) (regOf 64 w 0 6))

/-- Op 0x01 (R154). -/
def dec01 (w : Nat) : Decoded :=
  match intR (fld w 0 8), intU (fld w 0 8) with
  | some c, _ => .ok (c (regOf 64 w 20 6) (regOf 64 w 14 6) (regOf 64 w 8 6))
  | none, some c => checked [mustZero w 8 6] (c (regOf 64 w 20 6) (regOf 64 w 14 6))
  | none, none => .illegal

/-- Op 0x0E (R155). Flag numbers have bits 5:4 of their field zero (R151). -/
def dec0E (w : Nat) : Decoded :=
  match cmpR (fld w 0 8), flagR (fld w 0 8), decide (fld w 0 8 = 0x14) with
  | some c, _, _ => checked [mustZero w 24 2] (c (regOf 16 w 20 4) (regOf 64 w 14 6) (regOf 64 w 8 6))
  | none, some c, _ =>
    checked [mustZero w 24 2, mustZero w 18 2, mustZero w 12 2]
      (c (regOf 16 w 20 4) (regOf 16 w 14 4) (regOf 16 w 8 4))
  | none, none, true =>
    checked [mustZero w 24 2, mustZero w 18 2, mustZero w 8 6] (.fnot (regOf 16 w 20 4) (regOf 16 w 14 4))
  | none, none, false => .illegal

/-- Op 0x0F, CMPI (R153, R155). -/
def dec0F (w : Nat) : Decoded :=
  match cmpI (fld w 10 4) with
  | none => checked [mustZero w 24 2, some 10] .nop
  | some c => checked [mustZero w 24 2] (c (regOf 16 w 20 4) (regOf 64 w 14 6) (BitVec.ofNat 10 (fld w 0 10)))

/-- Op 0x1F, the branch group (R156). -/
def dec1F (w : Nat) : Decoded :=
  match fld w 20 3 with
  | 0 => checked [mustZero w 0 14] (.ptr (regOf 8 w 23 3) (regOf 64 w 14 6))
  | 1 => checked [mustZero w 0 20] (.call (regOf 8 w 23 3))
  | 2 => checked [mustZero w 0 20, mustZero w 23 3] .ret
  | 3 => checked [mustZero w 0 14] (.loop (regOf 8 w 23 3) (regOf 64 w 14 6))
  | _ => .illegal

/-- Op 0x24, the handle group (R156). -/
def dec24 (w : Nat) : Decoded :=
  match fld w 6 2 with
  | 0 => checked [mustBe 0 (decide (fld w 0 5 < 14)), mustZero w 5 1, mustZero w 8 6, mustZero w 25 1]
      (.hsetf (regOf 32 w 20 5) (regOf 64 w 14 6) (hfieldOf (fld w 0 5)))
  | 1 => checked [mustBe 0 (decide (fld w 0 5 < 14)), mustZero w 5 1, mustZero w 13 1, mustZero w 14 6]
      (.hgetf (regOf 64 w 20 6) (regOf 32 w 8 5) (hfieldOf (fld w 0 5)))
  | 2 => checked [mustZero w 0 6, mustZero w 8 6, mustZero w 25 1] (.hadv (regOf 32 w 20 5) (regOf 64 w 14 6))
  | _ => .illegal

/-- Op 0x25, the token group (R156). -/
def dec25 (w : Nat) : Decoded :=
  match fld w 8 2 with
  | 0 => checked [mustZero w 4 4, mustZero w 10 16] (.tsig (regOf 16 w 0 4))
  | 1 => checked [mustZero w 4 4, mustZero w 10 16] (.twait (regOf 16 w 0 4))
  | 2 => checked [mustZero w 4 4, mustZero w 10 10] (.tcnt (regOf 64 w 20 6) (regOf 16 w 0 4))
  | _ => .illegal

/-- Op 0x26, GSET and GSETI (R156, R198). -/
def dec26 (w : Nat) : Decoded :=
  match fld w 22 1 with
  | 0 => checked [mustZero w 0 18] (.gset (regOf 8 w 23 3) (regOf 16 w 18 4))
  | _ => checked [mustZero w 0 18, mustZero w 19 3] (.gseti (regOf 8 w 23 3) (bitAt w 18))

/-- Op 0x2A, fences and phases (R156, R192). -/
def dec2A (w : Nat) : Decoded :=
  match fld w 23 3 with
  | 0 =>
    let c := match fld w 21 2 with
      | 1 => Instr.fenceAcq
      | 2 => Instr.fenceRel
      | _ => Instr.fenceAr
    checked [mustZero w 0 18, mustBe 18 (decide (fld w 18 3 < 6)), mustBe 21 (fld w 21 2 != 0)]
      (c (scopeOf (fld w 18 3)))
  | 1 => checked [mustZero w 0 7, mustBe 18 (decide (fld w 18 3 < 6)), mustZero w 21 2]
      (.flush (scopeOf (fld w 18 3)) (regOf 32 w 13 5) (regOf 64 w 7 6))
  | 2 => checked [mustZero w 0 7, mustBe 18 (decide (fld w 18 3 < 6)), mustZero w 21 2]
      (.inv (scopeOf (fld w 18 3)) (regOf 32 w 13 5) (regOf 64 w 7 6))
  | 3 => checked [mustZero w 0 18, mustBe 18 (decide (fld w 18 3 < 5)), mustZero w 21 2] (.phase (levelOf (fld w 18 3)))
  | 4 => checked [mustZero w 0 23] .commit
  | _ => .illegal

/-- Op 0x2B, the barrier group (R156, R201). -/
def dec2B (w : Nat) : Decoded :=
  match fld w 23 3 with
  | 0 => checked [mustBe 0 (decide (fld w 0 3 < 6)), mustZero w 3 9]
      (.binit (regOf 32 w 18 5) (regOf 64 w 12 6) (scopeOf (fld w 0 3)))
  | 1 => checked [mustZero w 0 7] (.bslot (regOf 32 w 18 5) (regOf 32 w 7 5) (regOf 64 w 12 6))
  | 2 => checked [mustZero w 0 12] (.bexpect (regOf 32 w 18 5) (regOf 64 w 12 6))
  | 3 => checked [mustZero w 0 18] (.barrive (regOf 32 w 18 5))
  | 4 => checked [mustZero w 0 18] (.bwait (regOf 32 w 18 5))
  | 5 => checked [mustZero w 0 3, mustZero w 7 11] (.btest (regOf 16 w 3 4) (regOf 32 w 18 5))
  | _ => .illegal

/-- Op 0x2C, the task group (R156, R203). -/
def dec2C (w : Nat) : Decoded :=
  match fld w 23 3 with
  | 0 => checked [mustZero w 0 14, mustZero w 20 3] (.spawn (regOf 64 w 14 6))
  | 1 => checked [mustZero w 0 23] .endT
  | 2 => checked [mustZero w 0 23] .yield
  | 3 => checked [mustZero w 0 14, mustZero w 20 3] (.park (regOf 64 w 14 6))
  | 4 => checked [mustZero w 0 14, mustZero w 20 3] (.wake (regOf 64 w 14 6))
  | 5 => checked [mustZero w 0 14, mustZero w 20 3] (.dmrw (regOf 64 w 14 6))
  | _ => .illegal

/-- Op 0x2D, pool objects and REPART (R156, R210). -/
def dec2D (w : Nat) : Decoded :=
  match fld w 23 3 with
  | 0 => checked [mustZero w 0 8, mustZero w 20 3] (.snapoRd (regOf 64 w 14 6) (regOf 64 w 8 6))
  | 1 => checked [mustZero w 0 8, mustZero w 20 3] (.snapoWr (regOf 64 w 14 6) (regOf 64 w 8 6))
  | 2 => checked [mustZero w 0 14, mustZero w 20 3] (.snapc (regOf 64 w 14 6))
  | 3 => checked [mustZero w 0 14, mustZero w 20 3] (.repart (regOf 64 w 14 6))
  | _ => .illegal

/-- Op 0x32, TRAP, RTE and BRK (R156, R213, R214). -/
def dec32 (w : Nat) : Decoded :=
  match fld w 24 2 with
  | 0 => checked [mustZero w 16 8] (.trap (BitVec.ofNat 16 (fld w 0 16)))
  | 1 => checked [mustZero w 0 24] .rte
  | 2 => checked [mustZero w 16 8] (.brk (BitVec.ofNat 16 (fld w 0 16)))
  | _ => .illegal

/-- Op 0x33, NOP, WFE and SEV (R156). -/
def dec33 (w : Nat) : Decoded :=
  match fld w 24 2 with
  | 0 => checked [mustZero w 0 24] .nop
  | 1 => checked [mustZero w 0 24] .wfe
  | 2 => checked [mustZero w 0 24] .sev
  | _ => .illegal

/-- A 32-bit control word (R151, R153). -/
def decodeCtl (w : Nat) : Decoded :=
  match fld w 26 6 with
  | 0x01 => dec01 w
  | 0x02 => decI .addi w
  | 0x03 => decI .andi w
  | 0x04 => decI .ori w
  | 0x05 => decI .xori w
  | 0x06 => decSh .slli w
  | 0x07 => decSh .srli w
  | 0x08 => decSh .srai w
  | 0x09 => decSh .rori w
  | 0x0A => decI .muli w
  | 0x0C => .ok (.li (regOf 64 w 20 6) (BitVec.ofNat 20 (fld w 0 20)))
  | 0x0D => .ok (.lhi (regOf 64 w 20 6) (BitVec.ofNat 20 (fld w 0 20)))
  | 0x0E => dec0E w
  | 0x0F => dec0F w
  | 0x10 => decM .ldB w
  | 0x11 => decM .ldH w
  | 0x12 => decM .ldW w
  | 0x13 => decM .ldD w
  | 0x14 => decM .stB w
  | 0x15 => decM .stH w
  | 0x16 => decM .stW w
  | 0x17 => decM .stD w
  | 0x18 => decAtom atomW w
  | 0x19 => decAtom atomD w
  | 0x1C => .ok (.pt (regOf 8 w 23 3) (BitVec.ofNat 23 (fld w 0 23)))
  | 0x1D => checked [mustZero w 23 3] (.j (BitVec.ofNat 23 (fld w 0 23)))
  | 0x1E => checked [mustZero w 0 18]
      (if bitAt w 18 then .brNot (regOf 8 w 23 3) (regOf 16 w 19 4) else .br (regOf 8 w 23 3) (regOf 16 w 19 4))
  | 0x1F => dec1F w
  | 0x20 => decS .ldsB .ldsH .ldsW .ldsD w
  | 0x21 => decS .stsB .stsH .stsW .stsD w
  | 0x22 => checked [mustZero w 15 5, mustZero w 25 1]
      (.hld (regOf 32 w 20 5) (regOf 64 w 9 6) (BitVec.ofNat 9 (fld w 0 9)))
  | 0x23 => checked [mustZero w 15 5, mustZero w 25 1]
      (.hst (regOf 32 w 20 5) (regOf 64 w 9 6) (BitVec.ofNat 9 (fld w 0 9)))
  | 0x24 => dec24 w
  | 0x25 => dec25 w
  | 0x26 => dec26 w
  | 0x27 => checked [mustZero w 0 14, mustZero w 20 6] (.fqw (regOf 64 w 14 6))
  | 0x28 => decI .allocS w
  | 0x29 => decI .allocV w
  | 0x2A => dec2A w
  | 0x2B => dec2B w
  | 0x2C => dec2C w
  | 0x2D => dec2D w
  | 0x30 =>
    match sregOf (fld w 0 12) with
    | some r => checked [mustZero w 12 8] (.srd (regOf 64 w 20 6) r)
    | none => .reserved 0
  | 0x31 =>
    match sregOf (fld w 0 12) with
    | some r => checked [mustZero w 12 2, mustZero w 20 6] (.swr r (regOf 64 w 14 6))
    | none => .reserved 0
  | 0x32 => dec32 w
  | 0x33 => dec33 w
  | 0x34 => checked [mustZero w 0 14, mustZero w 20 5]
      (if bitAt w 25 then .cswReg (regOf 64 w 14 6) else .csw (regOf 64 w 14 6))
  | 0x35 => checked [mustZero w 0 9, mustBe 20 (fld w 20 6 != 63)]
      (.chrd (regOf 64 w 20 6) (regOf 32 w 9 5) (regOf 64 w 14 6))
  | _ => .illegal

/-! ## Guards, transfer words and stream control -/

/-- A guard field whose enable stands at bit `lo` + 4, with the slot below it and the keep bit at `lo` (R159, R161). -/
def guardOf (w lo : Nat) : Option Guard :=
  if bitAt w (lo + 4) then some ⟨regOf 8 w (lo + 1) 3, bitAt w lo⟩ else none

/-- With GEN = 0, GSL and GKP must be 0 (R159). -/
def guardBad (w lo : Nat) : Option Nat := if bitAt w (lo + 4) then none else mustZero w lo 4

/-- The barrier field of a transfer word (R161). -/
def barOf (w : Nat) : Option KReg := if bitAt w 82 then some (regOf 32 w 77 5) else none

/-- BSL is 0 when BEN = 0 (R161). -/
def barBad (w : Nat) : Option Nat := if bitAt w 82 then none else mustZero w 77 5

/-- The fields of a transfer word (R161). -/
def xferOf (w : Nat) : Xfer :=
  ⟨guardOf w 83, barOf w, regOf 32 w 72 5, BitVec.ofNat 24 (fld w 48 24), regOf 32 w 43 5,
    BitVec.ofNat 24 (fld w 19 24), BitVec.ofNat 12 (fld w 2 12)⟩

/-- The stream-control forms (R164), by the low four bits of their op: bits 47:24 hold a count or an offset, and
bits 5:2 a token queue. `top` is the number of bits above bit 47 that are not op. -/
def decStream (loops jump : BitVec 24 → Instr) (tsig twait : QReg → Instr) (again halt : Instr) (top code w : Nat) :
    Decoded :=
  match code with
  | 0 => checked [mustZero w 2 22, mustZero w 48 top] (loops (BitVec.ofNat 24 (fld w 24 24)))
  | 1 => checked [mustZero w 2 (46 + top)] again
  | 2 => checked [mustZero w 2 22, mustZero w 48 top] (jump (BitVec.ofNat 24 (fld w 24 24)))
  | 3 => checked [mustZero w 6 (42 + top)] (tsig (regOf 16 w 2 4))
  | 4 => checked [mustZero w 6 (42 + top)] (twait (regOf 16 w 2 4))
  | 5 => checked [mustZero w 2 (46 + top)] halt
  | _ => .illegal

/-- A 96-bit parcel of the LD (`ld` true) or ST stream (R158, R161, R162). -/
def decodeXfer (ld : Bool) (w : Nat) : Decoded :=
  let x := xferOf w
  let gb := guardBad w 83
  let bb := barBad w
  let op := fld w 88 8
  if fld w 0 2 ≠ 0 then .illegal
  else if 0xF0 ≤ op then decStream .loops .jump .tsigLdSt .twaitLdSt .loope .stop 40 (op - 0xF0) w
  else match op, ld with
  | 0x01, _ => checked [gb, bb, mustZero w 14 5] (.copy x)
  | 0x02, _ => checked [gb, bb, mustZero w 14 5] (.copyt x)
  | 0x03, _ => checked [gb, bb, mustBe 14 (decide (fld w 14 3 < 4)), mustZero w 18 1]
      (.copyc x (rndOf (fld w 14 3)) (bitAt w 17))
  | 0x04, true => checked [gb, bb] (.gather x (regOf 32 w 14 5))
  | 0x05, false => checked [gb, bb] (.scatter x (regOf 32 w 14 5))
  | 0x06, _ => checked [gb, bb, mustZero w 14 5] (.fill x)
  | 0x07, false => checked [gb, bb, mustZero w 14 5] (.redadd x)
  | 0x08, true => checked [gb, mustZero w 14 5, mustZero w 48 29, mustZero w 77 6] (.pref x.guard x.sh x.soff x.cnt)
  | 0x09, true => checked [gb, bb, mustZero w 14 5] (.bcopy x)
  | 0x0A, _ => checked [gb, mustZero w 6 77] (.radv x.guard (regOf 16 w 2 4))
  | _, _ => .illegal

/-! ## Vector words -/

/-- An operand field of 23 bits at `lo` (R160). -/
def operandOf (w lo : Nat) : Operand :=
  match fld w (lo + 21) 2 with
  | 0 => .latch
  | 1 => .file (regOf 16 w lo 4)
  | 2 => .main (regOf 1024 w lo 10)
  | _ => .stream (regOf 32 w (lo + 16) 5) (BitVec.ofNat 16 (fld w lo 16))

/-- The bits of an operand field that must be zero at its level (R160). -/
def operandBad (w lo : Nat) : Option Nat :=
  match fld w (lo + 21) 2 with
  | 0 => mustZero w lo 21
  | 1 => mustZero w (lo + 4) 17
  | 2 => mustZero w (lo + 10) 11
  | _ => none

/-- The predicate field (R159). -/
def predOf (w : Nat) : Option PReg := if bitAt w 79 then some (regOf 8 w 76 3) else none

/-- With PEN = 0, PSEL must be 0 (R159). -/
def predBad (w : Nat) : Option Nat := if bitAt w 79 then none else mustZero w 76 3

/-- PEN = 0 and GEN = 0 rules of every vector word (R159). -/
def vecBad (w : Nat) : Option Nat := lowerBit (predBad w) (guardBad w 71)

/-- The format field with its class (R243): the format, or B1 as a stand-in where the code is bad. -/
def fmtField (w : Nat) : Fmt := (fmtOf (fld w 80 6)).getD .b1

/-- A format outside the class is a reserved code (R243). -/
def fmtBad (w : Nat) (cls : Fmt → Bool) : Option Nat :=
  match fmtOf (fld w 80 6) with
  | some f => mustBe 80 (cls f)
  | none => some 80

/-- A vector word with D, A and B (R159). A D at level 11 is illegal (R160). -/
def decV2 (cls : Fmt → Bool) (c : Vec2 → Instr) (w : Nat) : Decoded :=
  if fld w 69 2 = 3 then .illegal
  else checked [vecBad w, fmtBad w cls, operandBad w 48, operandBad w 25, operandBad w 2]
    (c ⟨fmtField w, predOf w, guardOf w 71, operandOf w 48, operandOf w 25, operandOf w 2⟩)

/-- A vector word with D and A (R159); its B field goes through `bBad`. -/
def decV1 (cls : Fmt → Bool) (bBad : Option Nat) (c : Vec1 → Instr) (w : Nat) : Decoded :=
  if fld w 69 2 = 3 then .illegal
  else checked [vecBad w, fmtBad w cls, operandBad w 48, operandBad w 25, bBad]
    (c ⟨fmtField w, predOf w, guardOf w 71, operandOf w 48, operandOf w 25⟩)

/-- The vector instructions with two sources, with their classes (R249, R251, R252, R259, R264). -/
def vec2Of : Nat → Option ((Fmt → Bool) × (Vec2 → Instr))
  | 0x001 => some (Fmt.isFF, .vadd) | 0x002 => some (Fmt.isFF, .vsub) | 0x003 => some (Fmt.isFF, .vmul)
  | 0x004 => some (Fmt.isFF, .vfma) | 0x005 => some (Fmt.isFF, .vfms) | 0x006 => some (Fmt.isFF, .vfnma)
  | 0x007 => some (Fmt.isFF, .vfnms) | 0x008 => some (Fmt.isFF, .vdiv) | 0x010 => some (Fmt.isFF, .vmin)
  | 0x011 => some (Fmt.isFF, .vmax) | 0x014 => some (Fmt.isFF, .vclamp)
  | 0x020 => some (Fmt.isIW, .viadd) | 0x021 => some (Fmt.isIW, .visub) | 0x022 => some (Fmt.isIW, .vimul)
  | 0x023 => some (Fmt.isIW, .vimulh) | 0x024 => some (Fmt.isNone, .vand) | 0x025 => some (Fmt.isNone, .vor)
  | 0x026 => some (Fmt.isNone, .vxor) | 0x027 => some (Fmt.isNone, .vandn) | 0x028 => some (Fmt.isIW, .vsll)
  | 0x029 => some (Fmt.isIW, .vsrl) | 0x02A => some (Fmt.isIW, .vsra) | 0x02B => some (Fmt.isIW, .vrol)
  | 0x030 => some (Fmt.isN64, .vclmul) | 0x031 => some (Fmt.isN64, .vclmulh)
  | 0x051 => some (Fmt.isNW, .vpack) | 0x070 => some (Fmt.isAW, .vperm)
  | _ => none

/-- The unary vector instructions whose B field is zero, with their classes. -/
def vec1Of : Nat → Option ((Fmt → Bool) × (Vec1 → Instr))
  | 0x009 => some (Fmt.isFF, .vsqrt) | 0x00A => some (Fmt.isFT, .vrsqrt) | 0x00B => some (Fmt.isFT, .vrcp)
  | 0x00C => some (Fmt.isFT, .vexp2) | 0x00D => some (Fmt.isFT, .vlog2) | 0x00E => some (Fmt.isFT, .vexp)
  | 0x00F => some (Fmt.isFT, .vtanh) | 0x012 => some (Fmt.isFF, .vabs) | 0x013 => some (Fmt.isFF, .vneg)
  | 0x02C => some (Fmt.isIW, .vpopc) | 0x02D => some (Fmt.isIW, .vclz) | 0x032 => some (Fmt.isBswap, .vbswap)
  | 0x033 => some (Fmt.isIW, .vbrev) | 0x060 => some (Fmt.isW32, .vradd) | 0x061 => some (Fmt.isW32, .vrmax)
  | 0x062 => some (Fmt.isW32, .vrmin) | 0x063 => some (Fmt.isW32, .vargmax) | 0x064 => some (Fmt.isW32, .vtopk8)
  | 0x074 => some (Fmt.isW32, .vscan) | 0x075 => some (Fmt.isNone, .vmov)
  | _ => none

/-- The predicate logic forms (R255): PEN must be 0, the format B1. -/
def decPredicate (c : Option Guard → PReg → PReg → PReg → Instr) (unary : Bool) (w : Nat) : Decoded :=
  checked [vecBad w, fmtBad w Fmt.isNone, mustZero w 79 1, mustZero w 51 20, mustZero w 28 20,
      if unary then mustZero w 2 23 else mustZero w 5 20]
    (c (guardOf w 71) (regOf 8 w 48 3) (regOf 8 w 25 3) (regOf 8 w 2 3))

/-- VOTE (R256). -/
def decVote (w : Nat) : Decoded :=
  let bad := [vecBad w, fmtBad w Fmt.isNone, mustZero w 54 17, mustZero w 28 20, mustZero w 2 23]
  let f := regOf 16 w 48 4
  let p := regOf 8 w 25 3
  match fld w 52 2 with
  | 0 => checked bad (.voteAny (predOf w) (guardOf w 71) f p)
  | 1 => checked bad (.voteAll (predOf w) (guardOf w 71) f p)
  | 2 => checked bad (.voteNone (predOf w) (guardOf w 71) f p)
  | _ => checked (mustZero w 48 4 :: bad) (.voteCnt (predOf w) (guardOf w 71) p)

/-- VCVT (R258): FMT the destination format, B the source format, the mode and the E4M3 bit. -/
def decVcvt (w : Nat) : Decoded :=
  let wide := match fmtOf (fld w 80 6), fmtOf (fld w 2 6) with
    | some d, some s => decide (32 ≤ d.width) || decide (32 ≤ s.width)
    | _, _ => true
  let sBad := match fmtOf (fld w 2 6) with
    | some s => mustBe 2 s.isNum
    | none => some 2
  if fld w 69 2 = 3 then .illegal
  else checked [vecBad w, fmtBad w Fmt.isNum, operandBad w 48, operandBad w 25, sBad,
      mustBe 8 (decide (fld w 8 3 < 5) && (fld w 8 3 != 4 || wide)), mustZero w 12 13]
    (.vcvt ⟨fmtField w, predOf w, guardOf w 71, operandOf w 48, operandOf w 25⟩ ((fmtOf (fld w 2 6)).getD .b1)
      (rndOf (fld w 8 3)) (bitAt w 11))

/-- VCMP (R254): D holds the predicate and the condition. -/
def decVcmp (w : Nat) : Decoded :=
  checked [vecBad w, fmtBad w Fmt.isW64, operandBad w 25, operandBad w 2, mustZero w 55 16,
      mustBe 51 (decide (fld w 51 4 < 6) || (fld w 51 4 == 6 && (fmtField w).isFloat))]
    (.vcmp (fmtField w) (predOf w) (guardOf w 71) (regOf 8 w 48 3) (vcondOf (fld w 51 4)) (operandOf w 25)
      (operandOf w 2))

/-- A vector parcel of code 00 in the CMP stream (R159, R163). DEDUCED (log 88): the D field of VSETN, which names no operand,
is a field that must be zero (R264), reserved at level 11 as at every other value, and not the D operand that R160 calls
illegal there. -/
def decodeVec (w : Nat) : Decoded :=
  let op := fld w 86 10
  if 0x3F0 ≤ op then decStream .loopsCmp .jumpCmp .tsigCmp .twaitCmp .loopeCmp .stopCmp 38 (op - 0x3F0) w
  else match vec2Of op, vec1Of op with
  | some (cls, c), _ => decV2 cls c w
  | none, some (cls, c) => decV1 cls (mustZero w 2 23) c w
  | none, none =>
    match op with
    | 0x040 => decVcmp w
    | 0x041 => decPredicate .vpand false w
    | 0x042 => decPredicate .vpor false w
    | 0x043 => decPredicate .vpxor false w
    | 0x044 => decPredicate (fun g d a _ => .vpnot g d a) true w
    | 0x045 => decVote w
    | 0x050 => decVcvt w
    | 0x052 =>
      if fld w 69 2 = 3 then .illegal
      else checked [vecBad w, fmtBad w Fmt.isNW, operandBad w 48, operandBad w 25, mustZero w 5 20,
          mustBe 2 (decide (fld w 2 3 < 32 / (fmtField w).width))]
        (.vunpack ⟨fmtField w, predOf w, guardOf w 71, operandOf w 48, operandOf w 25⟩ (regOf 8 w 2 3))
    | 0x071 =>
      if fld w 69 2 = 3 then .illegal
      else checked [vecBad w, fmtBad w Fmt.isAW, operandBad w 48, operandBad w 25, mustZero w 10 15,
          mustBe 2 (decide (fld w 2 8 < (fmtField w).perVec))]
        (.vbcast ⟨fmtField w, predOf w, guardOf w 71, operandOf w 48, operandOf w 25⟩ (BitVec.ofNat 8 (fld w 2 8)))
    | 0x072 =>
      if fld w 69 2 = 3 then .illegal
      else checked [vecBad w, fmtBad w Fmt.isNone, operandBad w 48, operandBad w 25, operandBad w 2,
          mustBe 79 (bitAt w 79)]
        (.vsel ⟨fmtField w, predOf w, guardOf w 71, operandOf w 48, operandOf w 25, operandOf w 2⟩)
    | 0x073 =>
      if fld w 69 2 = 3 then .illegal
      else checked [vecBad w, fmtBad w Fmt.isIW, operandBad w 48, mustZero w 41 7, mustZero w 2 23]
        (.viota (fmtField w) (predOf w) (guardOf w 71) (operandOf w 48) (BitVec.ofNat 16 (fld w 25 16)))
    | 0x076 => checked [vecBad w, fmtBad w Fmt.isNone, mustZero w 79 1, mustZero w 75 1, mustZero w 32 16,
          mustZero w 48 23, mustZero w 2 23, mustBe 25 (decide (1 ≤ fld w 25 7) && decide (fld w 25 7 ≤ 64))]
        (.vsetn (BitVec.ofNat 7 (fld w 25 7)))
    | _ => .illegal

/-! ## Matrix words -/

/-- The fields of a matrix word (R165). -/
def matOf (w : Nat) : Mat :=
  ⟨guardOf w 179, regOf 32 w 174 5, BitVec.ofNat 24 (fld w 150 24), regOf 32 w 145 5, BitVec.ofNat 24 (fld w 121 24),
    BitVec.ofNat 12 (fld w 109 12), BitVec.ofNat 11 (fld w 98 11), regOf 32 w 91 5, regOf 32 w 86 5,
    BitVec.ofNat 6 (fld w 80 6), BitVec.ofNat 6 (fld w 74 6), accOf (fld w 72 2), bitAt w 71, bitAt w 70, bitAt w 69⟩

/-- A batched count is 1 to 16 (R276). -/
def countBad (w lo : Nat) : Option Nat :=
  mustBe lo (!bitAt w 69 || (decide (1 ≤ fld w lo 6) && decide (fld w lo 6 ≤ 16)))

/-- Which fields an op leaves unread, by R276: A, B, K, the auxiliary handles, M and N, TA, and BAT forced to
`bat` where it is given. -/
def matBad (w : Nat) (noA noB noK noAux noMN noTA : Bool) (bat : Option Bool) : List (Option Nat) :=
  [guardBad w 179, mustZero w 2 67, mustBe 72 (fld w 72 2 != 3),
    if noA then lowerBit (mustZero w 174 5) (mustZero w 150 24) else none,
    if noB then lowerBit (lowerBit (mustZero w 145 5) (mustZero w 121 24)) (mustZero w 70 1) else none,
    if noK then lowerBit (mustZero w 98 11) (mustZero w 72 2) else mustBe 98 (fld w 98 11 != 0),
    if noAux then mustZero w 86 10 else none,
    if noMN then mustZero w 74 12 else lowerBit (countBad w 80) (countBad w 74),
    if noTA then mustZero w 71 1 else none,
    match bat with
    | some b => mustBe 69 (bitAt w 69 == b)
    | none => none]

/-- A 192-bit matrix word (R165, R276); its two parcel codes have been checked (R158). -/
def decodeMat (w : Nat) : Decoded :=
  let x := matOf w
  match fld w 184 8 with
  | 0x01 => checked (matBad w false false false true false false (some false)) (.mma x)
  | 0x02 => checked (matBad w false false false true false false (some true)) (.mmab x)
  | 0x03 => checked (matBad w false false false false false false (some false)) (.mmag x)
  | 0x04 => checked (matBad w true true true true false true none) (.mzero x)
  | 0x05 => checked (matBad w false true true true false false none) (.mld x)
  | 0x06 => checked (matBad w false true true false false false none) (.mst x)
  | 0x07 => checked (matBad w false true true true true true (some false)) (.mstat x)
  | 0x08 => checked (matBad w true true true true true true (some false)) .mclr
  | _ => .illegal

/-- The word that begins at a parcel of the CMP stream, and its length in parcels (R145, R158). The first parcel of
a matrix word holds bits 191:96. -/
def decodeCmp (p : Nat) (next : Option Nat) : Decoded × Nat :=
  match fld p 0 2, next with
  | 0, _ => (decodeVec p, 1)
  | 1, some q => if fld q 0 2 = 2 then (decodeMat (p * 2 ^ 96 + q), 2) else (.illegal, 1)
  | _, _ => (.illegal, 1)

/-- The kinds of instruction word: a control word, a parcel of LD or ST, a parcel of CMP, a matrix word. -/
inductive WordKind where
  | ctl | ld | st | vec | mat
deriving DecidableEq, Repr

/-- The decoder of each kind of word. -/
def decodeWord : WordKind → Nat → Decoded
  | .ctl, w => decodeCtl w
  | .ld, w => decodeXfer true w
  | .st, w => decodeXfer false w
  | .vec, w => (decodeCmp w none).1
  | .mat, w => (decodeCmp (w / 2 ^ 96) (some (w % 2 ^ 96))).1

/-- The instruction of a decoding, if it is one. -/
def Decoded.toOption : Decoded → Option Instr
  | .ok i => some i
  | .illegal | .reserved _ => none

/-- The kind of word that an opcode-table word of `nbits` bits is: 32 bits are a control word, 96 bits the first of a parcel
of LD, ST or CMP that decodes, 192 bits a matrix word whose parcels stand as R145 stores them (bits 191:96 first). -/
def tableKind (nbits w : Nat) : WordKind :=
  if nbits ≤ 32 then .ctl
  else if nbits ≤ 96 then
    if (decodeWord .ld w).toOption.isSome then .ld else if (decodeWord .st w).toOption.isSome then .st else .vec
  else .mat

/-- The instruction that the decoder reads from an opcode-table word. -/
def decodeTableWord (nbits w : Nat) : Option Instr := (decodeWord (tableKind nbits w) w).toOption

/-! ## The encoder -/

/-- Format R (R151). -/
def packR (op d a b fn : Nat) : Nat := op * 2 ^ 26 + d * 2 ^ 20 + a * 2 ^ 14 + b * 2 ^ 8 + fn
/-- Format I (R151). -/
def packI (op d a imm : Nat) : Nat := op * 2 ^ 26 + d * 2 ^ 20 + a * 2 ^ 14 + imm
/-- Format U (R151). -/
def packU (op d imm : Nat) : Nat := op * 2 ^ 26 + d * 2 ^ 20 + imm
/-- Format M (R151). -/
def packM (op d h a imm : Nat) : Nat := op * 2 ^ 26 + d * 2 ^ 20 + h * 2 ^ 15 + a * 2 ^ 9 + imm
/-- Format A (R151). -/
def packA (op fn : Nat) (o : Atom) : Nat :=
  op * 2 ^ 26 + o.d.val * 2 ^ 20 + o.h.val * 2 ^ 15 + o.a.val * 2 ^ 9 + fn * 2 ^ 5 + o.ord.code * 2 ^ 3 + o.scope.code
/-- Format B with imm23 (R151). -/
def packB (op b imm : Nat) : Nat := op * 2 ^ 26 + b * 2 ^ 23 + imm
/-- Format B of BR (R151). -/
def packBr (b f sense : Nat) : Nat := 0x1E * 2 ^ 26 + b * 2 ^ 23 + f * 2 ^ 19 + sense * 2 ^ 18
/-- The S groups whose sub field is bits 25:23 (R156); `low` holds bits 22:0. -/
def packS (op sub low : Nat) : Nat := op * 2 ^ 26 + sub * 2 ^ 23 + low
/-- The guard field with its keep bit at 0 (R159, R161). -/
def packGuard : Option Guard → Nat
  | none => 0
  | some g => 16 + g.slot.val * 2 + b2n g.keep
/-- The barrier field with BSL at 0 (R161). -/
def packBar : Option KReg → Nat
  | none => 0
  | some k => 32 + k.val
/-- A transfer word (R161). -/
def packX (op : Nat) (w : Xfer) (xh : Nat) : Nat :=
  op * 2 ^ 88 + packGuard w.guard * 2 ^ 83 + packBar w.bar * 2 ^ 77 + w.dh.val * 2 ^ 72 + w.doff.toNat * 2 ^ 48
    + w.sh.val * 2 ^ 43 + w.soff.toNat * 2 ^ 19 + xh * 2 ^ 14 + w.cnt.toNat * 2 ^ 2
/-- The predicate field with PSEL at 0 (R159). -/
def packPred : Option PReg → Nat
  | none => 0
  | some p => 8 + p.val
/-- An operand field (R160). -/
def packOp : Operand → Nat
  | .latch => 0
  | .file o => 1 * 2 ^ 21 + o.val
  | .main v => 2 * 2 ^ 21 + v.val
  | .stream h off => 3 * 2 ^ 21 + h.val * 2 ^ 16 + off.toNat
/-- A vector word (R159). -/
def packV (op : Nat) (f : Fmt) (p : Option PReg) (g : Option Guard) (d a b : Nat) : Nat :=
  op * 2 ^ 86 + f.code * 2 ^ 80 + packPred p * 2 ^ 76 + packGuard g * 2 ^ 71 + d * 2 ^ 48 + a * 2 ^ 25 + b * 2 ^ 2
/-- A vector word with two sources. -/
def packV2 (op : Nat) (w : Vec2) : Nat := packV op w.fmt w.pred w.guard (packOp w.d) (packOp w.a) (packOp w.b)
/-- A unary vector word; `b` is its B field. -/
def packV1 (op : Nat) (w : Vec1) (b : Nat) : Nat := packV op w.fmt w.pred w.guard (packOp w.d) (packOp w.a) b
/-- A matrix word (R165). -/
def packMat (op : Nat) (w : Mat) : Nat :=
  op * 2 ^ 184 + packGuard w.guard * 2 ^ 179 + w.ah.val * 2 ^ 174 + w.aoff.toNat * 2 ^ 150 + w.bh.val * 2 ^ 145
    + w.boff.toNat * 2 ^ 121 + w.ct.toNat * 2 ^ 109 + w.k.toNat * 2 ^ 98 + 1 * 2 ^ 96 + w.sh.val * 2 ^ 91
    + w.zh.val * 2 ^ 86 + w.m.toNat * 2 ^ 80 + w.n.toNat * 2 ^ 74 + w.acc.code * 2 ^ 72 + b2n w.ta * 2 ^ 71
    + b2n w.tb * 2 ^ 70 + b2n w.bat * 2 ^ 69 + 2

/-- The encoder: the kind and the word of an instruction (R151 to R165); an event has none. -/
def encode : Instr → Option (WordKind × Nat)
  | .add d a b => some (.ctl, packR 1 d a b 0x00) | .sub d a b => some (.ctl, packR 1 d a b 0x01)
  | .and d a b => some (.ctl, packR 1 d a b 0x02) | .or d a b => some (.ctl, packR 1 d a b 0x03)
  | .xor d a b => some (.ctl, packR 1 d a b 0x04) | .andn d a b => some (.ctl, packR 1 d a b 0x05)
  | .sll d a b => some (.ctl, packR 1 d a b 0x06) | .srl d a b => some (.ctl, packR 1 d a b 0x07)
  | .sra d a b => some (.ctl, packR 1 d a b 0x08) | .rol d a b => some (.ctl, packR 1 d a b 0x09)
  | .ror d a b => some (.ctl, packR 1 d a b 0x0A) | .mul d a b => some (.ctl, packR 1 d a b 0x0B)
  | .mulh d a b => some (.ctl, packR 1 d a b 0x0C) | .mulhn d a b => some (.ctl, packR 1 d a b 0x0D)
  | .div d a b => some (.ctl, packR 1 d a b 0x0E) | .divn d a b => some (.ctl, packR 1 d a b 0x0F)
  | .rem d a b => some (.ctl, packR 1 d a b 0x10) | .remn d a b => some (.ctl, packR 1 d a b 0x11)
  | .min d a b => some (.ctl, packR 1 d a b 0x12) | .max d a b => some (.ctl, packR 1 d a b 0x13)
  | .minn d a b => some (.ctl, packR 1 d a b 0x14) | .maxn d a b => some (.ctl, packR 1 d a b 0x15)
  | .clz d a => some (.ctl, packR 1 d a 0 0x16) | .ctz d a => some (.ctl, packR 1 d a 0 0x17)
  | .popc d a => some (.ctl, packR 1 d a 0 0x18) | .sextB d a => some (.ctl, packR 1 d a 0 0x19)
  | .sextH d a => some (.ctl, packR 1 d a 0 0x1A) | .sextW d a => some (.ctl, packR 1 d a 0 0x1B)
  | .zextB d a => some (.ctl, packR 1 d a 0 0x1C) | .zextH d a => some (.ctl, packR 1 d a 0 0x1D)
  | .zextW d a => some (.ctl, packR 1 d a 0 0x1E) | .bswap d a => some (.ctl, packR 1 d a 0 0x1F)
  | .addi d a i => some (.ctl, packI 0x02 d a i.toNat) | .andi d a i => some (.ctl, packI 0x03 d a i.toNat)
  | .ori d a i => some (.ctl, packI 0x04 d a i.toNat) | .xori d a i => some (.ctl, packI 0x05 d a i.toNat)
  | .slli d a n => some (.ctl, packI 0x06 d a n) | .srli d a n => some (.ctl, packI 0x07 d a n)
  | .srai d a n => some (.ctl, packI 0x08 d a n) | .rori d a n => some (.ctl, packI 0x09 d a n)
  | .muli d a i => some (.ctl, packI 0x0A d a i.toNat)
  | .li d i => some (.ctl, packU 0x0C d i.toNat) | .lhi d i => some (.ctl, packU 0x0D d i.toNat)
  | .cmpEq f a b => some (.ctl, packR 0x0E f a b 0) | .cmpNe f a b => some (.ctl, packR 0x0E f a b 1)
  | .cmpLt f a b => some (.ctl, packR 0x0E f a b 2) | .cmpGe f a b => some (.ctl, packR 0x0E f a b 3)
  | .cmpLtn f a b => some (.ctl, packR 0x0E f a b 4) | .cmpGen f a b => some (.ctl, packR 0x0E f a b 5)
  | .cmpLe f a b => some (.ctl, packR 0x0E f a b 6) | .cmpGt f a b => some (.ctl, packR 0x0E f a b 7)
  | .cmpLen f a b => some (.ctl, packR 0x0E f a b 8) | .cmpGtn f a b => some (.ctl, packR 0x0E f a b 9)
  | .fand f a b => some (.ctl, packR 0x0E f a b 0x10) | .forF f a b => some (.ctl, packR 0x0E f a b 0x11)
  | .fxor f a b => some (.ctl, packR 0x0E f a b 0x12) | .fandn f a b => some (.ctl, packR 0x0E f a b 0x13)
  | .fnot f a => some (.ctl, packR 0x0E f a 0 0x14)
  | .cmpiEq f a i => some (.ctl, packI 0x0F f a (0 * 2 ^ 10 + i.toNat))
  | .cmpiNe f a i => some (.ctl, packI 0x0F f a (1 * 2 ^ 10 + i.toNat))
  | .cmpiLt f a i => some (.ctl, packI 0x0F f a (2 * 2 ^ 10 + i.toNat))
  | .cmpiGe f a i => some (.ctl, packI 0x0F f a (3 * 2 ^ 10 + i.toNat))
  | .cmpiLtn f a i => some (.ctl, packI 0x0F f a (4 * 2 ^ 10 + i.toNat))
  | .cmpiGen f a i => some (.ctl, packI 0x0F f a (5 * 2 ^ 10 + i.toNat))
  | .cmpiLe f a i => some (.ctl, packI 0x0F f a (6 * 2 ^ 10 + i.toNat))
  | .cmpiGt f a i => some (.ctl, packI 0x0F f a (7 * 2 ^ 10 + i.toNat))
  | .cmpiLen f a i => some (.ctl, packI 0x0F f a (8 * 2 ^ 10 + i.toNat))
  | .cmpiGtn f a i => some (.ctl, packI 0x0F f a (9 * 2 ^ 10 + i.toNat))
  | .ldB d h a i => some (.ctl, packM 0x10 d h a i.toNat) | .ldH d h a i => some (.ctl, packM 0x11 d h a i.toNat)
  | .ldW d h a i => some (.ctl, packM 0x12 d h a i.toNat) | .ldD d h a i => some (.ctl, packM 0x13 d h a i.toNat)
  | .stB d h a i => some (.ctl, packM 0x14 d h a i.toNat) | .stH d h a i => some (.ctl, packM 0x15 d h a i.toNat)
  | .stW d h a i => some (.ctl, packM 0x16 d h a i.toNat) | .stD d h a i => some (.ctl, packM 0x17 d h a i.toNat)
  | .aaddW o => some (.ctl, packA 0x18 0 o) | .aminW o => some (.ctl, packA 0x18 1 o)
  | .amaxW o => some (.ctl, packA 0x18 2 o) | .aminnW o => some (.ctl, packA 0x18 3 o)
  | .amaxnW o => some (.ctl, packA 0x18 4 o) | .aandW o => some (.ctl, packA 0x18 5 o)
  | .aorW o => some (.ctl, packA 0x18 6 o) | .axorW o => some (.ctl, packA 0x18 7 o)
  | .aswpW o => some (.ctl, packA 0x18 8 o) | .acasW o => some (.ctl, packA 0x18 9 o)
  | .afaddW o => some (.ctl, packA 0x18 10 o) | .aldW o => some (.ctl, packA 0x18 11 o)
  | .astW o => some (.ctl, packA 0x18 12 o)
  | .aaddD o => some (.ctl, packA 0x19 0 o) | .aminD o => some (.ctl, packA 0x19 1 o)
  | .amaxD o => some (.ctl, packA 0x19 2 o) | .aminnD o => some (.ctl, packA 0x19 3 o)
  | .amaxnD o => some (.ctl, packA 0x19 4 o) | .aandD o => some (.ctl, packA 0x19 5 o)
  | .aorD o => some (.ctl, packA 0x19 6 o) | .axorD o => some (.ctl, packA 0x19 7 o)
  | .aswpD o => some (.ctl, packA 0x19 8 o) | .acasD o => some (.ctl, packA 0x19 9 o)
  | .afaddD o => some (.ctl, packA 0x19 10 o) | .aldD o => some (.ctl, packA 0x19 11 o)
  | .astD o => some (.ctl, packA 0x19 12 o)
  | .pt b i => some (.ctl, packB 0x1C b i.toNat) | .j i => some (.ctl, packB 0x1D 0 i.toNat)
  | .br b f => some (.ctl, packBr b f 0) | .brNot b f => some (.ctl, packBr b f 1)
  | .ptr b a => some (.ctl, packS 0x1F b (0 * 2 ^ 20 + a * 2 ^ 14))
  | .call b => some (.ctl, packS 0x1F b (1 * 2 ^ 20)) | .ret => some (.ctl, packS 0x1F 0 (2 * 2 ^ 20))
  | .loop b a => some (.ctl, packS 0x1F b (3 * 2 ^ 20 + a * 2 ^ 14))
  | .ldsB d a i => some (.ctl, packM 0x20 d 0 a i.toNat) | .ldsH d a i => some (.ctl, packM 0x20 d 1 a i.toNat)
  | .ldsW d a i => some (.ctl, packM 0x20 d 2 a i.toNat) | .ldsD d a i => some (.ctl, packM 0x20 d 3 a i.toNat)
  | .stsB d a i => some (.ctl, packM 0x21 d 0 a i.toNat) | .stsH d a i => some (.ctl, packM 0x21 d 1 a i.toNat)
  | .stsW d a i => some (.ctl, packM 0x21 d 2 a i.toNat) | .stsD d a i => some (.ctl, packM 0x21 d 3 a i.toNat)
  | .hld h a i => some (.ctl, packM 0x22 h 0 a i.toNat) | .hst h a i => some (.ctl, packM 0x23 h 0 a i.toNat)
  | .hsetf h a f => some (.ctl, packR 0x24 h a 0 (0 * 2 ^ 6 + f.code))
  | .hgetf d h f => some (.ctl, packR 0x24 d 0 h (1 * 2 ^ 6 + f.code))
  | .hadv h a => some (.ctl, packR 0x24 h a 0 (2 * 2 ^ 6))
  | .tsig q => some (.ctl, packU 0x25 0 (0 * 2 ^ 8 + q)) | .twait q => some (.ctl, packU 0x25 0 (1 * 2 ^ 8 + q))
  | .tcnt d q => some (.ctl, packU 0x25 d (2 * 2 ^ 8 + q))
  | .gset g f => some (.ctl, packS 0x26 g (0 * 2 ^ 22 + f * 2 ^ 18))
  | .gseti g v => some (.ctl, packS 0x26 g (1 * 2 ^ 22 + b2n v * 2 ^ 18))
  | .fqw a => some (.ctl, packI 0x27 0 a 0)
  | .allocS d a i => some (.ctl, packI 0x28 d a i.toNat) | .allocV d a i => some (.ctl, packI 0x29 d a i.toNat)
  | .fenceAcq s => some (.ctl, packS 0x2A 0 (1 * 2 ^ 21 + s.code * 2 ^ 18))
  | .fenceRel s => some (.ctl, packS 0x2A 0 (2 * 2 ^ 21 + s.code * 2 ^ 18))
  | .fenceAr s => some (.ctl, packS 0x2A 0 (3 * 2 ^ 21 + s.code * 2 ^ 18))
  | .flush s h a => some (.ctl, packS 0x2A 1 (s.code * 2 ^ 18 + h * 2 ^ 13 + a * 2 ^ 7))
  | .inv s h a => some (.ctl, packS 0x2A 2 (s.code * 2 ^ 18 + h * 2 ^ 13 + a * 2 ^ 7))
  | .phase l => some (.ctl, packS 0x2A 3 (l.code * 2 ^ 18)) | .commit => some (.ctl, packS 0x2A 4 0)
  | .binit k a s => some (.ctl, packS 0x2B 0 (k * 2 ^ 18 + a * 2 ^ 12 + s.code))
  | .bslot k h a => some (.ctl, packS 0x2B 1 (k * 2 ^ 18 + a * 2 ^ 12 + h * 2 ^ 7))
  | .bexpect k a => some (.ctl, packS 0x2B 2 (k * 2 ^ 18 + a * 2 ^ 12))
  | .barrive k => some (.ctl, packS 0x2B 3 (k * 2 ^ 18)) | .bwait k => some (.ctl, packS 0x2B 4 (k * 2 ^ 18))
  | .btest f k => some (.ctl, packS 0x2B 5 (k * 2 ^ 18 + f * 2 ^ 3))
  | .spawn a => some (.ctl, packS 0x2C 0 (a * 2 ^ 14)) | .endT => some (.ctl, packS 0x2C 1 0)
  | .yield => some (.ctl, packS 0x2C 2 0) | .park a => some (.ctl, packS 0x2C 3 (a * 2 ^ 14))
  | .wake a => some (.ctl, packS 0x2C 4 (a * 2 ^ 14)) | .dmrw a => some (.ctl, packS 0x2C 5 (a * 2 ^ 14))
  | .snapoRd a b => some (.ctl, packS 0x2D 0 (a * 2 ^ 14 + b * 2 ^ 8))
  | .snapoWr a b => some (.ctl, packS 0x2D 1 (a * 2 ^ 14 + b * 2 ^ 8))
  | .snapc a => some (.ctl, packS 0x2D 2 (a * 2 ^ 14)) | .repart a => some (.ctl, packS 0x2D 3 (a * 2 ^ 14))
  | .srd d r => some (.ctl, packU 0x30 d r.code) | .swr r a => some (.ctl, packI 0x31 0 a r.code)
  | .trap c => some (.ctl, 0x32 * 2 ^ 26 + 0 * 2 ^ 24 + c.toNat) | .rte => some (.ctl, 0x32 * 2 ^ 26 + 1 * 2 ^ 24)
  | .brk c => some (.ctl, 0x32 * 2 ^ 26 + 2 * 2 ^ 24 + c.toNat)
  | .nop => some (.ctl, 0x33 * 2 ^ 26) | .wfe => some (.ctl, 0x33 * 2 ^ 26 + 1 * 2 ^ 24)
  | .sev => some (.ctl, 0x33 * 2 ^ 26 + 2 * 2 ^ 24)
  | .csw a => some (.ctl, packI 0x34 0 a 0) | .cswReg a => some (.ctl, packI 0x34 32 a 0)
  | .chrd d h a => some (.ctl, packI 0x35 d a (h * 2 ^ 9))
  | .copy w => some (.ld, packX 0x01 w 0) | .copyt w => some (.ld, packX 0x02 w 0)
  | .copyc w m p => some (.ld, packX 0x03 w (m.code + b2n p * 2 ^ 3))
  | .gather w x => some (.ld, packX 0x04 w x) | .scatter w x => some (.st, packX 0x05 w x)
  | .fill w => some (.ld, packX 0x06 w 0) | .redadd w => some (.st, packX 0x07 w 0)
  | .pref g sh so c => some (.ld, packX 0x08 ⟨g, none, 0, 0, sh, so, c⟩ 0)
  | .bcopy w => some (.ld, packX 0x09 w 0)
  | .radv g q => some (.ld, packX 0x0A ⟨g, none, 0, 0, 0, 0, BitVec.ofNat 12 q⟩ 0)
  | .loops n => some (.ld, 0xF0 * 2 ^ 88 + n.toNat * 2 ^ 24) | .loope => some (.ld, 0xF1 * 2 ^ 88)
  | .jump n => some (.ld, 0xF2 * 2 ^ 88 + n.toNat * 2 ^ 24) | .tsigLdSt q => some (.ld, 0xF3 * 2 ^ 88 + q * 2 ^ 2)
  | .twaitLdSt q => some (.ld, 0xF4 * 2 ^ 88 + q * 2 ^ 2) | .stop => some (.ld, 0xF5 * 2 ^ 88)
  | .loopsCmp n => some (.vec, 0x3F0 * 2 ^ 86 + n.toNat * 2 ^ 24) | .loopeCmp => some (.vec, 0x3F1 * 2 ^ 86)
  | .jumpCmp n => some (.vec, 0x3F2 * 2 ^ 86 + n.toNat * 2 ^ 24)
  | .tsigCmp q => some (.vec, 0x3F3 * 2 ^ 86 + q * 2 ^ 2) | .twaitCmp q => some (.vec, 0x3F4 * 2 ^ 86 + q * 2 ^ 2)
  | .stopCmp => some (.vec, 0x3F5 * 2 ^ 86)
  | .vadd w => some (.vec, packV2 0x001 w) | .vsub w => some (.vec, packV2 0x002 w)
  | .vmul w => some (.vec, packV2 0x003 w) | .vfma w => some (.vec, packV2 0x004 w)
  | .vfms w => some (.vec, packV2 0x005 w) | .vfnma w => some (.vec, packV2 0x006 w)
  | .vfnms w => some (.vec, packV2 0x007 w) | .vdiv w => some (.vec, packV2 0x008 w)
  | .vsqrt w => some (.vec, packV1 0x009 w 0) | .vrsqrt w => some (.vec, packV1 0x00A w 0)
  | .vrcp w => some (.vec, packV1 0x00B w 0) | .vexp2 w => some (.vec, packV1 0x00C w 0)
  | .vlog2 w => some (.vec, packV1 0x00D w 0) | .vexp w => some (.vec, packV1 0x00E w 0)
  | .vtanh w => some (.vec, packV1 0x00F w 0) | .vmin w => some (.vec, packV2 0x010 w)
  | .vmax w => some (.vec, packV2 0x011 w) | .vabs w => some (.vec, packV1 0x012 w 0)
  | .vneg w => some (.vec, packV1 0x013 w 0) | .vclamp w => some (.vec, packV2 0x014 w)
  | .viadd w => some (.vec, packV2 0x020 w) | .visub w => some (.vec, packV2 0x021 w)
  | .vimul w => some (.vec, packV2 0x022 w) | .vimulh w => some (.vec, packV2 0x023 w)
  | .vand w => some (.vec, packV2 0x024 w) | .vor w => some (.vec, packV2 0x025 w)
  | .vxor w => some (.vec, packV2 0x026 w) | .vandn w => some (.vec, packV2 0x027 w)
  | .vsll w => some (.vec, packV2 0x028 w) | .vsrl w => some (.vec, packV2 0x029 w)
  | .vsra w => some (.vec, packV2 0x02A w) | .vrol w => some (.vec, packV2 0x02B w)
  | .vpopc w => some (.vec, packV1 0x02C w 0) | .vclz w => some (.vec, packV1 0x02D w 0)
  | .vclmul w => some (.vec, packV2 0x030 w) | .vclmulh w => some (.vec, packV2 0x031 w)
  | .vbswap w => some (.vec, packV1 0x032 w 0) | .vbrev w => some (.vec, packV1 0x033 w 0)
  | .vcmp f p g pd c a b => some (.vec, packV 0x040 f p g (pd + c.code * 2 ^ 3) (packOp a) (packOp b))
  | .vpand g d a b => some (.vec, packV 0x041 .b1 none g d a b) | .vpor g d a b => some (.vec, packV 0x042 .b1 none g d a b)
  | .vpxor g d a b => some (.vec, packV 0x043 .b1 none g d a b) | .vpnot g d a => some (.vec, packV 0x044 .b1 none g d a 0)
  | .voteAny p g f a => some (.vec, packV 0x045 .b1 p g (f + 0 * 2 ^ 4) a 0)
  | .voteAll p g f a => some (.vec, packV 0x045 .b1 p g (f + 1 * 2 ^ 4) a 0)
  | .voteNone p g f a => some (.vec, packV 0x045 .b1 p g (f + 2 * 2 ^ 4) a 0)
  | .voteCnt p g a => some (.vec, packV 0x045 .b1 p g (3 * 2 ^ 4) a 0)
  | .vcvt w s m p => some (.vec, packV1 0x050 w (s.code + m.code * 2 ^ 6 + b2n p * 2 ^ 9))
  | .vpack w => some (.vec, packV2 0x051 w) | .vunpack w p => some (.vec, packV1 0x052 w p)
  | .vradd w => some (.vec, packV1 0x060 w 0) | .vrmax w => some (.vec, packV1 0x061 w 0)
  | .vrmin w => some (.vec, packV1 0x062 w 0) | .vargmax w => some (.vec, packV1 0x063 w 0)
  | .vtopk8 w => some (.vec, packV1 0x064 w 0) | .vperm w => some (.vec, packV2 0x070 w)
  | .vbcast w e => some (.vec, packV1 0x071 w e.toNat) | .vsel w => some (.vec, packV2 0x072 w)
  | .viota f p g d n => some (.vec, packV 0x073 f p g (packOp d) n.toNat 0)
  | .vscan w => some (.vec, packV1 0x074 w 0) | .vmov w => some (.vec, packV1 0x075 w 0)
  | .vsetn n => some (.vec, packV 0x076 .b1 none none 0 n.toNat 0)
  | .mma w => some (.mat, packMat 1 w) | .mmab w => some (.mat, packMat 2 w) | .mmag w => some (.mat, packMat 3 w)
  | .mzero w => some (.mat, packMat 4 w) | .mld w => some (.mat, packMat 5 w) | .mst w => some (.mat, packMat 6 w)
  | .mstat w => some (.mat, packMat 7 w)
  | _ => none

end Sys2Proof
end

