-- ==== Sys2Proof/Machine/Floats.lean ====
section
/-! DEFINITION. Number formats and exact arithmetic (R122 to R133): values of elements, exact sums and products,
rounding, conversion. -/

namespace Sys2Proof.Machine

/-- An exact value: NaN, an infinity, or (−1)^neg × m × 2^e (R123, R124). An inexact quotient or root is held with its
last bit set, below every bit that a rounding keeps. -/
inductive Num where
  | nan
  | inf (neg : Bool)
  | fin (neg : Bool) (m : Nat) (e : Int)
deriving DecidableEq, Repr

/-- Exponent and fraction widths and bias (R123). -/
def Fmt.shape : Fmt → Nat × Nat × Nat
  | .f64 => (11, 52, 1023) | .f32 => (8, 23, 127) | .f16 => (5, 10, 15) | .bf16 => (8, 7, 127)
  | .e5m2 => (5, 2, 15) | .e4m3 => (4, 3, 7) | .f4 => (2, 1, 1)
  | _ => (8, 23, 127)

/-- Kinds of a format (R122). -/
def Fmt.floating : Fmt → Bool
  | .f64 | .f32 | .f16 | .bf16 | .e5m2 | .e4m3 | .f4 => true
  | _ => false
def Fmt.signed : Fmt → Bool
  | .s64 | .s32 | .s16 | .s8 | .s4 => true
  | _ => false

/-- The canonical NaN (R124); F4 has none and takes 0 (R127). -/
def canonNan : Fmt → Nat
  | .f64 => 0x7FF8000000000000 | .f32 => 0x7FC00000 | .f16 => 0x7E00 | .bf16 => 0x7FC0 | .e5m2 => 0x7E | .e4m3 => 0x7F
  | _ => 0

/-- A Boolean as a sign. -/
def sgn (neg : Bool) (m : Int) : Int := if neg then -m else m

/-- The value of a code of a floating format, F4's code 0b1000 read as −0 (R123 to R126). -/
def decodeF (f : Fmt) (c : Nat) : Num :=
  let (eb, mb, bias) := Fmt.shape f
  let neg := bitAt c (eb + mb)
  let e := fld c mb eb
  let m := fld c 0 mb
  let top := e = 2 ^ eb - 1
  if f = .e4m3 && top && m = 7 then .nan
  else if top && f != .e4m3 && f != .f4 then (if m = 0 then .inf neg else .nan)
  else if e = 0 then .fin neg m (1 - (bias : Int) - mb)
  else .fin neg (m + 2 ^ mb) ((e : Int) - bias - mb)

/-- F4 read with the extra value `xv`, a BF16 code, for 0b1000 (R126). -/
def decodeX (f : Fmt) (xv : Option Nat) (c : Nat) : Num :=
  match f, xv with
  | .f4, some x => if c = 8 then decodeF .bf16 x else decodeF .f4 c
  | _, _ => decodeF f c

/-- An integer as an exact value. -/
def numOfInt (v : Int) : Num := .fin (v < 0) v.natAbs 0

/-- The value of a code of any arithmetic format (R128). -/
def decodeAny (f : Fmt) (xv : Option Nat) (c : Nat) : Num :=
  if Fmt.floating f then decodeX f xv c
  else if Fmt.signed f then numOfInt (sextN f.width c) else numOfInt c

/-- A truncated magnitude rounded up or not (R129, R130): `n` kept, `rem` of 2^s dropped. `r` is the random word of
mode 4. -/
def roundUp (mode : Rnd) (neg : Bool) (n rem s r : Nat) : Bool :=
  match mode with
  | .rne => decide (2 ^ s < 2 * rem) || (decide (2 * rem = 2 ^ s) && n % 2 == 1)
  | .rtz => false
  | .rpi => !neg && rem != 0
  | .rmi => neg && rem != 0
  | .sto => decide (r < rem * 2 ^ 32 / 2 ^ s)

/-- A magnitude m × 2^e rounded to a multiple of 2^q: the multiple (R129). -/
def roundTo (mode : Rnd) (neg : Bool) (m : Nat) (e q : Int) (r : Nat) : Nat :=
  if q ≤ e then m * 2 ^ (e - q).toNat
  else
    let s := (q - e).toNat
    let n := m / 2 ^ s
    let rem := m % 2 ^ s
    if roundUp mode neg n rem s r then n + 1 else n

/-- A code of a floating format and whether it overflowed (R129, R131). `prop` is the E4M3 mode bit; `noNeg0` writes
−0 of F4 as 0b0000 (R127). -/
def encodeF (f : Fmt) (mode : Rnd) (prop noNeg0 : Bool) (r : Nat) (x : Num) : Nat × Bool :=
  let (eb, mb, bias) := Fmt.shape f
  let sign (neg : Bool) : Nat := b2n neg * 2 ^ (eb + mb)
  let large (neg : Bool) : Nat :=
    match f with
    | .e4m3 => if prop then 0x7F else sign neg + 0x7E
    | .f4 => sign neg + 7
    | _ =>
      let inf := (2 ^ eb - 1) * 2 ^ mb
      match mode with
      | .rne | .sto => sign neg + inf
      | .rtz => sign neg + inf - 1
      | .rpi => if neg then sign neg + inf - 1 else inf
      | .rmi => if neg then sign neg + inf else inf - 1
  match x with
  | .nan => (canonNan f, false)
  | .inf neg =>
    if f = .e4m3 || f = .f4 then (large neg, true) else (sign neg + (2 ^ eb - 1) * 2 ^ mb, false)
  | .fin neg m e =>
    let none0 := if f = .f4 && noNeg0 then 0 else sign neg
    if m = 0 then (none0, false)
    else
      let low : Int := 1 - (bias : Int) - mb
      let q := max ((m.log2 : Int) + e - mb) low
      let n := roundTo mode neg m e q r
      let (n, q) := if n = 2 ^ (mb + 1) then (2 ^ mb, q + 1) else (n, q)
      if n = 0 then (none0, false)
      else if n < 2 ^ mb then (sign neg + n, false)
      else
        let ef := (q - low).toNat + 1
        let fr := n - 2 ^ mb
        let limit := match f with
          | .e4m3 => decide (15 < ef) || (ef = 15 && fr = 7)
          | .f4 => decide (3 < ef)
          | _ => decide (2 ^ eb - 2 < ef)
        if limit then (large neg, true) else (sign neg + ef * 2 ^ mb + fr, false)

/-- Rounding to nearest even into a format (R129). -/
def rne (f : Fmt) (x : Num) : Nat := (encodeF f .rne false false 0 x).1

/-- The exact product (R135). -/
def mulNum : Num → Num → Num
  | .nan, _ | _, .nan => .nan
  | .inf a, .inf b => .inf (a != b)
  | .inf a, .fin b m _ | .fin b m _, .inf a => if m = 0 then .nan else .inf (a != b)
  | .fin a m e, .fin b n g => .fin (a != b) (m * n) (e + g)

/-- The exact sum; a zero sum of opposite signs is +0, or −0 toward −∞ (R129). -/
def addNum (mode : Rnd) : Num → Num → Num
  | .nan, _ | _, .nan => .nan
  | .inf a, .inf b => if a = b then .inf a else .nan
  | .inf a, _ | _, .inf a => .inf a
  | .fin a m e, .fin b n g =>
    let q := min e g
    let v := sgn a (m * 2 ^ (e - q).toNat : Nat) + sgn b (n * 2 ^ (g - q).toNat : Nat)
    if v = 0 then .fin (if m = 0 && n = 0 && a = b then a else mode == .rmi) 0 0
    else .fin (v < 0) v.natAbs q

def negNum : Num → Num
  | .nan => .nan
  | .inf a => .inf !a
  | .fin a m e => .fin (!a) m e

def absNum : Num → Num
  | .nan => .nan
  | .inf _ => .inf false
  | .fin _ m e => .fin false m e

/-- The exact fused sum a × b + c (R129). -/
def fmaNum (a b c : Num) : Num := addNum .rne (mulNum a b) c

/-- A quotient to 160 bits with the last bit set when it is not exact. -/
def divNum : Num → Num → Num
  | .nan, _ | _, .nan => .nan
  | .inf _, .inf _ => .nan
  | .inf a, .fin b _ _ => .inf (a != b)
  | .fin a _ _, .inf b => .fin (a != b) 0 0
  | .fin a m e, .fin b n g =>
    if n = 0 then (if m = 0 then .nan else .inf (a != b))
    else if m = 0 then .fin (a != b) 0 0
    else
      let k := 160 + n.log2
      let q := m * 2 ^ k / n
      .fin (a != b) (2 * q + b2n (q * n != m * 2 ^ k)) (e - g - k - 1)

/-- The integer square root by bits: `fuel` bits below 4^fuel. -/
def isqrt : Nat → Nat → Nat → Nat
  | 0, r, _ => r
  | k + 1, r, n =>
    let c := r + 2 ^ k
    if c * c ≤ n then isqrt k c n else isqrt k r n

/-- A square root to 160 bits with the last bit set when it is not exact. -/
def sqrtNum : Num → Num
  | .nan => .nan
  | .inf a => if a then .nan else .inf false
  | .fin a m e =>
    if m = 0 then .fin a 0 0
    else if a then .nan
    else
      let (m, e) := if e % 2 = 0 then (m, e) else (2 * m, e - 1)
      let n := m * 2 ^ 320
      let r := isqrt (n.log2 / 2 + 1) 0 n
      .fin false (2 * r + b2n (r * r != n)) (e / 2 - 160 - 1)

/-- The order of two values that are not NaN (R247). -/
def ltNum : Num → Num → Bool
  | .nan, _ | _, .nan => false
  | .inf a, .inf b => a && !b
  | .inf a, .fin _ _ _ => a
  | .fin _ _ _, .inf b => !b
  | .fin a m e, .fin b n g =>
    let q := min e g
    sgn a (m * 2 ^ (e - q).toNat : Nat) < sgn b (n * 2 ^ (g - q).toNat : Nat)

def eqNum : Num → Num → Bool
  | .nan, _ | _, .nan => false
  | .inf a, .inf b => a == b
  | .fin a m e, .fin b n g =>
    let q := min e g
    sgn a (m * 2 ^ (e - q).toNat : Nat) == sgn b (n * 2 ^ (g - q).toNat : Nat)
  | _, _ => false

def Num.isNan : Num → Bool
  | .nan => true
  | _ => false
def Num.isInf : Num → Bool
  | .inf _ => true
  | _ => false
def Num.isZero : Num → Bool
  | .fin _ m _ => m == 0
  | _ => false

/-- The integer that a finite value rounds to (R133). -/
def intOf (mode : Rnd) (r : Nat) (neg : Bool) (m : Nat) (e : Int) : Int := sgn neg (roundTo mode neg m e 0 r)

/-- The range of an integer format (R128), and an integer saturated to it, as a code (R133). -/
def intMin (f : Fmt) : Int := if Fmt.signed f then -(2 ^ (f.width - 1) : Nat) else 0
def intMax (f : Fmt) : Int := if Fmt.signed f then (2 ^ (f.width - 1) : Nat) - 1 else (2 ^ f.width : Nat) - 1
def saturate (f : Fmt) (v : Int) : Nat := codeN f.width (max (intMin f) (min (intMax f) v))

/-- The conversion of a code into a target format and whether it overflowed (R132, R133). -/
def convert (src dst : Fmt) (mode : Rnd) (prop : Bool) (xv : Option Nat) (noNeg0 : Bool) (r : Nat) (c : Nat) :
    Nat × Bool :=
  let x := decodeAny src xv c
  if Fmt.floating dst then encodeF dst mode prop noNeg0 r x
  else
    match x with
    | .nan => (0, false)
    | .inf neg => (saturate dst (if neg then intMin dst else intMax dst), true)
    | .fin neg m e =>
      let v := intOf mode r neg m e
      (saturate dst v, decide (v < intMin dst) || decide (intMax dst < v))

/-- The sum of AFADD and REDADD: to nearest even, NaN canonical, or wrapping for integers (R191, R228). -/
def addElem (f : Fmt) (a b : Nat) : Nat :=
  if Fmt.floating f then rne f (addNum .rne (decodeF f a) (decodeF f b)) else (a + b) % 2 ^ f.width

end Sys2Proof.Machine
end

