-- ==== Sys2Proof/Config.lean ====
section
/-! DEFINITION. What the TW-880 fixes (R12, R13, R29) and the values that the spec leaves open. A free value is an
opaque constant without a body: no proof can see what it is. `n` is State's counter `free`, read and advanced by
the step that asks. -/

namespace Sys2Proof.Config

/-- Cores of the package (R12). -/
def cores : Nat := 288
/-- Commands that an engine queue holds (R29). -/
def queueDepth : Nat := 16
/-- Entries of a journal (R300). -/
def journalSize : Nat := 2048
/-- Cycles of a microsecond and of a millisecond (R2, R13). -/
def cyclesPerUs : Nat := 940

/-- FREE VALUE (log 2): how many cycles past the earliest one an interlocked result, a transfer, a save or a load
takes (R172, R240, R353). -/
opaque latency (n : Nat) : Nat
/-- FREE VALUE (log 8): whether a cached copy has been evicted before an access, or a published dirty line is
evicted outward now (R95, R101); the second argument is the line. -/
opaque evicts (n line : Nat) : Bool
/-- FREE VALUE (log 99): whether the instruction bytes at a stream position beyond the first are not yet in the overlay plane (R39,
R183, R217). -/
opaque fetchLate (n pos : Nat) : Bool
/-- FREE VALUE (log 10): whether the cache region prefetches the line after one that a task reads (R393). -/
opaque prefetches (n : Nat) : Bool
/-- FREE VALUE (log 94): whether a cluster cache cannot take a provisional line now (R394). -/
opaque spillBlocked (n : Nat) : Bool
/-- FREE VALUE (log 11): the frame a page move takes, among `count` free ones (R80, R81). -/
opaque frameChoice (n count : Nat) : Nat
/-- FREE VALUE (log 86): where interleave code 1 or 2 puts the first of the steps of a page (R63, R64). -/
opaque interleave (code : Nat) : Nat
/-- FREE VALUE (log 12): the home die of the Chart entry at a physical address (R70). -/
opaque homeDie (pa : Nat) : Fin 4
/-- FREE VALUE (log 13): AES-256-XTS under a 512-bit key pair (R322): the 16-byte unit that `data` becomes under
`tweak`. -/
opaque xts (key tweak data : Nat) : Nat
/-- FREE VALUE (log 13): the fuse-derived device key of key ID 0 (R355, R357). -/
opaque deviceKey : Nat
/-- FREE VALUE (log 13): the fused rollback counter (R355, R356). -/
opaque fusedRollback : BitVec 8
/-- FREE VALUE (log 13): what the ROM finds in the bytes of an image: the ECDSA verdict, the LMS verdict and the rollback
number (R355), whose places in the image the spec does not give. -/
opaque imageVerdict (image : List (Nat × BitVec 8)) : Bool × Bool × BitVec 8
/-- FREE VALUE (log 16): where the Helm firmware places a die's memory error ring (0) or scheduler error ring (1) at boot (R398,
R401). -/
opaque ringBase (die which : Nat) : Nat
/-- FREE VALUE (log 58): the 128 bits that the sensors give a sample of R360. -/
opaque reading (n : Nat) : Nat
/-- FREE VALUE (log 58): the package power, in 0.125 W units, as an average over WIN (R359). -/
opaque average (n : Nat) : Nat
/-- FREE VALUE (log 58): whether the load has eased, so that a gated device steps D up (R359). -/
opaque eases (n : Nat) : Bool
/-- FREE VALUE (log 18): the number that the Almanac and Helm clocks leave open: a value of a register or result
for which the spec states none. -/
opaque value (n : Nat) : Nat

end Sys2Proof.Config
end

