-- ==== Sys2Proof/Machine/State.lean ====
section
/-! DEFINITION. The state of the TW-880: everything the spec gives the machine, as plain data, the reasons a step
can stop, and the state after package reset. -/

namespace Sys2Proof.Machine

/-- A map from numbers, its keys strictly rising. -/
abbrev SMap (α : Type) := List (Nat × α)

/-- Bytes of memory: strictly rising keys, no entry holding the byte 0 that an unlisted key reads as (log 3). The
key of a byte is tier × 2^52 + physical address (R16, R69; log 4). -/
abbrev Memory := List Host.Cell

/-- The sixteen causes of R308, in the order of their codes. -/
inductive Cause where
  | issue | token | queueFull | guard | format | barrier | phase | memory | fetch | branch | switch | repart | done
  | idle | trap | preempt
deriving DecidableEq, Repr

/-- A tensor handle (R60); its reserved bits are zero and are not held. -/
structure Handle where
  buf : BitVec 20
  off : BitVec 44
  spc : Bool
  hint : BitVec 3
  fmt : BitVec 6
  n0 : BitVec 16
  n1 : BitVec 16
  n2 : BitVec 16
  s1 : BitVec 24
  s2 : BitVec 24
  cur : BitVec 32
  xv : BitVec 16
  gsz : BitVec 2
  glay : Bool
deriving DecidableEq, Repr

/-- Bytes that a buffer or cache holds: keys strictly rising; a key that is not listed is not held. -/
abbrev Cells := List Host.Cell

/-- The copies of lines that a level of the memory hierarchy holds (R91, R95, R389): their bytes, each under its key with
the tag of its page (`tagged`), and the lines among them that carry poison. -/
structure Copies where
  cells : Cells
  bad : List Nat
deriving DecidableEq, Repr

/-- The 64 lanes of 32 bits of a vector register (R242). -/
abbrev Lanes := Vector Word 64

/-- A token queue: its synchronisation entry (R146), its count and, for a bound queue, its ring (R31, R234). `was`,
`wasHeld` and `wasRadvs` are the count, whether a slot is held and the unexecuted RADVs as they stood before this cycle
(R30, R237). -/
structure Token where
  used : Bool
  prod : Seq
  cons : Seq
  bound : Bool
  ring : HReg
  depth : Nat
  count : Nat
  was : Nat
  oldest : Nat
  held : Bool
  p : Nat
  hs : Nat
  radvs : Nat
  wasHeld : Bool
  wasRadvs : Nat
deriving DecidableEq, Repr

/-- A barrier slot: the object it names, if any, by space (true for the scratchpad), address and lease buffer, and
the local phase bit (R116). -/
structure Slot where
  bound : Bool
  spad : Bool
  addr : Nat
  phase : Bool
deriving DecidableEq, Repr

/-- An open loop of LD, CMP or ST (R87, R239). -/
structure Loop where
  start : Nat
  stop : Nat
  count : Nat
deriving DecidableEq, Repr

/-- A leaf found by a walk: its 128 bits, the addresses of the entry and of the head entry, the virtual address of
its page (R65, R66), and the interleave of the buffer-table entry that names the page, 0 where none does (R63, R64). -/
structure Leaf where
  bits : Nat
  entry : Nat
  head : Nat
  page : Nat
  ilv : Nat
deriving DecidableEq, Repr

/-- What an ordered act does once the store queue has retired what it waits for, with every operand as it stood in the
act's issue cycle (R105, R109, R171): an atomic on the bytes at `keys`, under their tags, in the pages of `leaves`; the release of a
fence; FLUSH of the virtual bytes from `lo` up to `hi` of a buffer with interleave `ilv`; COMMIT; PHASE; PARK with WPEND set (R52); SNAPC of a
writer's entry (R210). -/
inductive Late where
  | atomic (fn n : Nat) (keys : List Nat) (hint : Nat) (leaves : List Leaf) (d : XReg) (v v2 : Nat) (ord : Order)
    (sc : Scope)
  | fence (acquires : Bool) (sc : Scope)
  | flush (sc : Scope) (lo hi ilv : Nat)
  | commit
  | phase (l : Level)
  | park
  | snapc (i : Nat)
deriving DecidableEq, Repr

/-- What an instruction that has issued holds its sequencer for: the retirement of the store commands issued before
cycle `since`, after which it has the effect `act` (R105, R107); the flip of a phase (R111); the flip of a
barrier object (R116). -/
inductive Wait where
  | stores (act : Late) (since : Nat)
  | phase (l : Level)
  | barrier (k : KReg)
deriving DecidableEq, Repr

/-- A sequencer: head position, open loops (innermost first), whether STOP or END has issued, the cycle before which
nothing issues and its cause, and a transfer whose delay slots remain: slots left, target (none: not taken) and
the cycle of the target's issue (R182, R183), which `target` holds once the last slot has issued. `acting` is what an instruction that has issued still waits for, and
`isNew` says that its head became the head in this cycle (R323). -/
structure Sequencer where
  pos : Nat
  loops : List Loop
  stopped : Bool
  hold : Nat
  holdCause : Cause
  target : Nat
  delay : Option (Nat × Option Nat × Nat)
  acting : Option Wait
  isNew : Bool
deriving DecidableEq, Repr

/-- Where a result lands (R171 to R173). -/
inductive Dest where
  | x (r : XReg) (v : Dword)
  | f (r : FReg) (v : Bool)
  | b (r : BReg) (v : Dword)
  | h (r : HReg) (v : Handle)
  | slot (k : KReg) (v : Bool)
deriving DecidableEq, Repr

/-- A result in flight: the first cycle that reads it, whether it is interlocked (R172), whether a VOTE wrote it
(R173). -/
structure Pending where
  dest : Dest
  due : Nat
  interlocked : Bool
  vote : Bool
deriving DecidableEq, Repr

/-- An operand range in bytes of the pool (R33). -/
structure Range where
  lo : Nat
  hi : Nat
  write : Bool
deriving DecidableEq, Repr

/-- A barrier object (R112): its space, the core whose scratchpad holds it or the context in whose space it lies, and
its scratchpad offset or virtual address. -/
structure BarRef where
  spad : Bool
  core : CoreId
  ctx : Nat
  addr : Nat
deriving DecidableEq, Repr

/-- Where an element lies: the keys of its bytes (pool bytes for the scratchpad) and the bit in the first byte. -/
structure Place where
  keys : List Nat
  sh : Nat
deriving DecidableEq, Repr

/-- Elements of a width that a command writes to the pool at the end of a cycle: place, code, poison (R286). -/
structure Put where
  due : Nat
  width : Nat
  elems : List (Place × Nat × Bool)
deriving DecidableEq, Repr

/-- A command of an engine queue (R29): the instruction and its word, its queue number (R325), the task and the
sequencer that issued it, its position and cycle, the handles it captured with their cursors (R60, R235), VL
at issue (R248), its ranges, the ring slots it waits for and the cycle in which it entered the range checker (R33,
R236), its barrier object (R233), the format word it popped (R270), whether its guard has let it pass, whether it has
started and the earliest cycle of its retirement, its last busy cycle and the cycles in which its main-file entries
land (R265, R286), the scratchpad writes still to land (R286), the memory bytes it writes at retirement with the lines among them
that it poisons (R93, R389), the memory lines that it has written at their homes (R228) and the bytes it counts (R233); of a vector command
that reads on, the first busy cycles of the vectors still to read, the vectors read so far by source, whether a source was poisoned, and
what stops it (R265). -/
structure Cmd where
  instr : Instr
  word : Nat
  num : Nat
  task : Nat
  seq : Seq
  pos : Nat
  issued : Nat
  handles : List (HReg × Handle × Int)
  vl : Nat
  ranges : List Range
  slots : List (QReg × Nat)
  entered : Nat
  bar : Option BarRef
  barSlot : Option KReg
  fmtWord : Option Dword
  guarded : Bool
  started : Bool
  till : Nat
  busy : Nat
  lands : List (Nat × Nat)
  puts : List Put
  writes : Cells
  poison : List Nat
  lines : List Nat
  counted : Nat
  reads : List Nat
  got : List (List Lanes)
  tainted : Bool
  stop : Option (Nat × Nat × Nat × Nat × Nat)
deriving DecidableEq, Repr

/-- A fault as its raiser sees it (R366, R370); `dec` marks a decode fault of an instruction's own bits (R361). -/
structure Raised where
  cause : Nat
  seq : Seq
  eng : Nat
  pos : Nat
  qnum : Nat
  info0 : Nat
  info1 : Nat
  dec : Bool
deriving DecidableEq, Repr

/-- Why a task is leaving its core through the context engine (R47, R50 to R52, R372); a
pre-emption remembers that its task was not pinned (R397). -/
inductive Leave where
  | yield
  | park (hint reason : Nat)
  | preempt (unpinned : Bool)
  | faulted
  | phase
  | csw (reg : Bool) (next : Nat)
deriving DecidableEq, Repr

/-- What holds a core: nothing to run (R309), a placement or restore being loaded until a cycle, a task that runs, a
task whose queues drain before a save (R47), a save until a cycle, a fault being delivered (R372), a debug stop
(R324). -/
inductive Mode where
  | idle
  | load (till : Nat) (restore : Bool)
  | run
  | drain (why : Leave)
  | save (why : Leave) (till : Nat)
  | fault
  | debug (source : Nat) (code : Nat) (bp : Nat)
deriving DecidableEq, Repr

/-- A section of an image (R144). -/
structure Section where
  type : Nat
  off : Nat
  size : Nat
  dest : Nat
  spare : Nat
deriving DecidableEq, Repr

/-- An image: its bytes and its directory (R143, R144). -/
structure Image where
  bytes : List Byte
  sections : List Section
deriving DecidableEq, Repr

/-- A plane (R39, R145): the instruction words of its streams in stream order, its trailer mask, the virtual address of
its image, and the image and the register image that it was loaded from. -/
structure Plane where
  ctl : List Word
  ld : List (BitVec 96)
  cmp : List (BitVec 96)
  st : List (BitVec 96)
  trailer : BitVec 4
  image : Nat
  file : Image
  reg : List Byte
deriving DecidableEq, Repr

/-- What the shadow plane holds of a task (R39): its plane, the fault that its loading found as cause, INFO0 and INFO1
(R367, R368), and of a task with RESUME = 1 the bytes and the poisoned lines of its run, both counted from the run's
start. -/
structure Staged where
  plane : Plane
  fault : Option (Nat × Nat × Nat)
  run : Memory
  bad : List Nat
deriving DecidableEq, Repr

/-- A programmable counter (R315), with the configuration that its next cycle takes (R316). -/
structure Pmc where
  config : BitVec 32
  next : Option (BitVec 32)
  cnt : Nat
  ovf : Bool
deriving DecidableEq, Repr

/-- A run of charges (R319): context, cause, sub-index, first position, latest position, the position that goes
on with it, first cycle, CONT. -/
structure Run where
  ctx : Nat
  cause : Cause
  sub : Nat
  pc : Nat
  last : Nat
  next : Nat
  ts : Nat
  cont : Bool
deriving DecidableEq, Repr

/-- An engine: its queue, oldest first, the next queue number (R325) and whether it starts nothing (R372, R324). -/
structure EngineQ where
  cmds : List Cmd
  next : Nat
deriving DecidableEq, Repr

/-- What a task whose commands run on beneath the next task still holds of the core (R41, log 20): its partition, its
pool, its x registers, its vector registers and predicates, with their poison, its stream positions and next queue numbers (R325). -/
structure Under where
  task : Nat
  bnda : Nat
  bndb : Nat
  bndc : Nat
  pool : Memory
  poison : List Nat
  x : Vector Dword 64
  o : Vector Lanes 16
  latch : Lanes
  p : Vector Dword 8
  pos : Vector Nat 4
  next : Vector Nat 4
  tdep : Nat
deriving DecidableEq, Repr

/-- A core (R12): every register of R9 and R157, the pool, the queues, the planes and what runs. `bWild` says that a PTR wrote the
branch-target register from a value above the size of the control section (R362). `view` holds the clean
copies of its cache region, `dirty` the published lines that lie there, and `own` what its task has published since it last acquired it
(R95, R97, R102). `acct` accumulates its task's charges by cause, token queue and engine since cycle `flushed` (R310), `ovfl` its counters' overflow bits, and
`resumed` says that the debugger let a held fault go on (R372), `left` is what the task that last retired beneath another, or after its END, left on the core, and
`owed` is what its slots charge in a cycle for a task that was halved, discarded or lost to a fault in it: context,
cause and head positions (R309, R372), and whether DISC counts it (R313). `stopAt` is the cycle of a debug stop whose record is
not yet placed, `stopGo` says that a resume waits for that record (R324, R326), `stopFrom` is why its task was leaving as the stop came, `halving` is the split axis of a halving that a fault of
this cycle may still win over (R376), and `endHolds` lists the tasks beneath that the
debugger holds in step 4 of R372: task, cycle, and 0 without a record, 1 to 8 with its record in slot 0 to 7, 9 resumed, 10 to be
resumed once the record is placed. -/
structure Core where
  x : Vector Dword 64
  f : Vector Bool 16
  b : Vector Dword 8
  bAt : Vector (Option Nat) 8
  bWild : Vector Bool 8
  h : Vector Handle 32
  o : Vector Lanes 16
  latch : Lanes
  p : Vector Dword 8
  poison : List Nat
  vl : Nat
  spb : Word
  spl : Word
  sp : Word
  tdep : Nat
  bnda : Nat
  bndb : Nat
  bndc : Nat
  pool : Memory
  tok : Vector Token 16
  guards : Vector (List Bool) 8
  fq : List Dword
  slots : Vector Slot 32
  allocV : Nat
  allocS : Nat
  pending : List Pending
  seqs : Vector Sequencer 4
  engines : Vector EngineQ 4
  task : Option Nat
  mode : Mode
  ended : Bool
  plane : Plane
  shadow : Option (Nat × Staged)
  lastImages : List Nat
  faults : List Raised
  faultAt : Option Nat
  resumed : Bool
  view : Copies
  dirty : Copies
  own : Copies
  counters : Vector Nat 16
  zero : Nat
  pmcs : Vector Pmc 4
  acct : Vector Nat 36
  flushed : Nat
  ovfl : List Nat
  owed : Option (Nat × Nat × Cause × Vector Nat 4 × Bool)
  runs : Vector (Option Run) 4
  gateStarts : Nat
  under : List Under
  left : Option Under
  endFaults : List (Nat × Raised)
  stopAt : Option Nat
  stopGo : Bool
  stopFrom : Option Leave
  halving : Option (Fin 3)
  endHolds : List (Nat × Nat × Nat)
deriving DecidableEq, Repr

/-- A lease (R27). -/
structure Lease where
  v : Bool
  h : HReg
  lo : Nat
  hi : Nat
deriving DecidableEq, Repr

/-- A task record (R26). -/
structure TaskRec where
  ctx : Nat
  team : Nat
  depth : Nat
  cls : Nat
  gang : Bool
  resume : Bool
  ndim : Nat
  hord : Nat
  img : Nat
  rimg : Nat
  lo : Vector Nat 3
  hi : Vector Nat 3
  gr : Vector Nat 3
  areg : Nat
  aspd : Nat
  part : Nat
  awr : Nat
  atime : Nat
  leases : List Lease
deriving DecidableEq, Repr

/-- An update held with a task's provisional effects (R115, R207, R228), with its place in issue order, 4 × issue
cycle + sequencer, and the SEQ, POS and queue number that made it (R376); a barrier update keeps the lines that its
transfer wrote, and a REDADD the keys under their tags, the INFO0 of its request (R382) and whether its source was
poisoned (R389). -/
inductive Held where
  | bar (r : BarRef) (op : Nat) (n : Nat) (lines : List Nat) (stamp : Nat) (seq : Seq) (pos : Nat) (qnum : Nat)
  | wake (ctx : Nat) (stamp : Nat)
  | sev (stamp : Nat)
  | redadd (keys : List Nat) (fmt : Nat) (v : Nat) (stamp : Nat) (seq : Seq) (pos : Nat) (qnum : Nat) (req : Nat)
    (bad : Bool)
deriving DecidableEq, Repr

/-- An epoch of a phase buffer (R110): the scope that closed it, if any, its bytes, the lines among them that carry
poison (R389), and the bytes that ST-engine commands wrote, as they wrote them (R373). -/
structure Epoch where
  scope : Option Scope
  cells : Cells
  poison : List Nat
  engine : Cells
deriving DecidableEq, Repr

/-- Where a task stands: queued without a core, staged in a shadow plane, holding a core, held by PARK until its
reason is met (reason, release time in µs), held by a fault of its context (R374), waiting in PHASE without a core
(R38), or retiring beneath the next task (R41). -/
inductive Standing where
  | queued
  | staged (c : CoreId)
  | running (c : CoreId)
  | parked (reason : Nat) (time : Nat)
  | faultHeld
  | phaseHeld
  | ending (c : CoreId)
deriving DecidableEq, Repr

/-- A task (R25): its record and everything that follows it from core to core: `dmrNext` is the DMR that it takes as this cycle ends (R208), `aged` counts the ageing steps of its
wait (R301), `inherited` is the class it is raised to (R303, R406), 7 for none. `grants` holds its leases as buffer,
first and last 64 KiB unit (R71, R72), `leased` the head entries whose LCNT it raised, and `regRun` says that its saved
run is one of register mode (R50, R86), `stops` names the streams that had issued STOP when it was saved (R308), and `half`
says that a halving made it (R38). -/
structure Task where
  record : TaskRec
  dmr : Dword
  dmrNext : Option Dword
  standing : Standing
  ready : Nat
  inherited : Nat
  aged : Nat
  event : Bool
  pinned : Bool
  phased : Bool
  arrived : Option Level
  epochs : List Epoch
  held : List Held
  tleft : Nat
  leased : List Nat
  grants : List (Nat × Nat × Nat)
  phaseBar : Option KReg
  bcopies : Nat
  charged : Nat
  csig : Nat
  regRun : Bool
  stops : List Seq
  half : Bool
deriving DecidableEq, Repr

/-- A team (R25, R46, R298): context, live tasks, completion signal, launching queue, gang scope, whether a task of
it faulted (R375), the deadline of its packet (R305), the cycle of its latest placement, and the first core of a gang's placement, which
fixes its cluster or die (R304). -/
structure Team where
  ctx : Nat
  live : Nat
  initial : Nat
  csig : Nat
  queue : Option Nat
  gang : Bool
  scope : Scope
  faulted : Bool
  deadline : Nat
  made : Nat
  placedAt : Nat
  drain : Bool
  seat : Option CoreId
deriving DecidableEq, Repr

/-- A context entry (R22), with the sticky overflow bits of its counters (R310) and what the residency engine knows of
it: park time, fault hold (R374), the cycles of its latest WAKE while it ran and of its latest SEV (R24), recall in
progress and the cycle of its completion (R23), T0 left, demotion in progress (R77), the pages whose migration
found no frame (R386), whether it has parked since it last became ready (R76), whether its park has a COWFAIL entry (R386), where its pages were when it parked, as tier + 4 × die (R75), and the page moves still to make
as (kind, target, virtual address): 0 demotion, 1 recall, 2 RESIDE, 4 the recall of a signal's page (R77 to R79, R294,
R296). -/
structure Context where
  state : Nat
  prsn : Nat
  cls : Nat
  world : Bool
  conf : Bool
  evpend : Bool
  wpend : Bool
  keyid : Nat
  home : DieId
  lteam : Nat
  chroot : Nat
  btbase : Nat
  btlen : Nat
  savea : Nat
  savel : Nat
  hint : Nat
  waket : Nat
  fqb : Nat
  acct : Vector Nat 16
  tokq : Vector Nat 16
  qfull : Vector Nat 4
  disc : Nat
  pavg : Vector Nat 8
  ovfl : List Nat
  parkedAt : Nat
  fault : Bool
  woken : Option Nat
  sevAt : Option Nat
  recalling : Bool
  recalledAt : Option Nat
  demoted : Bool
  demoting : Bool
  refused : List Nat
  slept : Bool
  cowSaid : Bool
  homes : SMap Nat
  plan : List (Nat × Nat × Nat)
deriving DecidableEq, Repr

/-- A page move (R81): the context it serves, the address of its head entry, the page's size in bytes, its old and
new frame keys, the new TIER and FRAME, the cycle its copy ends, and its kind: 0 demotion, 1 recall, 2 RESIDE,
3 migration, 4 the recall of a signal's page; the number of the BTE of its die that copies it (R12, R75), and the page's virtual
address. -/
structure Move where
  ctx : Nat
  entry : Nat
  size : Nat
  src : Nat
  dst : Nat
  tier : Nat
  frame : Nat
  till : Nat
  kind : Nat
  die : DieId
  bte : Nat
  va : Nat
deriving DecidableEq, Repr

/-- A bulk copy handed to BTE `bte` of its core's die (R12, R231); `stop` is INTEG = 1 of its source, `req` and `queue` name it in a record. -/
structure Bulk where
  task : Nat
  core : CoreId
  num : Nat
  src : List Nat
  dst : List Nat
  bar : Option BarRef
  len : Nat
  till : Nat
  stop : Bool
  buf : Nat
  off : Nat
  pos : Nat
  bte : Nat
deriving DecidableEq, Repr

/-- A pool object (R83): current version, open writer's version, versions with their pages (page number, frame) and
open bindings. -/
structure PoolObj where
  current : Nat
  writer : Option Nat
  versions : SMap (Nat × List (Nat × Nat))
  base : Nat
deriving DecidableEq, Repr

/-- A hardware queue slot (R292 to R294): its state 0 FREE, 1 ACTIVE, 2 ORDWAIT, 3 WAITING, 4 UNMAPPING, its
registers, the RIDX that its QCB holds, the cycle of its next packet, whether it polls a far signal (R405), whether
its unmap sets WBLK, the cycle in which the Helm has put its unmap in the journal (R410), and whether a packet in error unmaps
it (R403). -/
structure QSlot where
  state : Nat
  queue : Nat
  widx : Nat
  ridx : Nat
  outt : Nat
  lsigt : Nat
  notev : Nat
  written : Nat
  readyAt : Nat
  far : Bool
  wblk : Bool
  leaves : Option Nat
  err : Bool
deriving DecidableEq, Repr

/-- A signal that a WAITING slot watches (R297): the slot, the key of its 8 bytes, the condition and the comparand, and
whether a write has made the condition hold. -/
structure Watch where
  die : DieId
  slot : Fin 256
  key : Nat
  opc : Nat
  value : Nat
  met : Bool
deriving DecidableEq, Repr

/-- A journal entry (R300): JSEQ, KIND, OBJ, ARG. -/
structure Journal where
  jseq : Nat
  kind : Nat
  obj : Nat
  arg : Nat
deriving DecidableEq, Repr

/-- A Helm core (R299, R410 to R414): 0 active, 1 relief, 2 failed and not yet taken over, 3 in self-test, 4 of no use, 5 an
active core that runs no more and has not failed yet; the cycle of its failure or reset, the cycle of its last heartbeat, and the
JSEQ of the first journal entry that its own copy of the Helm's state does not hold. -/
structure HelmCore where
  status : Nat
  since : Nat
  beat : Nat
  copied : Nat
deriving DecidableEq, Repr

/-- A die's trace block (R317) with its window: the records written when it opened, the cycle of its opening, the
records written in this cycle, those made in it, as context and 128 bits (R321), and the triggers of this cycle (R320). -/
structure Trace where
  en : Bool
  mode : Bool
  openW : Bool
  seqm : BitVec 4
  fctx : Nat
  sper : Nat
  base : Nat
  log : Nat
  key : Nat
  wp : Nat
  loss : Nat
  lossNew : Nat
  tags : Dword
  tagp : Dword
  wpOpen : Nat
  openedAt : Nat
  inCycle : Nat
  made : List (Nat × Nat)
  start : Bool
  stop : Bool
deriving DecidableEq, Repr

/-- A stop slot (R326). -/
structure StopSlot where
  bits : BitVec 256
  high : BitVec 256
deriving DecidableEq, Repr

/-- A die (R12): registers of its block of the host register window, slots, journal, Helm (`duties` names the core that
does the work of the first and of the second active core, `takeover` the failed cores with the cycles at which their
takeovers end), the base addresses of its
error rings (R398, R401; log 16), Binnacle. -/
structure Die where
  nslot : Nat
  idle : Nat
  qcbbase : Nat
  pbbase : Nat
  migt : Nat
  t0sl : Nat
  t0inUse : Nat
  slots : Vector QSlot 256
  pendOrder : List Nat
  mapAt : Nat
  journal : List Journal
  jseq : Nat
  helm : Vector HelmCore 3
  duties : Vector (Option (Fin 3)) 2
  takeover : List (Fin 3 × Nat)
  mring : Nat
  sring : Nat
  accq : Dword
  accDone : Bool
  accT : Option Nat
  accr : Vector Dword 40
  trace : Trace
  bps : Vector Dword 8
  dbgbm : Nat
  dbgcmd : Dword
  stopv : BitVec 8
  stops : Vector StopSlot 8
  stopsOf : Vector (Option CoreId) 8
  clean : Copies
  dirty : Copies
deriving DecidableEq, Repr

/-- A cluster cache (R95, R102): clean copies and published dirty lines. -/
structure Cluster where
  clean : Copies
  dirty : Copies
deriving DecidableEq, Repr

/-- A pre-empting request (R47): team, deadline cycle (none: no deadline), Sextant's action (0 drain, 1 discard,
2 save), the team that waits, whether its deadline has passed, and the cores that it frees, which go to the waiting team
first (R305). -/
structure Preempt where
  team : Nat
  arrived : Nat
  deadline : Option Nat
  action : Nat
  waiter : Nat
  ovfl : Bool
  cores : List CoreId
deriving DecidableEq, Repr

/-- What a turn does: issues the instruction at a sequencer's head, acts as an event, performs a command that has
started, or finds the faults that a core's heads raise in a cycle whose events may stop it (R371, R376). -/
inductive TurnKind where
  | issue | act | perform | heads
deriving DecidableEq, Repr

/-- Whose act is next (log 1), with an event's agent and the values that the outside world supplies: the fields that
an event reads are named in its meaning. -/
structure Turn where
  kind : TurnKind
  instr : Instr
  core : CoreId
  seq : Seq
  eng : Engine
  die : DieId
  slot : Fin 256
  num : Nat
  a : Nat
  b : Nat
  flag : Bool
  bytes : List Byte
  bell : BellSource
  link : LinkReq
  remote : RemoteReq
  word : Nat
  why : Cause
  sub : Nat
deriving DecidableEq, Repr

/-- A byte that a member of a domain has published by its arrival in a phase, as another member that has not arrived
still reads it on a miss (R100): that member's task, the byte's key, the snapshot value and the published one. -/
structure Snap where
  task : Nat
  key : Nat
  old : Byte
  new : Byte
deriving DecidableEq, Repr

/-- Where an SRAM error or a check-value mismatch lies (R388, R391): a core's cache region, a cluster cache, a die's
memory-side cache, a core's pool outside its cache region, a core's overlay planes, the translation caches of a core. -/
inductive Spot where
  | region (c : CoreId)
  | cluster (u : Fin 36)
  | side (d : DieId)
  | pool (c : CoreId)
  | plane (c : CoreId)
  | walker (c : CoreId)
deriving DecidableEq, Repr

/-- An error that the environment has left in an SRAM structure (R388, R391): its place, its line (of the pool: 64 bytes;
of a plane or a translation cache: none), and its kind: 0 corrected, 1 uncorrectable, 2 a check-value mismatch. -/
structure Flaw where
  spot : Spot
  line : Nat
  kind : Nat
deriving DecidableEq, Repr

/-- A T1 line that lies dirty in the memory-side cache of its frame's die (R88, R102, R396): its tag, and the bytes and
the poison that its HBM still holds. -/
structure Behind where
  tag : Nat
  bytes : List Byte
  bad : Bool
deriving DecidableEq, Repr

/-- The machine. `failing` holds the lines with an ECC error (0 corrected, 1 uncorrectable), with data of another key (2) or of
T2 and T3 with data that return with poison (3, R418, R419), and `checks` the check values stored with lines that are not known to follow from their bytes (R90, R388, R391). `behind` holds the T1 lines that lie dirty in the memory-side caches, whose value at the point of coherence
is in `mem` (R102); `policy` the cache policy of a line's latest write, 1 where the cluster cache allocates none and 2 more where the
memory-side cache does not (R395); `flaws` the SRAM errors that the environment has left (R391). `counted` holds, by barrier object (`State.barId`), the lines counted in its phase and those of the
phase before (R116); `snaps` the snapshot bytes of phases in progress (R100), `moved` the head entries rewritten by a move whose page has not
been translated since (R81), `watches` the signals that WAITING slots watch (R297), and `mended` the poisoned lines that a
whole-line write has cleared in this cycle, with their bytes before it, which a read at home still sees (R400). `keyFor` is the key ID of the command in progress (R357),
`lowFor` and `overFor` count the successive samples with VCORE below 600 mV, and with ICORE over 6,000 A and D = 0 (R421); `bar4` is
the size of BAR4, 2^bar4 GiB (R343), `image` the image window of the boot ROM (R355). -/
structure State where
  cycle : Nat
  agenda : List Turn
  cur : Turn
  inputs : List (Nat × Turn)
  free : Nat
  mem : Memory
  poisoned : List Nat
  failing : SMap Nat
  checks : SMap Nat
  scrubbed : List Nat
  lineKeys : SMap (Nat × Nat)
  behind : SMap Behind
  policy : SMap Nat
  flaws : List Flaw
  cores : Vector Core 288
  clusters : Vector Cluster 36
  dies : Vector Die 4
  contexts : SMap Context
  tasks : SMap Task
  teams : SMap Team
  nextTask : Nat
  nextTeam : Nat
  bells : SMap (Nat × Nat)
  moves : SMap Move
  bulks : SMap Bulk
  counted : List (Nat × List Nat × List Nat)
  snaps : List Snap
  moved : List Nat
  watches : List Watch
  mended : SMap (List Byte)
  objects : SMap PoolObj
  freeFrames : SMap (List Nat)
  preempts : List Preempt
  keys : Vector (Option Nat) 128
  keyOp : Nat
  keyKid : Nat
  keyFor : Nat
  keyBusy : Bool
  keyLive : Bool
  keyData : Nat
  keyStart : Nat
  plim : Dword
  plimNow : Dword
  pwr : BitVec 16
  icore : BitVec 16
  vcore : BitVec 12
  gating : Nat
  tmax : BitVec 8
  energy : Dword
  hot : Bool
  lowFor : Nat
  overFor : Nat
  vfmap : Vector Dword 64
  hwbase : Dword
  pkgid : BitVec 10
  pkgSet : Bool
  bar4 : Nat
  image : Memory
  boot : Nat
  ecok : Bool
  lmok : Bool
  rbok : Bool
  rbcnt : BitVec 8
  uciDown : List (Fin 4)
  uaDown : List (Fin 12)
  cxlDown : List (Fin 2)
  pcieDown : Bool
  railsOff : Bool
  aer : List Nat
  hostReply : List Byte
  hostPoison : Bool
deriving DecidableEq, Repr

/-- The reasons a step stops for good. The model has none: every error the spec describes is delivered inside the
machine (R361 to R421). -/
inductive Fault where
deriving DecidableEq, Repr

/-- The instructions without a meaning. -/
inductive Refusal where
  /-- Raised by an arm of `exec` whose instruction has no meaning yet; safe, since the machine stops there. -/
  | notModelled (mnemonic : String)
deriving DecidableEq, Repr

/-! ## The state after package reset -/

/-- A level that holds nothing. -/
def Copies.none : Copies := ⟨[], []⟩

/-- A handle of zeros. -/
def Handle.zero : Handle := ⟨0, 0, false, 0, 0, 0, 0, 0, 0, 0, 0, 0, 0, false⟩

/-- An unused token queue (R146: every field 0). -/
def Token.unused : Token := ⟨false, .ctl, .ctl, false, 0, 0, 0, 0, 0, false, 0, 0, 0, false, 0⟩

/-- A sequencer at position 0 with nothing open. -/
def Sequencer.fresh : Sequencer := ⟨0, [], false, 0, .fetch, 0, none, none, true⟩

/-- A plane with no stream. -/
def Plane.empty : Plane := ⟨[], [], [], [], 0, 0, ⟨[], []⟩, []⟩

/-- A core after reset: its registers as R40 starts a task and zero elsewhere (log 6), no task (R309), its counters
zero (R311), its counters' configuration zero (R315). -/
def Core.reset : Core where
  x := Vector.replicate 64 0
  f := (Vector.replicate 16 false).set 0 true
  b := Vector.replicate 8 0
  bAt := Vector.replicate 8 none
  bWild := Vector.replicate 8 false
  h := Vector.replicate 32 Handle.zero
  o := Vector.replicate 16 (Vector.replicate 64 0)
  latch := Vector.replicate 64 0
  p := Vector.replicate 8 0
  poison := []
  vl := 1
  spb := 0
  spl := 0
  sp := 0
  tdep := 0
  bnda := 0
  bndb := 0
  bndc := 0
  pool := []
  tok := Vector.replicate 16 Token.unused
  guards := Vector.replicate 8 []
  fq := []
  slots := Vector.replicate 32 ⟨false, false, 0, false⟩
  allocV := 0
  allocS := 0
  pending := []
  seqs := Vector.replicate 4 Sequencer.fresh
  engines := Vector.replicate 4 ⟨[], 0⟩
  task := none
  mode := .idle
  ended := false
  plane := Plane.empty
  shadow := none
  lastImages := []
  faults := []
  faultAt := none
  resumed := false
  view := Copies.none
  dirty := Copies.none
  own := Copies.none
  counters := Vector.replicate 16 0
  zero := 0
  pmcs := Vector.replicate 4 ⟨0, none, 0, false⟩
  acct := Vector.replicate 36 0
  flushed := 0
  ovfl := []
  owed := none
  runs := Vector.replicate 4 none
  gateStarts := 0
  under := []
  left := none
  endFaults := []
  stopAt := none
  stopGo := false
  stopFrom := none
  halving := none
  endHolds := []

/-- A die after reset, with the reset values of R74, R287, R314, R317, R323, R324 and R326. -/
def Die.reset : Die where
  nslot := 256
  idle := 100
  qcbbase := 0
  pbbase := 0
  migt := 32
  t0sl := 4
  t0inUse := 4
  slots := Vector.replicate 256 ⟨0, 0, 0, 0, 0, 0, 0, 0, 0, false, false, none, false⟩
  pendOrder := []
  mapAt := 0
  journal := []
  jseq := 0
  helm := #v[⟨0, 0, 0, 0⟩, ⟨0, 0, 0, 0⟩, ⟨1, 0, 0, 0⟩]
  duties := #v[some 0, some 1]
  takeover := []
  mring := 0
  sring := 0
  accq := 0
  accDone := false
  accT := none
  accr := Vector.replicate 40 0
  trace := ⟨false, false, false, 0, 0, 0, 0, 12, 0, 0, 0, 0, 0, 0, 0, 0, 0, [], false, false⟩
  bps := Vector.replicate 8 0
  dbgbm := 0
  dbgcmd := 0
  stopv := 0
  stops := Vector.replicate 8 ⟨0, 0⟩
  stopsOf := Vector.replicate 8 none
  clean := Copies.none
  dirty := Copies.none

/-- A link request that names nothing. -/
def LinkReq.none : LinkReq := ⟨0, .ctl, 0, 0, false, 0, 0⟩

/-- The turn of a machine that has done nothing. -/
def Turn.blank : Turn where
  kind := .act
  instr := .nop
  core := 0
  seq := .ctl
  eng := .load
  die := 0
  slot := 0
  num := 0
  a := 0
  b := 0
  flag := false
  bytes := []
  bell := .pf
  link := LinkReq.none
  remote := .read 0 0
  word := 0
  why := .issue
  sub := 0

/-- The turns of the reset cycle: every sequencer of every core, which charges IDLE (R309, R312). -/
def resetTurns : List Turn :=
  (List.finRange 288).flatMap fun c => [Seq.ctl, .ld, .cmp, .st].map fun q =>
    { Turn.blank with kind := .issue, core := c, seq := q, die := ⟨c.val / 72, by omega⟩ }

/-- The machine right after package reset: CYCLE 0, memory with nothing listed, every context entry free (R22), the
register windows at their reset values, no task, no team (log 6 names each value the spec does not give). -/
def State.reset : State where
  cycle := 0
  agenda := resetTurns
  cur := Turn.blank
  inputs := []
  free := 0
  mem := []
  poisoned := []
  failing := []
  checks := []
  scrubbed := []
  lineKeys := []
  behind := []
  policy := []
  flaws := []
  cores := Vector.replicate 288 Core.reset
  clusters := Vector.replicate 36 ⟨Copies.none, Copies.none⟩
  dies := Vector.replicate 4 Die.reset
  contexts := []
  tasks := []
  teams := []
  nextTask := 1
  nextTeam := 1
  bells := []
  moves := []
  bulks := []
  counted := []
  snaps := []
  moved := []
  watches := []
  mended := []
  objects := []
  freeFrames := []
  preempts := []
  keys := (Vector.replicate 128 none).set 0 (some Config.deviceKey)
  keyOp := 0
  keyKid := 0
  keyFor := 0
  keyBusy := false
  keyLive := false
  keyData := 0
  keyStart := 0
  plim := BitVec.ofNat 64 (3000 + 1000 * 2 ^ 16 + 3000 * 2 ^ 32)
  plimNow := BitVec.ofNat 64 (3000 + 1000 * 2 ^ 16 + 3000 * 2 ^ 32)
  pwr := 0
  icore := 0
  vcore := 0
  gating := 15
  tmax := 0
  energy := 0
  hot := false
  lowFor := 0
  overFor := 0
  vfmap := Vector.replicate 64 0
  hwbase := 0
  pkgid := 0
  pkgSet := false
  bar4 := 6
  image := []
  boot := 0
  ecok := false
  lmok := false
  rbok := false
  rbcnt := Config.fusedRollback
  uciDown := []
  uaDown := []
  cxlDown := []
  pcieDown := false
  railsOff := false
  aer := []
  hostReply := []
  hostPoison := false

end Sys2Proof.Machine
end

