-- ==== Sys2Proof/Machine/Ops.lean ====
section
/-! DEFINITION. The named operations over the state: maps, bytes, registers, the position of a sequencer, waiting,
and TAKING A FAULT (R361, R372 step 1) as one shared operation. -/

namespace Sys2Proof.Machine

/-! ## Maps with rising keys -/

/-- The entry of key `k`. -/
def mget {α : Type} (k : Nat) : SMap α → Option α
  | [] => none
  | (j, v) :: t => if k < j then none else if k = j then some v else mget k t

/-- The map with `v` at key `k`. -/
def mput {α : Type} (k : Nat) (v : α) : SMap α → SMap α
  | [] => [(k, v)]
  | (j, u) :: t => if k < j then (k, v) :: (j, u) :: t else if k = j then (k, v) :: t else (j, u) :: mput k v t

/-- The map without key `k`. -/
def mdel {α : Type} (k : Nat) : SMap α → SMap α
  | [] => []
  | (j, u) :: t => if k < j then (j, u) :: t else if k = j then t else (j, u) :: mdel k t

/-- The map with its entry at key `k`, if any, changed by `f`. -/
def mmod {α : Type} (k : Nat) (f : α → α) (m : SMap α) : SMap α :=
  match mget k m with
  | some v => mput k (f v) m
  | none => m

/-- Keys strictly rising from `lo`. -/
def risingFrom {α : Type} : Nat → SMap α → Bool
  | _, [] => true
  | lo, (j, _) :: t => decide (lo ≤ j) && risingFrom (j + 1) t

/-- The canonical form of memory: keys strictly rising and no byte 0 listed. -/
def Memory.wf (m : Memory) : Bool := risingFrom 0 m && m.all fun c => c.2 != 0

/-! ## Bytes -/

/-- The byte at key `a`; a key that is not listed reads as 0 (log 3). -/
def rdByte (m : Memory) (a : Nat) : Byte := (mget a m).getD 0

/-- Memory with `v` at key `a`. -/
def wrByte (m : Memory) (a : Nat) (v : Byte) : Memory := if v = 0 then mdel a m else mput a v m

/-- The `n` bytes from key `a`. -/
def rdBytes (m : Memory) (a : Nat) : Nat → List Byte
  | 0 => []
  | n + 1 => rdByte m a :: rdBytes m (a + 1) n

/-- Memory with `bs` from key `a`. -/
def wrBytes (m : Memory) (a : Nat) : List Byte → Memory
  | [] => m
  | b :: t => wrBytes (wrByte m a b) (a + 1) t

/-- Memory with every cell of `cs` written. -/
def wrCells (m : Memory) : Cells → Memory
  | [] => m
  | c :: t => wrCells (wrByte m c.1 c.2) t

/-- The little-endian number of some bytes (R3). -/
def leNat : List Byte → Nat
  | [] => 0
  | b :: t => b.toNat + 256 * leNat t

/-- The `n` little-endian bytes of a number (R3). -/
def leBytes : Nat → Nat → List Byte
  | 0, _ => []
  | n + 1, v => BitVec.ofNat 8 v :: leBytes n (v / 256)

/-- The number of `n` bytes from key `a`. -/
def rdNat (m : Memory) (a n : Nat) : Nat := leNat (rdBytes m a n)

/-- Memory with the `n`-byte number `v` at key `a`. -/
def wrNat (m : Memory) (a n v : Nat) : Memory := wrBytes m a (leBytes n v)

/-- The cells of `bs` from key `a`. -/
def cellsFrom (a : Nat) : List Byte → Cells
  | [] => []
  | b :: t => (a, b) :: cellsFrom (a + 1) t

/-- Cells laid over cells: the first argument wins. -/
def overCells : Cells → Cells → Cells
  | [], m => m
  | c :: t, m => overCells t (mput c.1 c.2 m)

/-- The key of a physical address in T1 (R69). -/
def t1 (pa : Nat) : Nat := 2 ^ 52 + pa

/-- The key of a physical address in a tier (R16, R69). -/
def tierKey (tier pa : Nat) : Nat := tier * 2 ^ 52 + pa % 2 ^ 52

/-- The tier of a key. -/
def keyTier (k : Nat) : Nat := fld k 52 2

/-- The key of a byte under the tag of its page, by which every copy of a line is held, so that only a request of the
same key ID and world hits it (R91); the key without its tag; the same of 64-byte lines. -/
def tagged (g k : Nat) : Nat := g * 2 ^ 54 + k
def bare (k : Nat) : Nat := k % 2 ^ 54
def taggedLine (g l : Nat) : Nat := g * 2 ^ 48 + l
def bareLine (l : Nat) : Nat := l % 2 ^ 48
def tagOf (l : Nat) : Nat := l / 2 ^ 48

/-- A list without the members that repeat the one before them. -/
def oncePerRun : List Nat → List Nat
  | [] => []
  | [a] => [a]
  | a :: b :: t => if a = b then oncePerRun (b :: t) else a :: oncePerRun (b :: t)

/-- The distinct 64-byte lines of some keys. -/
def linesOf (ks : List Nat) : List Nat := (oncePerRun (ks.map (· / 64))).eraseDups

/-- The lowest set bit of a number among spans (first bit, length) in rising order: of the reserved fields of a record, the
one that a RESERVED fault names (R6, R366). -/
def spareBit (spans : List (Nat × Nat)) (w : Nat) : Option Nat :=
  spans.findSome? fun p =>
    if fld w p.1 p.2 = 0 then none else ((List.range p.2).find? fun i => bitAt w (p.1 + i)).map (p.1 + ·)

/-- INFO0 and INFO1 of the RESERVED fault of a record: the doubleword that holds bit `b`, and the bit (R366). -/
def spareInfo (w b : Nat) : Nat × Nat := (fld w (b / 64 * 64) 64, b)

/-- The condition of a WAIT (R295). -/
def waitHolds (opc m v : Nat) : Bool :=
  let a := sextN 64 m
  let b := sextN 64 v
  match opc with
  | 0 => a == b
  | 1 => a != b
  | 2 => decide (a < b)
  | _ => decide (b ≤ a)

/-- The keys from `a` to `a + n - 1`. -/
def keysFrom (a n : Nat) : List Nat := (List.range n).map (a + ·)

/-! ## Cores and sequencers -/

/-- A core of the package. -/
def State.core (s : State) (c : CoreId) : Core := s.cores.get c

/-- The state with a core replaced. -/
def State.putCore (s : State) (c : CoreId) (k : Core) : State := { s with cores := s.cores.set c.val k c.isLt }

/-- The state with a core changed. -/
def State.onCore (s : State) (c : CoreId) (f : Core → Core) : State := s.putCore c (f (s.core c))

/-- The core whose turn it is. -/
def State.me (s : State) : Core := s.core s.cur.core

/-- The state with the acting core changed. -/
def State.onMe (s : State) (f : Core → Core) : State := s.onCore s.cur.core f

/-- A die. -/
def State.die (s : State) (d : DieId) : Die := s.dies.get d

/-- The state with a die changed. -/
def State.onDie (s : State) (d : DieId) (f : Die → Die) : State :=
  { s with dies := s.dies.set d.val (f (s.dies.get d)) d.isLt }

/-- The state with a task changed. -/
def State.onTask (s : State) (t : Nat) (f : Task → Task) : State := { s with tasks := mmod t f s.tasks }

/-- The state with a context entry changed. -/
def State.onCtx (s : State) (n : Nat) (f : Context → Context) : State := { s with contexts := mmod n f s.contexts }

/-- The state with a team changed. -/
def State.onTeam (s : State) (n : Nat) (f : Team → Team) : State := { s with teams := mmod n f s.teams }

/-- The cluster and the die of a core (R12). -/
def clusterOf (c : CoreId) : Fin 36 := ⟨c.val / 8, by omega⟩
def dieOf (c : CoreId) : DieId := ⟨c.val / 72, by omega⟩

/-- The number of a sequencer and of an engine (R29, R146). -/
def seqIdx : Seq → Fin 4
  | .ctl => 0 | .ld => 1 | .cmp => 2 | .st => 3
def engIdx : Engine → Fin 4
  | .load => 0 | .vector => 1 | .matrix => 2 | .store => 3

/-- The sequencer that feeds an engine (R29). -/
def feeder : Engine → Seq
  | .load => .ld | .vector => .cmp | .matrix => .cmp | .store => .st

/-- The code of a cause (R308). -/
def Cause.code : Cause → Fin 16
  | .issue => 0 | .token => 1 | .queueFull => 2 | .guard => 3 | .format => 4 | .barrier => 5 | .phase => 6
  | .memory => 7 | .fetch => 8 | .branch => 9 | .switch => 10 | .repart => 11 | .done => 12 | .idle => 13
  | .trap => 14 | .preempt => 15

/-- A sequencer of a core. -/
def Core.seq (k : Core) (q : Seq) : Sequencer := k.seqs.get (seqIdx q)

/-- The core with a sequencer changed. -/
def Core.onSeq (k : Core) (q : Seq) (f : Sequencer → Sequencer) : Core :=
  { k with seqs := k.seqs.set (seqIdx q).val (f (k.seq q)) (seqIdx q).isLt }

/-- An engine of a core. -/
def Core.engine (k : Core) (e : Engine) : EngineQ := k.engines.get (engIdx e)

/-- The core with an engine changed. -/
def Core.onEngine (k : Core) (e : Engine) (f : EngineQ → EngineQ) : Core :=
  { k with engines := k.engines.set (engIdx e).val (f (k.engine e)) (engIdx e).isLt }

/-- The head position that a sequencer of the acting core has. -/
def State.pos (s : State) : Nat := (s.me.seq s.cur.seq).pos

/-- A sequencer past an instruction of `n` position units: a delay slot brings the pending transfer nearer, and the
last one hands the stream to its target (R181, R182, R183). -/
def Sequencer.past (q : Sequencer) (n : Nat) : Sequencer :=
  let q := { q with isNew := true }
  match q.delay with
  | none => { q with pos := q.pos + n, acting := none }
  | some (k, tgt, cyc) =>
    if k ≤ 1 then
      { q with pos := tgt.getD (q.pos + n), acting := none, delay := none, target := cyc }
    else { q with pos := q.pos + n, acting := none, delay := some (k - 1, tgt, cyc) }

/-- The acting sequencer issues its instruction and moves on by `n` position units (R171, R7). -/
def advanceBy (n : Nat) (s : State) : State := s.onMe fun k => k.onSeq s.cur.seq (·.past n)

/-- The acting sequencer issues a one-position instruction. -/
def advance (s : State) : State := advanceBy 1 s

/-- The acting sequencer does not issue in this cycle and charges `why` (R217, R241, R268). -/
def stall (why : Cause) (sub : Nat) (s : State) : State := { s with cur := { s.cur with why := why, sub := sub } }

/-- A free value is taken: the counter moves on. -/
def State.tick (s : State) : State := { s with free := s.free + 1 }

/-! ## Registers -/

/-- x0 reads zero (R9). -/
def Core.xr (k : Core) (r : XReg) : Dword := if r = 0 then 0 else k.x.get r

/-- f0 reads true (R9). -/
def Core.fr (k : Core) (r : FReg) : Bool := if r = 0 then true else k.f.get r

/-- A result reaches its register; writes to x0 and f0 are discarded (R173). -/
def Core.land (k : Core) : Dest → Core
  | .x r v => if r = 0 then k else { k with x := k.x.set r.val v r.isLt }
  | .f r v => if r = 0 then k else { k with f := k.f.set r.val v r.isLt }
  | .b r v => { k with b := k.b.set r.val v r.isLt }
  | .h r v => { k with h := k.h.set r.val v r.isLt }
  | .slot i v => { k with slots := k.slots.set i.val { k.slots.get i with phase := v } i.isLt }

/-- Two results of one register (R173). -/
def Dest.same : Dest → Dest → Bool
  | .x r1 _, .x r2 _ => r1 == r2
  | .f r1 _, .f r2 _ => r1 == r2
  | .b r1 _, .b r2 _ => r1 == r2
  | .h r1 _, .h r2 _ => r1 == r2
  | .slot k1 _, .slot k2 _ => k1 == k2
  | _, _ => false

/-- A handle write lands at the end of its cycle, so that a command issued in that cycle captures the old value
(R196). -/
def Dest.isHandle : Dest → Bool
  | .h _ _ => true
  | _ => false

/-- A result of exposed latency `lat` (R171): one of latency 1 lands at once unless an earlier write of its register
is in flight (R173) or it is a handle (R196). -/
def Core.post (k : Core) (now : Nat) (d : Dest) (lat : Nat) : Core :=
  if lat ≤ 1 && !d.isHandle && !k.pending.any (fun p => !p.vote && p.dest.same d) then k.land d
  else { k with pending := k.pending ++ [⟨d, now + lat, false, false⟩] }

/-- The acting core writes a result of exposed latency `lat`. -/
def post (d : Dest) (lat : Nat) (s : State) : State := s.onMe fun k => k.post s.cycle d lat

/-- The acting core has an interlocked result outstanding (R172), which lands at a time of the device's choice
(log 2). -/
def postLater (d : Dest) (least : Nat) (s : State) : State :=
  (s.onMe fun k =>
    { k with pending := k.pending ++ [⟨d, s.cycle + least + Config.latency s.free, true, false⟩] }).tick

/-- Every result that is due lands, in issue order; one whose register an earlier result still holds waits for it
(R173). -/
def landAll (now : Nat) : List Pending → List Dest → Core → Core × List Pending
  | [], _, k => (k, [])
  | p :: t, blocked, k =>
    if p.due ≤ now && !blocked.any (fun d => d.same p.dest) then landAll now t blocked (k.land p.dest)
    else
      let r := landAll now t (p.dest :: blocked) k
      (r.1, p :: r.2)

/-- The results due in this cycle land in a core, those of VOTE after the control stream's (R173). -/
def Core.landDue (k : Core) (now : Nat) : Core :=
  let r := landAll now (k.pending.filter (!·.vote)) [] k
  let v := landAll now (k.pending.filter (·.vote)) [] r.1
  { v.1 with pending := r.2 ++ v.2 }

/-! ## The pool (R56) -/

/-- Bytes of a granule (R56). -/
def granule : Nat := 65536

/-- First byte and size of the scratchpad region. -/
def Core.spadBase (k : Core) : Nat := k.bnda * granule
def Core.spadSize (k : Core) : Nat := (k.bndb - k.bnda) * granule

/-- First byte of the accumulator region (R56), and U of R272: 16 for each granule. -/
def Core.accBase (k : Core) : Nat := k.bndb * granule
def Core.accUnits (k : Core) : Nat := 16 * (k.bndc - k.bndb)

/-- Entries of the main file (R56). -/
def Core.mainSize (k : Core) : Nat := k.bnda * 256

/-- The number of `n` bytes at a scratchpad offset, and the core with them written. -/
def Core.spadRd (k : Core) (off n : Nat) : Nat := rdNat k.pool (k.spadBase + off) n
def Core.spadWr (k : Core) (off n v : Nat) : Core := { k with pool := wrNat k.pool (k.spadBase + off) n v }

/-- `n` bytes from a scratchpad offset lie within the region. -/
def Core.inSpad (k : Core) (off n : Nat) : Bool := decide (off + n ≤ k.spadSize)

/-- The first offending byte offset of an access from `off` that leaves the scratchpad region (R366). -/
def Core.spadBad (k : Core) (off : Int) : Nat := codeN 64 (if off < 0 then off else max off k.spadSize)

/-- Poison of the pool is kept by line; the operand file, the latch and the predicates follow as units 65536 to
65560 (R389). -/
def fileUnit (i : Nat) : Nat := 65536 + i
def latchUnit : Nat := 65552
def predUnit (i : Nat) : Nat := 65553 + i

/-- Some pool bytes are poisoned. -/
def Core.poisoned (k : Core) (a n : Nat) : Bool := k.poison.any fun l => decide (a / 64 ≤ l) && decide (l * 64 < a + n)

/-! ## Tasks and contexts -/

/-- The task that a core runs. -/
def State.taskOn (s : State) (c : CoreId) : Option Task := (s.core c).task.bind fun t => mget t s.tasks

/-- The acting core's task and its context entry. -/
def State.myTask (s : State) : Option Task := s.taskOn s.cur.core
def State.myTid (s : State) : Nat := s.me.task.getD 0
def State.myCtxN (s : State) : Nat := (s.myTask.map (·.record.ctx)).getD 0
def State.myCtx (s : State) : Option Context := mget s.myCtxN s.contexts

/-- TIMEUS (R157): whole microseconds of the package time base (log 7). -/
def State.timeUs (s : State) : Nat := s.cycle / Config.cyclesPerUs

/-- The acting task is pinned (R43). -/
def State.isPinned (s : State) : Bool := (s.myTask.map (·.pinned)).getD false

/-- The act pins its task in its issue cycle (R43). -/
def pin (s : State) : State := s.onTask s.myTid fun t => { t with pinned := true }

/-! ## Taking a fault (R361, R372 step 1) -/

/-- A fault is raised in a core: its sequencers stop issuing in this cycle and it waits for its delivery. Faults of
later cycles are not raised, since nothing issues. -/
def raiseOn (c : CoreId) (f : Raised) (s : State) : State :=
  let k := s.core c
  if k.task.isNone then s
  else if k.faultAt.isSome && k.faultAt != some s.cycle then s
  else
    { s.onCore c fun k => { k with faults := k.faults ++ [f], faultAt := some s.cycle, mode := .fault } with
      cur := { s.cur with why := .trap, sub := 0 } }

/-- The acting sequencer raises a fault of its own (ENG 15). -/
def raise (cause info0 info1 : Nat) (s : State) : State :=
  raiseOn s.cur.core ⟨cause, s.cur.seq, 15, s.pos, 0, info0 % 2 ^ 64, info1 % 2 ^ 64, false⟩ s

/-- A debug stop of a core in a cycle; its record is placed once its engines are done (R324). A task that was draining goes on to
leave once it is resumed. -/
def Core.stop (now src code bp : Nat) (k : Core) : Core :=
  let from' := match k.mode with
    | .drain why => some why
    | .idle | .load _ _ | .run | .save _ _ | .fault | .debug _ _ _ => none
  { k with mode := .debug src code bp, stopAt := some now, stopGo := false, stopFrom := from' }

/-- A fault of a task on a core: the task that runs there, or one whose commands run on beneath it (R41). -/
def raiseFor (c : CoreId) (tid : Nat) (f : Raised) (s : State) : State :=
  if (s.core c).task == some tid then raiseOn c f s
  else s.onCore c fun k => { k with endFaults := k.endFaults ++ [(tid, f)] }

/-- A command of an engine raises a fault (ENG 0 to 3). -/
def raiseCmd (e : Engine) (m : Cmd) (cause info0 info1 : Nat) (s : State) : State :=
  raiseFor s.cur.core m.task ⟨cause, m.seq, (engIdx e).val, m.pos, m.num, info0 % 2 ^ 64, info1 % 2 ^ 64, false⟩ s

/-- The core with the pool and the vector state of a task that runs beneath, and the entry that keeps its own. -/
def Core.exchange (k : Core) (u : Under) : Core × Under :=
  ({ k with bnda := u.bnda, bndb := u.bndb, bndc := u.bndc, pool := u.pool, poison := u.poison, o := u.o
            latch := u.latch, p := u.p },
    { u with bnda := k.bnda, bndb := k.bndb, bndc := k.bndc, pool := k.pool, poison := k.poison, o := k.o
             latch := k.latch, p := k.p })

/-- An act of a command of task `tid` on a core: on the contents that its task left there, if it runs beneath
another (R41, log 20). -/
def beneath (c : CoreId) (tid : Nat) (act : State → State) (s : State) : State :=
  match (s.core c).under.find? (·.task == tid) with
  | none => act s
  | some u =>
    let x := (s.core c).exchange u
    let r := act (s.putCore c x.1)
    let y := (r.core c).exchange x.2
    r.putCore c { y.1 with under := y.1.under.map fun v => if v.task == tid then { y.2 with task := tid } else v }

/-! ## Handles (R60) -/

/-- A handle as its 256-bit number, and back; the reserved bits are zero (R190). -/
def Handle.toNat (h : Handle) : Nat :=
  h.buf.toNat + h.off.toNat * 2 ^ 20 + b2n h.spc * 2 ^ 64 + h.hint.toNat * 2 ^ 65 + h.fmt.toNat * 2 ^ 68
    + h.n0.toNat * 2 ^ 80 + h.n1.toNat * 2 ^ 96 + h.n2.toNat * 2 ^ 112 + h.s1.toNat * 2 ^ 128 + h.s2.toNat * 2 ^ 152
    + h.cur.toNat * 2 ^ 176 + h.xv.toNat * 2 ^ 208 + h.gsz.toNat * 2 ^ 224 + b2n h.glay * 2 ^ 226

def Handle.ofNat (w : Nat) : Handle where
  buf := BitVec.ofNat 20 (fld w 0 20)
  off := BitVec.ofNat 44 (fld w 20 44)
  spc := bitAt w 64
  hint := BitVec.ofNat 3 (fld w 65 3)
  fmt := BitVec.ofNat 6 (fld w 68 6)
  n0 := BitVec.ofNat 16 (fld w 80 16)
  n1 := BitVec.ofNat 16 (fld w 96 16)
  n2 := BitVec.ofNat 16 (fld w 112 16)
  s1 := BitVec.ofNat 24 (fld w 128 24)
  s2 := BitVec.ofNat 24 (fld w 152 24)
  cur := BitVec.ofNat 32 (fld w 176 32)
  xv := BitVec.ofNat 16 (fld w 208 16)
  gsz := BitVec.ofNat 2 (fld w 224 2)
  glay := bitAt w 226

/-- HSETF of a field with the low bits of a register (R195). -/
def Handle.set (h : Handle) (f : HField) (v : Dword) : Handle :=
  match f with
  | .buf => { h with buf := v.setWidth 20 } | .off => { h with off := v.setWidth 44 }
  | .spc => { h with spc := v.getLsbD 0 } | .hint => { h with hint := v.setWidth 3 }
  | .fmt => { h with fmt := v.setWidth 6 } | .n0 => { h with n0 := v.setWidth 16 }
  | .n1 => { h with n1 := v.setWidth 16 } | .n2 => { h with n2 := v.setWidth 16 }
  | .s1 => { h with s1 := v.setWidth 24 } | .s2 => { h with s2 := v.setWidth 24 }
  | .cur => { h with cur := v.setWidth 32 } | .xv => { h with xv := v.setWidth 16 }
  | .gsz => { h with gsz := v.setWidth 2 } | .glay => { h with glay := v.getLsbD 0 }

/-- HGETF: S1, S2 and CUR sign-extended, the others zero-extended (R195). -/
def Handle.get (h : Handle) (f : HField) : Dword :=
  match f with
  | .buf => h.buf.setWidth 64 | .off => h.off.setWidth 64
  | .spc => (BitVec.ofBool h.spc).setWidth 64 | .hint => h.hint.setWidth 64
  | .fmt => h.fmt.setWidth 64 | .n0 => h.n0.setWidth 64 | .n1 => h.n1.setWidth 64 | .n2 => h.n2.setWidth 64
  | .s1 => h.s1.signExtend 64 | .s2 => h.s2.signExtend 64 | .cur => h.cur.signExtend 64
  | .xv => h.xv.setWidth 64 | .gsz => h.gsz.setWidth 64 | .glay => (BitVec.ofBool h.glay).setWidth 64

/-- An extent of 0 is read as 1 (R60). -/
def ext (n : Nat) : Nat := if n = 0 then 1 else n

end Sys2Proof.Machine
end

