-- ==== Sys2Proof/Machine/Access.lean ====
section
/-! DEFINITION. Memory as programs see it: the buffer table (R63, R64), the Chart (R65 to R70), the checks of a
request in the order of R380 and the error rings (R398, R401). -/

namespace Sys2Proof.Machine

/-! ## Error rings -/

/-- The key pair behind a key ID, as a number; 0 where none is held. -/
def State.keyOf (s : State) (kid : Nat) : Nat := ((s.keys[kid]?).bind id).getD 0

/-- Data units of 16 bytes encrypted under a key with their addresses as tweaks (R322). -/
def encUnits (key pa : Nat) : Nat → List Byte → List Byte
  | 0, _ => []
  | n + 1, bs => leBytes 16 (Config.xts key pa (leNat (bs.take 16))) ++ encUnits key (pa + 16) n (bs.drop 16)

/-- The bytes of a record of `n` units about context `ctx`: encrypted under its KEYID when it has CONF = 1. -/
def State.confBytes (s : State) (ctx pa units : Nat) (bs : List Byte) : List Byte :=
  match mget ctx s.contexts with
  | some x => if x.conf then encUnits (s.keyOf x.keyid) pa units bs else bs
  | none => bs

/-- A ring of 1,023 entries whose header begins with a write index, a read index and a count of lost entries: an
entry is written, and then the index, unless the ring is full (R398, R401). -/
def ringPut (base ctx : Nat) (bs : List Byte) (s : State) : State :=
  let w := rdNat s.mem (t1 base) 4
  let r := rdNat s.mem (t1 (base + 4)) 4
  if (w + 2 ^ 32 - r) % 2 ^ 32 < 1023 then
    let pa := base + 64 * (1 + w % 1023)
    let m := wrBytes s.mem (t1 pa) (s.confBytes ctx pa 4 bs)
    { s with mem := wrNat m (t1 base) 4 ((w + 1) % 2 ^ 32) }
  else
    let l := rdNat s.mem (t1 (base + 8)) 4
    { s with mem := wrNat s.mem (t1 (base + 8)) 4 (Nat.min (l + 1) (2 ^ 32 - 1)) }

/-- An entry of the memory error ring (R399). -/
def memEntry (d : DieId) (kind tier src ctx kid : Nat) (wld : Bool) (count paddr vaddr detail : Nat) (s : State) :
    State :=
  ringPut (s.die d).mring ctx (leBytes 64
    (kind + d.val * 2 ^ 8 + tier * 2 ^ 10 + src * 2 ^ 12 + ctx * 2 ^ 16 + kid * 2 ^ 32 + b2n wld * 2 ^ 39
      + (Nat.min count (2 ^ 24 - 1)) * 2 ^ 40 + paddr % 2 ^ 64 * 2 ^ 64 + vaddr * 2 ^ 128
      + s.cycle % 2 ^ 64 * 2 ^ 192 + detail * 2 ^ 256)) s

/-- An entry of the scheduler error ring (R402). -/
def schedEntry (d : DieId) (kind sub queue ctx team arg0 arg1 : Nat) (s : State) : State :=
  ringPut (s.die d).sring ctx (leBytes 64
    (kind + d.val * 2 ^ 8 + sub * 2 ^ 10 + queue * 2 ^ 16 + ctx * 2 ^ 36 + team % 2 ^ 24 * 2 ^ 64 + s.cycle % 2 ^ 64 * 2 ^ 128
      + arg0 % 2 ^ 64 * 2 ^ 192 + arg1 % 2 ^ 64 * 2 ^ 256)) s

/-- A write to the doorbell aperture that is no doorbell store is ignored and reported: its byte offset and its size (R404). -/
def badBell (d : DieId) (off size : Nat) (s : State) : State := schedEntry d 2 3 0 0 0 off size s

/-- A counter of the memory error ring's header, `n` bytes at byte `off`, rises by `v` (R398). -/
def ringCount (d : DieId) (off n v : Nat) (s : State) : State :=
  let a := t1 ((s.die d).mring + off)
  { s with mem := wrNat s.mem a n ((rdNat s.mem a n + v) % 2 ^ (8 * n)) }

/-! ## The buffer table (R63) -/

/-- A buffer-table entry. -/
structure Buffer where
  vbase : Nat
  len : Nat
  rd : Bool
  wr : Bool
  at' : Bool
  ex : Bool
  owner : Nat
  ilv : Nat
  keyid : Nat
  integ : Nat
  tier : Nat
  pool : Bool
  pwr : Bool
  ver : Nat
  obj : Nat
  reserved : Bool
deriving DecidableEq, Repr

/-- A buffer-table entry from its 256 bits. -/
def Buffer.ofNat (w : Nat) : Buffer :=
  ⟨fld w 0 56, fld w 64 48, bitAt w 112, bitAt w 113, bitAt w 114, bitAt w 115, fld w 128 16, fld w 144 4, fld w 148 7,
    fld w 156 2, fld w 158 2, bitAt w 160, bitAt w 161, fld w 192 32, fld w 224 32,
    fld w 56 8 != 0 || fld w 116 12 != 0 || bitAt w 155 || fld w 162 30 != 0⟩

/-- The entry `i` of a context's buffer table, in T1. -/
def State.buffer (s : State) (x : Context) (i : Nat) : Buffer :=
  Buffer.ofNat (rdNat s.mem (t1 (x.btbase + 32 * i)) 32)

/-! ## The Chart (R65 to R69) -/

def Leaf.size (l : Leaf) : Nat := 4096 * 4 ^ fld l.bits 2 3
def Leaf.tier (l : Leaf) : Nat := fld l.bits 5 2
def Leaf.world (l : Leaf) : Bool := bitAt l.bits 7
def Leaf.mask (l : Leaf) : Nat := fld l.bits 8 8
def Leaf.keyid (l : Leaf) : Nat := fld l.bits 16 7
def Leaf.mig (l : Leaf) : Bool := bitAt l.bits 25
def Leaf.ca (l : Leaf) : Nat := fld l.bits 26 2
def Leaf.frame (l : Leaf) : Nat := fld l.bits 32 40
/-- LCNTH ++ LCNT (R67). -/
def Leaf.lcnt (l : Leaf) : Nat := fld l.bits 28 4 * 256 + fld l.bits 96 8
/-- Where the interleave of a T1 page puts a byte of it (R63, step 7 of R64): within the page, the 256-byte steps of code 1
and the 4 KiB steps of code 2 in an order that the spec does not give, a free value (log 86). -/
def Leaf.place (l : Leaf) (off : Nat) : Nat :=
  if l.tier != 1 then off
  else match l.ilv with
    | 1 => off ^^^ (256 * (Config.interleave 1 % (l.size / 256)))
    | 2 => off ^^^ (4096 * (Config.interleave 2 % (l.size / 4096)))
    | _ => off

/-- The first key of the page, and the key of the byte of virtual address `va`. -/
def Leaf.base (l : Leaf) : Nat := tierKey l.tier (l.frame * 4096)
def Leaf.keyOf (l : Leaf) (va : Nat) : Nat := tierKey l.tier (l.frame * 4096 + l.place (va % l.size))

/-- The virtual address of a line of the page. -/
def Leaf.vaOf (l : Leaf) (line : Nat) : Nat := l.page + l.place (64 * line - l.base)

/-- The key ID and the world of a page, which tag every cached copy of its lines (R91). -/
def Leaf.tag (l : Leaf) : Nat := l.keyid + 128 * b2n l.world

/-- A key lies in the page. -/
def Leaf.covers (l : Leaf) (k : Nat) : Bool := decide (l.base ≤ k) && decide (k < l.base + l.size)

/-- The leaf among some that covers a line. -/
def leafOf (ls : List Leaf) (line : Nat) : Leaf := (ls.find? fun l => l.covers (64 * line)).getD ⟨0, 0, 0, 0, 0⟩

/-- A byte of the pages under its page's tag. -/
def tagKey (ls : List Leaf) (k : Nat) : Nat := tagged (leafOf ls (k / 64)).tag k

/-- A line of the pages under its page's tag. -/
def tagLine (ls : List Leaf) (line : Nat) : Nat := taggedLine (leafOf ls line).tag line

/-- Whether a line fetched through a handle with a HINT is allocated in the cluster cache and in the memory-side cache of
the issuer's die (R60, R62, R395). -/
def Leaf.allocates (l : Leaf) (hint : Nat) : Bool × Bool :=
  (l.ca == 0 && hint != 3 && hint != 5, l.ca != 2 && l.tier != 0 && hint != 4 && hint != 5)

/-- CRC-32C (R90), reflected: one bit, one byte, some bytes, and the check value of a line. -/
def crcBit (c : Nat) : Nat := if c % 2 = 1 then (c / 2) ^^^ 0x82F63B78 else c / 2
def crcByte (c : Nat) (b : Byte) : Nat := (List.range 8).foldl (fun c _ => crcBit c) (c ^^^ b.toNat)
def crc32c (bs : List Byte) : Nat := bs.foldl crcByte 0xFFFFFFFF ^^^ 0xFFFFFFFF

/-- The error with which a line reads at its home, if any: 0 corrected and 1 uncorrectable by ECC, 2 a check value that is not
that of the bytes (R90, R388, R391). -/
def State.failure (s : State) (l : Nat) : Option Nat :=
  match mget l s.failing with
  | some k => some k
  | none => (mget l s.checks).bind fun v => if v = crc32c (rdBytes s.mem (64 * l) 64) then none else some 2

/-- A line that reads as uncorrectable: it is poisoned, or fails its check or its ECC (R381, R388). -/
def State.unreadable (s : State) (l : Nat) : Bool := s.poisoned.contains l || ((s.failure l).map (· != 0)).getD false

/-- A walk from a table at a level (R65, R381): the leaf, or the reason code, the level and the entry's address. -/
def walkFrom (s : State) (va : Nat) : Nat → Nat → Except (Nat × Nat × Nat) Leaf
  | 0, _ => .error (1, 0, 0)
  | lvl + 1, table =>
    let i := fld va (12 + 11 * lvl) 11
    let e := table + 16 * i
    let w := rdNat s.mem (t1 e) 16
    if s.unreadable (t1 e / 64) then .error (3, lvl, e)
    else if !bitAt w 0 then .error (0, lvl, e)
    else if bitAt w 1 then
      let c := fld w 2 3
      if fld w 26 2 = 3 then .error (1, lvl, e)
      else if (c ≤ 5 && lvl = 0) || (6 ≤ c && lvl = 1) then
        let n := if c ≤ 5 then 4 ^ c else 2 * 4 ^ (c - 6)
        let hd := table + 16 * (i - i % n)
        let r := rdNat s.mem (t1 hd) 16
        if s.unreadable (t1 hd / 64) then .error (3, lvl, e) else .ok ⟨r, e, hd, va - va % (4096 * 4 ^ fld r 2 3), 0⟩
      else .error (2, lvl, e)
    else if lvl = 0 || fld w 2 30 != 0 || fld w 72 56 != 0 then .error (1, lvl, e)
    else walkFrom s va lvl (fld w 32 40 * 4096)

/-- A walk of a context's Chart. DESIGN CHOICE (log 71): a virtual address of 2^56 or more is taken modulo 2^56. -/
def State.walk (s : State) (x : Context) (va : Nat) : Except (Nat × Nat × Nat) Leaf :=
  walkFrom s (va % 2 ^ 56) 4 x.chroot

/-- The die that holds a frame: T0 by bits 51:50, T1 by the stack in bits 51:36, none for T2 and T3 (R69, R80).
DESIGN CHOICE (log 72): a stack number of 8 or more, which names none of the 8 stacks of R13, counts modulo 8. -/
def frameDie (k : Nat) : Option DieId :=
  if keyTier k = 0 then some (Fin.ofNat 4 (fld k 50 2))
  else if keyTier k = 1 then some (Fin.ofNat 4 (fld k 36 16 / 2))
  else none

/-- The byte lies in the block of the doorbell aperture (R349). -/
def isAperture (k : Nat) : Bool := keyTier k == 1 && fld k 36 16 == 0x8000

/-- A way round the ring from `a` to `b` without a link that is down (R11, R417). -/
def State.ringPath (s : State) (a b : DieId) : Bool :=
  let up (i : Nat) : Bool := !s.uciDown.contains (Fin.ofNat 4 i)
  let n := (b.val + 4 - a.val) % 4
  (List.range n).all (fun i => up (a.val + i)) || (List.range (4 - n)).all (fun i => up (b.val + i))

/-- The die of a CXL port (R11). -/
def cxlDie (p : Fin 2) : DieId := if p = 0 then 1 else 3

/-- A UALink port that is up can be reached over the ring (R11, R418). -/
def State.uaReach (s : State) (d : DieId) : Bool :=
  (List.finRange 12).any fun p => !s.uaDown.contains p && s.ringPath d (Fin.ofNat 4 (p.val / 3))

/-- The failed path between a die and a byte, over the ring to the die that holds the frame or the port (R11), as the INFO1 of a
LINK fault gives it, PERF clear: such a request is not sent, so that it cannot have been performed (R416 to R419). -/
def State.linkFail (s : State) (d : DieId) (k : Nat) : Option Nat :=
  match keyTier k with
  | 2 =>
    let p := fld k 12 1
    if s.cxlDown.contains (Fin.ofNat 2 p) then some (2 + p * 256)
    else if s.ringPath d (cxlDie (Fin.ofNat 2 p)) then none
    else some ((cxlDie (Fin.ofNat 2 p)).val * 256)
  | 3 => if s.uaReach d then none else some (1 + fld k 42 10 * 2 ^ 32)
  | _ =>
    match frameDie k with
    | some t => if s.ringPath d t then none else some (t.val * 256)
    | none => none

/-- The failed path between a die and some of the `n` bytes from a key: the two CXL ports take turns at 4 KiB (R350, R419). -/
def State.pathFail (s : State) (d : DieId) (k n : Nat) : Option Nat :=
  match s.linkFail d k with
  | some i => some i
  | none => if keyTier k = 2 && 4096 < k % 4096 + n then s.linkFail d (k + 4096) else none

/-! ## The checks of a request (R380) -/

/-- What an access does. -/
inductive Acts where
  | read | write | atomic | redadd
deriving DecidableEq, Repr

def Acts.code : Acts → Nat
  | .read => 0 | .write => 1 | .atomic => 2 | .redadd => 3

/-- The outcome of the checks: the keys of the bytes, a page in motion, or a fault's cause, INFO0 and INFO1. -/
inductive Req where
  | ok (keys : List Nat) (kid : Nat) (integ : Nat) (leaves : List Leaf)
  | wait
  | bad (cause info0 info1 : Nat)
deriving DecidableEq, Repr

/-- INFO0 of a memory cause (R382). -/
def reqInfo (buf off : Nat) : Nat := buf % 2 ^ 20 + off % 2 ^ 44 * 2 ^ 20

/-- Step 1 of R380: an index beyond the table, or an entry that is not valid or has a reserved bit or code (R6, R63). -/
def State.entryBad (s : State) (x : Context) (buf : Nat) : Bool :=
  let b := s.buffer x buf
  decide (x.btlen ≤ buf) || b.len == 0 || b.reserved || decide (4 ≤ b.ilv) || decide (2 ≤ b.integ)

/-- Steps 1, 2 and 4 of R380, which FLUSH, INV and CHRD pass alone. -/
def State.checkEntry (s : State) (x : Context) (ctxN buf : Nat) (off : Int) (n : Nat) (right : Option (Acts × Bool)) :
    Except (Nat × Nat × Nat) Buffer :=
  let b := s.buffer x buf
  let i0 := reqInfo buf (codeN 44 off)
  if s.entryBad x buf then .error (0x20, i0, x.btlen)
  else if off < 0 || (b.len : Int) < off + n then .error (0x21, i0, b.len)
  else
    let lacks := match right with
      | none => none
      | some (a, ex) =>
        let ok := match a with
          | .read => if ex then b.ex else b.rd
          | .write => b.wr
          | .atomic => b.at'
          | .redadd => b.at' && b.wr
        if ok then none else some (0x22, i0, a.code)
    match lacks with
    | some e => .error e
    | none => if b.owner != 0 && b.owner != ctxN then .error (0x23, i0, b.owner) else .ok b

/-- Every 64 KiB unit of the range lies in a lease on the buffer (R72). -/
def leased (grants : List (Nat × Nat × Nat)) (buf off n : Nat) : Bool :=
  n = 0 || (List.range ((off + n - 1) / 65536 - off / 65536 + 1)).all fun i =>
    grants.any fun g => g.1 == buf && decide (g.2.1 ≤ off / 65536 + i) && decide (off / 65536 + i < g.2.2)

/-- Steps 6 to 9 for the page of one byte. -/
def State.checkPage (s : State) (x : Context) (d : DieId) (b : Buffer) (i0 va : Nat) (mask : Nat) :
    Except (Nat × Nat × Nat) Leaf :=
  match s.walk x va with
  | .error (r, lvl, e) => .error (0x25, i0, r + lvl * 16 + e / 16 % 2 ^ 48 * 2 ^ 16)
  | .ok l =>
    if !s.ringPath d (Config.homeDie l.head) then .error (0x40, i0, (Config.homeDie l.head).val * 256)
    else if !bitAt l.mask mask then .error (0x26, i0, mask + l.mask * 256)
    else if l.world && !x.world then .error (0x27, i0, fld l.bits 0 64)
    else if l.keyid != b.keyid || ((s.keys[l.keyid]?).bind id).isNone || (l.keyid = 0 && !l.world) then
      .error (0x28, i0, l.keyid + b.keyid * 256 + b2n ((s.keys[l.keyid]?).bind id).isNone * 2 ^ 15)
    else
      let l := { l with ilv := b.ilv }
      match s.linkFail d (l.keyOf va) with
      | some i1 => .error (0x40, i0, i1)
      | none => .ok l

/-- The keys of `n` bytes from virtual address `va`, translated page by page; a page in motion makes the request wait, if
`still`. -/
def State.translate (s : State) (x : Context) (d : DieId) (b : Buffer) (i0 mask : Nat) (still : Bool) :
    Nat → Nat → Option Leaf → List Nat → List Leaf → Req
  | 0, _, _, ks, ls => .ok ks.reverse b.keyid b.integ ls
  | n + 1, va, cur, ks, ls =>
    match (cur.filter fun _ => va % 4096 != 0) with
    | some l => s.translate x d b i0 mask still n (va + 1) (some l) (l.keyOf va :: ks) ls
    | none =>
      match s.checkPage x d b i0 va mask with
      | .error (c, i, j) => .bad c i j
      | .ok l =>
        if l.mig && still then .wait
        else s.translate x d b i0 mask still n (va + 1) (some l) (l.keyOf va :: ks) (ls ++ [l])

/-- Every check of R380 for a task's request of `n` bytes at offset `off` of buffer `buf`; `speculative` requests
skip the lease. -/
def State.check (s : State) (d : DieId) (t : Task) (buf : Nat) (off : Int) (n : Nat) (a : Acts) (mask : Nat)
    (speculative : Bool) : Req :=
  match mget t.record.ctx s.contexts with
  | none => .bad 0x20 (reqInfo buf (codeN 44 off)) 0
  | some x =>
    match s.checkEntry x t.record.ctx buf off n (some (a, false)) with
    | .error (c, i, j) => .bad c i j
    | .ok b =>
      if !speculative && !leased t.grants buf off.toNat n then .bad 0x24 (reqInfo buf off.toNat) 0
      else s.translate x d b (reqInfo buf off.toNat) mask true n (b.vbase + off.toNat) none [] []

/-! ## What the device updates in a leaf (R67, R80, R92) -/

/-- The head entry with A set, D set by a write, and the requesting die's ACNT raised by `lines` when it is not the
frame's die, up to 63. Software that has cleared A has reset the counters (R80). -/
def markLeaf (d : DieId) (l : Leaf) (writes : Bool) (lines : Nat) (s : State) : State :=
  let w := rdNat s.mem (t1 l.head) 16
  let w := if bitAt w 23 then w else w - fld w 72 24 * 2 ^ 72 + 2 ^ 23
  let w := if !writes || bitAt w 24 then w else w + 2 ^ 24
  let at' := 72 + 6 * d.val
  let n := fld w at' 6
  let w := if frameDie (l.keyOf 0) = some d then w else w + (Nat.min 63 (n + lines) - n) * 2 ^ at'
  { s with mem := wrNat s.mem (t1 l.head) 16 w }

/-- The lease count of a head entry changed by `f` (R71). -/
def setLcnt (head : Nat) (f : Nat → Nat) (s : State) : State :=
  let w := rdNat s.mem (t1 head) 16
  let n := fld w 28 4 * 256 + fld w 96 8
  let m := f n
  let w := w - fld w 28 4 * 2 ^ 28 - fld w 96 8 * 2 ^ 96 + m / 256 % 16 * 2 ^ 28 + m % 256 * 2 ^ 96
  { s with mem := wrNat s.mem (t1 head) 16 w }

end Sys2Proof.Machine
end

