-- ==== Sys2Proof/Machine/Cache.lean ====
section
/-! DEFINITION. The levels of the memory hierarchy: the copies that each holds with their tags and poison (R88, R91, R95,
R389), what a read meets on its way (R80, R388, R391), eviction, publication and acquire (R94 to R102), and the phase
buffer (R42, R93, R110). -/

namespace Sys2Proof.Machine

/-! ## Copies of lines -/

/-- Cells of one line. -/
def lineCells (l : Nat) (m : Cells) : Cells := m.filter fun c => c.1 / 64 == l

/-- The lines of the copies; a line of which some byte is held; a line of which all bytes are held. -/
def Copies.lines (m : Copies) : List Nat := linesOf (m.cells.map (·.1))
def Copies.holds (m : Copies) (l : Nat) : Bool := m.cells.any fun x => x.1 / 64 == l
def Copies.whole (m : Copies) (l : Nat) : Bool := (lineCells l m.cells).length == 64

/-- The copies without the lines that `p` names, by their lines under their tags. -/
def Copies.dropLines (p : Nat → Bool) (m : Copies) : Copies :=
  ⟨m.cells.filter fun x => !p (x.1 / 64), m.bad.filter (!p ·)⟩

/-- The bytes that `p` names by their keys without tags; a line's poison goes with every part of it. -/
def Copies.take (p : Nat → Bool) (m : Copies) : Copies :=
  let cs := m.cells.filter fun x => p (bare x.1)
  ⟨cs, m.bad.filter fun l => cs.any fun x => x.1 / 64 == l⟩

/-- `n` laid over `m`: a whole line carries its own poison, and a part leaves a poisoned line poisoned (R389). -/
def Copies.atop (n m : Copies) : Copies :=
  ⟨overCells n.cells m.cells, n.bad ++ m.bad.filter fun l => !n.whole l && !n.bad.contains l⟩

/-- The bytes that `m` holds take their values from `cs`. -/
def fixCells (cs m : Cells) : Cells := cs.foldl (fun m c => if (mget c.1 m).isSome then mput c.1 c.2 m else m) m

/-- The bytes that `m` holds take their values from `n`, and their lines its poison. -/
def Copies.fix (n m : Copies) : Copies :=
  ⟨fixCells n.cells m.cells, n.bad.filter m.holds ++ m.bad.filter fun l => !n.whole l && !n.bad.contains l⟩

/-- A copy of a whole line. -/
def lineCopy (l : Nat) (at' : Nat → Byte) (bad : Bool) : Copies :=
  ⟨(keysFrom (64 * l) 64).map fun k => (k, at' k), if bad then [l] else []⟩

/-- The newest copy of a byte among levels, the nearest first. -/
def levelByte (ms : List Copies) (k : Nat) : Option Byte := ms.findSome? fun m => mget k m.cells

/-- A read of a line through levels meets poison: in a copy on the way down to one that holds the whole line, or at
the home (R389). -/
def levelBad (l : Nat) (home : Bool) : List Copies → Bool
  | [] => home
  | m :: t => m.bad.contains l || (!m.whole l && levelBad l home t)

/-! ## The levels (R95, R102) -/

def State.cluster (s : State) (c : CoreId) : Cluster := s.clusters.get (clusterOf c)
def State.onCluster (s : State) (c : CoreId) (f : Cluster → Cluster) : State :=
  { s with clusters := s.clusters.set (clusterOf c).val (f (s.cluster c)) (clusterOf c).isLt }

/-- The context of the task that a core runs, 0 where none runs. -/
def State.ctxOn (s : State) (c : CoreId) : Nat := ((s.taskOn c).map (·.record.ctx)).getD 0

/-- T2 and T3 lines are copied in the issuing die's memory-side cache (R88). -/
def isFar (k : Nat) : Bool := decide (2 ≤ keyTier k)

/-- What HBM holds of a line that lies dirty in the memory-side cache under another tag than the request's (R91). -/
def State.hidden (s : State) (l : Nat) : Option Behind := (mget (bareLine l) s.behind).filter fun x => x.tag != tagOf l

/-- A byte read at its home, under its tag: of a line whose poison a whole-line write clears in this cycle, as it was
before (R400). -/
def State.homeByte (s : State) (k : Nat) : Byte :=
  match s.hidden (k / 64) with
  | some x => x.bytes.getD (k % 64) 0
  | none =>
    match mget (bareLine (k / 64)) s.mended with
    | some bs => bs.getD (k % 64) 0
    | none => rdByte s.mem (bare k)

/-- A line reads at its home as poisoned (R389, R400). -/
def State.isPoisoned (s : State) (l : Nat) : Bool :=
  match s.hidden l with
  | some x => x.bad
  | none => s.poisoned.contains (bareLine l) || (mget (bareLine l) s.mended).isSome

/-- The copies beyond a core's cluster cache, and beyond its cache region. -/
def State.sideLevels (s : State) (c : CoreId) (k : Nat) : List Copies :=
  if isFar k then [(s.die (dieOf c)).dirty, (s.die (dieOf c)).clean] else []
def State.outerLevels (s : State) (c : CoreId) (k : Nat) : List Copies :=
  (s.cluster c).dirty :: (s.cluster c).clean :: s.sideLevels c k

/-- The byte beyond a core's cluster cache, and beyond its cache region, on the path of R102. -/
def State.sideByte (s : State) (c : CoreId) (k : Nat) : Byte := (levelByte (s.sideLevels c k) k).getD (s.homeByte k)
def State.outerByte (s : State) (c : CoreId) (k : Nat) : Byte := (levelByte (s.outerLevels c k) k).getD (s.homeByte k)

/-- The byte that a core fetches on a miss: the published one, but the snapshot value where a member of its task's
domain has published the byte by arriving in a phase whose flip has not been (R97, R100). -/
def State.missByte (s : State) (c : CoreId) (k : Nat) : Byte :=
  let v := s.outerByte c k
  match s.snaps.find? fun e => (s.core c).task == some e.task && e.key == k && e.new == v with
  | some e => e.old
  | none => v

/-- The copies that a task on a core reads through, its own latest stores first (R97): its phase buffer, the last
epoch first, what it has published since it last acquired, the core's published lines, the view. -/
def Task.levels (t : Task) : List Copies := t.epochs.reverse.map fun e => ⟨e.cells, e.poison⟩
def State.ownLevels (s : State) (c : CoreId) (t : Task) : List Copies :=
  t.levels ++ [(s.core c).own, (s.core c).dirty, (s.core c).view]

/-- The newest byte of a phase buffer: the last epoch first (R97, R110). -/
def bufferByte (es : List Epoch) (k : Nat) : Option Byte := es.reverse.findSome? fun e => mget k e.cells

/-- The byte that a task on a core reads (R97). -/
def State.seenByte (s : State) (c : CoreId) (t : Task) (k : Nat) : Byte :=
  match bufferByte t.epochs k with
  | some v => v
  | none =>
    (levelByte [(s.core c).own, (s.core c).dirty, (s.core c).view] k).getD (s.missByte c k)

/-- A line that a task on a core reads carries poison in one of the copies that it reads (R389). -/
def State.seenBad (s : State) (c : CoreId) (t : Task) (l : Nat) : Bool :=
  levelBad l (s.isPoisoned l) (s.ownLevels c t ++ s.outerLevels c (64 * l))

/-- The line as it stands at its point of coherence once the published lines on a core's path and the task's own bytes
have been written there carries poison (R104, R390). -/
def State.homeBad (s : State) (c : CoreId) (t : Task) (l : Nat) : Bool :=
  levelBad l (s.isPoisoned l) (t.levels ++ [(s.core c).dirty, (s.cluster c).dirty]
    ++ (if isFar (64 * l) then [(s.die (dieOf c)).dirty] else []))

/-! ## What a read of memory meets (R388, R391) -/

/-- A line that fails at its home is marked poisoned and reported, with the context and the virtual address where they are
known and its tag, by the HBM controller or the T0 slice; a corrected error is counted (R388, R391, R399). Data that return from
the pool or another package with poison poison the line alone (R418, R419). -/
def meetLineOf (d : DieId) (ctx va line : Nat) (s : State) : State :=
  let b := bareLine line
  match s.failure b with
  | none => s
  | some kind =>
    let s := { s with failing := mdel b s.failing, checks := mdel b s.checks }
    if kind = 0 then ringCount d 18 6 1 s
    else
      let s := { s with poisoned := if s.poisoned.contains b then s.poisoned else b :: s.poisoned }
      if kind = 3 then s else
      let tier := keyTier (b * 64)
      memEntry d (if kind = 1 then 2 else 3) tier (if tier = 0 then 2 else 0) ctx (tagOf line % 128)
        (bitAt (tagOf line) 7) 1 (b * 64 % 2 ^ 52) va 0 s

/-- A line is read for no task (R388). -/
def meetLine (d : DieId) (line : Nat) (s : State) : State := meetLineOf d 0 0 line s

/-- A T1 or T2 line that was written under another key than the one it is read under fails its check (R91, R396): `kid`
is the key ID of the request, none where the device reads the line for itself. -/
def staleLine (kid : Option Nat) (line : Nat) (s : State) : State :=
  let b := bareLine line
  match mget b s.lineKeys with
  | some (own, key) =>
    let kid := kid.getD own
    if keyTier (b * 64) != 0 && s.keyOf kid != key && key != 0 && !(s.failure b).isSome then
      { s with failing := mput b 2 s.failing, lineKeys := mput b (kid, s.keyOf kid) s.lineKeys }
    else s
  | none => s

/-- A line is read at its home under its tag: from the memory-side cache that holds it dirty, or from its memory, where it
may fail (R91, R388, R396). -/
def reachHome (d : DieId) (ctx va line : Nat) (s : State) : State :=
  if (mget (bareLine line) s.behind).any fun x => x.tag == tagOf line then s
  else meetLineOf d ctx va line (staleLine (some (tagOf line % 128)) line s)

/-- A line that lies dirty in a memory-side cache is written to its memory, under the key of its tag (R91, R101). -/
def writeBack (line : Nat) (s : State) : State :=
  let b := bareLine line
  match mget b s.behind with
  | none => s
  | some x =>
    { s with behind := mdel b s.behind, failing := mdel b s.failing, checks := mdel b s.checks
             lineKeys := mput b (x.tag % 128, s.keyOf (x.tag % 128)) s.lineKeys }

/-- Some lines are read for the device itself, under a tag: one that fails is poisoned and reported with the virtual address
that `va` gives it (R91, R388, R399). -/
def meetRange (d : DieId) (ctx tag : Nat) (va : Nat → Nat) (mine : Nat → Bool) (s : State) : State :=
  let s := ((s.lineKeys.filter fun e => mine (64 * e.1)).map (·.1)).foldl (fun s l => staleLine (some (tag % 128)) l s) s
  ((s.failing.map (·.1) ++ s.checks.map (·.1)).filter fun l => mine (64 * l)).foldl
    (fun s l => meetLineOf d ctx (va l) (taggedLine tag l) s) s

/-! ## Publication (R94, R101, R102) -/

/-- Bytes at some keys have been written: a WAITING slot that watches them sees whether its condition holds now, with
`at'` the value of 8 bytes at a key (R297). -/
def noteWrites (ks : List Nat) (at' : Nat → Nat) (s : State) : State :=
  if s.watches.isEmpty then s
  else
    { s with watches := s.watches.map fun (w : Watch) =>
        if ks.any (fun k => decide (w.key ≤ k) && decide (k < w.key + 8)) && waitHolds w.opc (at' w.key) w.value then
          { w with met := true }
        else w }

/-- The memory-side cache allocates no copy of a line of T1 at its home, or of a far line at the issuing die, and the
cluster cache none of any line, as the page and the handle of its latest write say (R395). -/
def State.noSide (s : State) (l : Nat) : Bool := bitAt ((mget l s.policy).getD 0) 1
def State.noCluster (s : State) (l : Nat) : Bool := bitAt ((mget l s.policy).getD 0) 0

/-- The bytes of one line reach its home. A T1 line that its page lets the memory-side cache hold lies dirty there, and any
other goes on to its memory under its key (R91, R102, R395). A whole line has its own poison and a new check value; a part
merges with the line as it is read (R90, R389, R400). -/
def writeLine (ctx : Nat) (n : Copies) (s : State) (l : Nat) : State :=
  let b := bareLine l
  let cs := lineCells l n.cells
  let whole := cs.length == 64
  let s := if ((mget b s.behind).map (·.tag)).getD (tagOf l) == tagOf l then s else writeBack b s
  let s := if whole then s else reachHome ((frameDie (64 * b)).getD 0) ctx 0 l s
  let bad := n.bad.contains l || (!whole && s.poisoned.contains b)
  let old := rdBytes s.mem (64 * b) 64
  let was := s.poisoned.contains b
  let s :=
    if keyTier (64 * b) == 1 && !s.noSide l then
      if (mget b s.behind).isSome then s else { s with behind := mput b ⟨tagOf l, old, was⟩ s.behind }
    else
      { s with behind := mdel b s.behind, failing := mdel b s.failing, checks := mdel b s.checks
               lineKeys := mput b (tagOf l % 128, s.keyOf (tagOf l % 128)) s.lineKeys }
  { s with mem := wrCells s.mem (cs.map fun x => (bare x.1, x.2))
           poisoned := if bad == was then s.poisoned else if bad then b :: s.poisoned else s.poisoned.filter (· != b)
           mended := if was && !bad then mput b old s.mended else s.mended }

/-- Bytes of context `ctx` reach the home level. -/
def writeHome (ctx : Nat) (n : Copies) (s : State) : State :=
  let s := n.lines.foldl (writeLine ctx n) s
  noteWrites (n.cells.map fun x => bare x.1) (fun k => rdNat s.mem k 8) s

/-- Copies of the written bytes that stand on the writer's path take the new value (R98, R104). -/
def freshen (c : CoreId) (n : Copies) (s : State) : State :=
  let s := s.onCore c fun k => { k with view := n.fix k.view, own := n.fix k.own }
  let s := s.onCluster c fun u => { u with clean := n.fix u.clean }
  s.onDie (dieOf c) fun d => { d with clean := n.fix d.clean }

/-- Bytes leave a die's memory-side cache, or pass it, for their homes. -/
def leaveDie (d : DieId) (ctx : Nat) (n : Copies) (s : State) : State :=
  writeHome ctx n (s.onDie d fun x => { x with clean := n.fix x.clean })

/-- The lines of the copies that `p` names, under their tags. -/
def Copies.only (p : Nat → Bool) (m : Copies) : Copies := m.dropLines (!p ·)

/-- Bytes leave the cluster cache of a core, or pass it, for the level of a scope of die or wider; a copy there takes
their value, so that no later read through it goes back (R98, R102, R395). -/
def leaveCluster (c : CoreId) (ctx scope : Nat) (n : Copies) (s : State) : State :=
  let s := s.onCluster c fun u => { u with clean := n.fix u.clean }
  if scope = 2 then
    let stays (l : Nat) : Bool := isFar (64 * l) && !s.noSide l
    let s := leaveDie (dieOf c) ctx (n.dropLines stays) s
    s.onDie (dieOf c) fun d => { d with dirty := (n.only stays).atop d.dirty }
  else leaveDie (dieOf c) ctx n s

/-- Bytes leave a core's cache region, or pass it, for the level of a scope of cluster or wider (R102, R395). -/
def leaveCore (c : CoreId) (ctx scope : Nat) (n : Copies) (s : State) : State :=
  let s := s.onCore c fun k => { k with view := n.fix k.view }
  if scope = 1 then
    let s := leaveCluster c ctx 2 (n.only s.noCluster) s
    s.onCluster c fun u => { u with dirty := (n.dropLines s.noCluster).atop u.dirty }
  else leaveCluster c ctx scope n s

/-- The published dirty lines on the issuer's path that are narrower than the scope go on to it, the outermost first,
since they were published first (R94, R102); `p` names their bytes. A package scope also takes the T2 and T3 lines that lie dirty in the
issuing die's memory-side cache, the model's reading of R102 (log 70). -/
def cumulate (c : CoreId) (scope : Nat) (p : Nat → Bool) (s : State) : State :=
  let ctx := s.ctxOn c
  let s := if 3 ≤ scope then
      leaveDie (dieOf c) ctx ((s.die (dieOf c)).dirty.take p)
        (s.onDie (dieOf c) fun d => { d with dirty := d.dirty.take (!p ·) })
    else s
  let s := if 2 ≤ scope then
      leaveCluster c ctx scope ((s.cluster c).dirty.take p)
        (s.onCluster c fun u => { u with dirty := u.dirty.take (!p ·) })
    else s
  if 1 ≤ scope then
    leaveCore c ctx scope ((s.core c).dirty.take p) (s.onCore c fun k => { k with dirty := k.dirty.take (!p ·) })
  else s

/-- Bytes are published at a scope from a core (R94, R102). What was published before them to narrower levels goes out
first, so that the coherence order of each byte is that of its publications; the snapshots of the bytes end, since a
publication by another act than a flip gives none (R101). -/
def publishCells (c : CoreId) (scope : Nat) (n : Copies) (s : State) : State :=
  if n.cells.isEmpty then s
  else
    let s := cumulate c scope (fun k => n.cells.any (bare ·.1 == k)) s
    let s := { s with snaps := s.snaps.filter fun e => !n.cells.any (·.1 == e.key) }
    if scope = 0 then s.onCore c fun k => { k with dirty := n.atop k.dirty }
    else leaveCore c (s.ctxOn c) scope n s

/-- An epoch without the bytes and the poison that `p` names. -/
def Epoch.without (p : Nat → Bool) (e : Epoch) : Epoch :=
  let n := (⟨e.cells, e.poison⟩ : Copies).take (!p ·)
  { e with cells := n.cells, poison := n.bad, engine := e.engine.filter fun x => !p (bare x.1) }

/-- The bytes of one epoch that `p` names are published at a scope, with the poison of their lines (R94, R110, R389); the
task that its core runs goes on reading them as its own (R97). -/
def publishEpoch (c : CoreId) (tid scope : Nat) (p : Nat → Bool) (s : State) (e : Epoch) : State :=
  let n := (⟨e.cells, e.poison⟩ : Copies).take p
  let s := publishCells c scope n s
  if (s.core c).task == some tid then s.onCore c fun k => { k with own := n.atop k.own } else s

/-- The bytes of a phase buffer that `p` names are published, epoch by epoch, each at the scope that `at'` gives it. -/
def publishWhere (c : CoreId) (tid : Nat) (at' : Epoch → Nat) (p : Nat → Bool) (s : State) : State :=
  match mget tid s.tasks with
  | none => s
  | some t =>
    let s := t.epochs.foldl (fun s e => publishEpoch c tid (at' e) p s e) s
    s.onTask tid fun t => { t with epochs := t.epochs.map (Epoch.without p) }

/-- A phase buffer is published: each epoch at the scope of the fence that closed it, in order, followed by the narrower dirty
lines, since that fence is a release; and the open epoch at the act's scope, with the dirty lines narrower than that (R102,
R110). -/
def publishTask (c : CoreId) (tid : Nat) (scope : Scope) (s : State) : State :=
  match mget tid s.tasks with
  | none => s
  | some t =>
    let s := t.epochs.foldl (fun s e =>
      match e.scope with
      | some sc => cumulate c sc.code (fun _ => true) (publishEpoch c tid sc.code (fun _ => true) s e)
      | none => publishEpoch c tid scope.code (fun _ => true) s e) s
    cumulate c scope.code (fun _ => true) (s.onTask tid fun t => { t with epochs := [] })

/-! ## Acquire (R96, R102) -/

/-- A line has a byte that `p` names. -/
def lineHas (p : Nat → Bool) (l : Nat) : Bool := (List.range 64).any fun i => p (64 * bareLine l + i)

/-- An acquire at a scope drops the clean copies of the lines in which `p` names a byte, and what the task has published of the
bytes that `p` names is no longer its own (R96, R97, R102). -/
def acquireAt (c : CoreId) (scope : Nat) (p : Nat → Bool) (s : State) : State :=
  let drop (m : Copies) : Copies := m.dropLines (lineHas p)
  let s := if 1 ≤ scope then s.onCore c fun k => { k with view := drop k.view, own := k.own.take (!p ·) } else s
  let s := if 2 ≤ scope then s.onCluster c fun u => { u with clean := drop u.clean } else s
  if 3 ≤ scope then s.onDie (dieOf c) fun d => { d with clean := drop d.clean } else s

/-- The first translation of a page after a move has rewritten it acts as an acquire (R81). -/
def acquireMoved (c : CoreId) (ls : List Leaf) (s : State) : State :=
  if ls.any fun l => s.moved.contains l.head then
    acquireAt c 3 (fun _ => true) { s with moved := s.moved.filter fun h => !ls.any (·.head == h) }
  else s

/-! ## Eviction (R95, R101) -/

/-- The copies of a line on a core's path that free values say have been evicted before an access are gone: in the
cache region, the cluster cache and the die's memory-side cache (R95; log 8). -/
def evictClean (c : CoreId) (line : Nat) (s : State) : State :=
  let drop (i : Nat) (m : Copies) : Copies :=
    if Config.evicts (s.free + i) (bareLine line) then m.dropLines (· == line) else m
  let n := s.free + 3
  let s := s.onCore c fun k => { k with view := drop 0 k.view }
  let s := s.onCluster c fun u => { u with clean := drop 1 u.clean }
  let s := s.onDie (dieOf c) fun d => { d with clean := drop 2 d.clean }
  { s with free := n }

/-- The published dirty lines among some, a free value for each, that free values pick now (R101; log 8). -/
def State.picked (s : State) (ls : List Nat) : List Nat :=
  (ls.zipIdx.filter fun l => Config.evicts (s.free + l.2) (bareLine l.1)).map (·.1)

/-- The free values that a choice among some dirty lines takes. -/
def State.spend (s : State) (ls : List Nat) : State := { s with free := s.free + ls.length }

/-- Published dirty lines of a core's cache region are evicted to its cluster cache (R101). -/
def evictCore (c : CoreId) (s : State) : State :=
  let m := (s.core c).dirty
  let ls := s.picked m.lines
  if ls.isEmpty then s.spend m.lines else
  let s := leaveCore c 0 1 (m.only ls.contains) (s.onCore c fun k => { k with dirty := m.dropLines ls.contains })
  s.spend m.lines

/-- Published dirty lines of the cluster cache of a core are evicted to the die level (R101). -/
def evictCluster (c : CoreId) (s : State) : State :=
  let m := (s.cluster c).dirty
  let ls := s.picked m.lines
  if ls.isEmpty then s.spend m.lines else
  let s := leaveCluster c 0 2 (m.only ls.contains) (s.onCluster c fun u => { u with dirty := m.dropLines ls.contains })
  s.spend m.lines

/-- Published dirty lines of a die's memory-side cache are evicted to their homes, T1 lines to their memory (R101). -/
def evictDie (d : DieId) (s : State) : State :=
  let m := (s.die d).dirty
  let ls := s.picked m.lines
  let s := if ls.isEmpty then s.spend m.lines else
    (leaveDie d 0 (m.only ls.contains) (s.onDie d fun x => { x with dirty := m.dropLines ls.contains })).spend m.lines
  let bs := (s.behind.map (·.1)).filter fun b => frameDie (64 * b) == some d
  ((s.picked bs).foldl (fun s b => writeBack b s) s).spend bs

/-! ## Errors of copies (R388, R391) -/

/-- An error of a line in a structure is met: it is counted or entered in the ring, and its kind is given, 0 where the data are
delivered. -/
def meetFlaw (sp : Spot) (src : Nat) (d : DieId) (ctx va l : Nat) (s : State) : Nat × State :=
  match s.flaws.find? fun f => f.spot == sp && f.line == l with
  | none => (0, s)
  | some f =>
    let s := { s with flaws := s.flaws.filter fun g => !(g.spot == sp && g.line == l) }
    if f.kind = 0 then (0, ringCount d 24 6 1 s)
    else if f.kind = 1 then
      (1, memEntry d 4 (keyTier (64 * l)) src ctx (tagOf l % 128) (bitAt (tagOf l) 7) 1 (64 * bareLine l % 2 ^ 52) va 0 s)
    else (f.kind, s)

/-- The UE or CHK entry of a failed copy (R388). -/
def failEntry (kind src : Nat) (d : DieId) (ctx va l : Nat) (s : State) : State :=
  memEntry d (if kind = 1 then 2 else 3) (keyTier (64 * l)) src ctx (tagOf l % 128) (bitAt (tagOf l) 7) 1
    (64 * bareLine l % 2 ^ 52) va 0 s

/-- A line of copies carries poison. -/
def Copies.spoil (l : Nat) (m : Copies) : Copies := if m.bad.contains l then m else { m with bad := l :: m.bad }

/-- A line that a task holds provisional has an uncorrectable error in its core's cache region: its read raises POOLSRAM (R382,
R391). -/
def State.sramLine (s : State) (c : CoreId) (t : Task) (l : Nat) : Bool :=
  !s.flaws.isEmpty && (s.flaws.find? fun f => f.spot == .region c && f.line == l).any (fun f => f.kind == 1)
    && t.epochs.any fun e => e.cells.any (·.1 / 64 == l)

/-- The first byte among some of a core's pool that an uncorrectable error keeps from being read (R391). -/
def State.poolFlaw (s : State) (c : CoreId) (ks : List Nat) : Option Nat :=
  if s.flaws.isEmpty then none
  else ks.find? fun a => s.flaws.any fun f => f.spot == .pool c && f.line == a / 64 && f.kind != 0

/-- A read of bytes of a core's pool meets the errors of their lines (R391). -/
def meetPool (c : CoreId) (ctx : Nat) (ks : List Nat) (s : State) : State :=
  if s.flaws.isEmpty then s else (linesOf ks).foldl (fun s l => (meetFlaw (.pool c) 4 (dieOf c) ctx 0 l s).2) s

/-- A read of a line by a task meets the error of its core's own copy. A provisional line is poisoned by a mismatch; a dirty one has failed and goes home with poison; a clean one is dropped. The kind is given where a clean
copy was dropped (R388, R391). -/
def meetRegion (c : CoreId) (tid : Nat) (t : Task) (va l : Nat) (s : State) : Nat × State :=
  let ctx := t.record.ctx
  if s.flaws.isEmpty then (0, s) else
  let r := meetFlaw (.region c) 4 (dieOf c) ctx va l s
  if r.1 = 0 then r
  else if t.epochs.any fun e => e.cells.any (·.1 / 64 == l) then
    if r.1 = 1 then (0, r.2)
    else
      (0, failEntry 2 4 (dieOf c) ctx va l (r.2.onTask tid fun t =>
        { t with epochs := t.epochs.map fun e =>
            if e.cells.any (·.1 / 64 == l) then { e with poison := l :: e.poison } else e }))
  else if (s.core c).dirty.holds l then
    (0, failEntry r.1 4 (dieOf c) ctx va l (leaveCore c ctx 3 (((s.core c).dirty.only (· == l)).spoil l)
      (r.2.onCore c fun k => { k with dirty := k.dirty.dropLines (· == l) })))
  else (r.1, r.2.onCore c fun k => { k with view := k.view.dropLines (· == l) })

/-- The same of the cluster cache's copy; `first` is the kind of the error for which a nearer clean copy was dropped: a second
mismatch makes the line fail at its home (R388). -/
def meetCluster (c : CoreId) (first ctx va l : Nat) (s : State) : Nat × State :=
  if s.flaws.isEmpty then (first, s) else
  let r := meetFlaw (.cluster (clusterOf c)) 3 (dieOf c) ctx va l s
  if r.1 = 0 then (first, r.2)
  else if (s.cluster c).dirty.holds l then
    (0, failEntry r.1 3 (dieOf c) ctx va l (leaveCluster c ctx 3 (((s.cluster c).dirty.only (· == l)).spoil l)
      (r.2.onCluster c fun u => { u with dirty := u.dirty.dropLines (· == l) })))
  else
    let s := r.2.onCluster c fun u => { u with clean := u.clean.dropLines (· == l) }
    (r.1, if first = 2 && r.1 = 2 then
        failEntry 2 3 (dieOf c) ctx va l { s with poisoned := bareLine l :: s.poisoned.filter (· != bareLine l) }
      else s)

/-- The same of the memory-side cache's copy: of the issuing die for a far line, of the frame's die for a T1 line that lies
dirty there. -/
def meetSide (c : CoreId) (first ctx va l : Nat) (s : State) : State :=
  if s.flaws.isEmpty then s else
  let d := if isFar (64 * l) then dieOf c else (frameDie (64 * l)).getD (dieOf c)
  let r := meetFlaw (.side d) 1 d ctx va l s
  let home (s : State) : State := { s with poisoned := bareLine l :: s.poisoned.filter (· != bareLine l) }
  if r.1 = 0 then r.2
  else if (mget (bareLine l) s.behind).isSome then failEntry r.1 1 d ctx va l (writeBack l (home r.2))
  else if (s.die d).dirty.holds l then
    failEntry r.1 1 d ctx va l (leaveDie d ctx (((s.die d).dirty.only (· == l)).spoil l)
      (r.2.onDie d fun x => { x with dirty := x.dirty.dropLines (· == l) }))
  else
    let s := r.2.onDie d fun x => { x with clean := x.clean.dropLines (· == l) }
    if first = 2 && r.1 = 2 then failEntry 2 1 d ctx va l (home s) else s

/-- A task's read of a line meets the errors of the copies that it reads, the nearest first; what lies beyond a copy that
delivers its data is not read. -/
def meetCopies (c : CoreId) (tid : Nat) (t : Task) (va l : Nat) (s : State) : State :=
  if s.flaws.isEmpty then s else
  let r := meetRegion c tid t va l s
  let k := r.2.core c
  if k.view.holds l || k.dirty.whole l || k.own.whole l then r.2
  else
    let q := meetCluster c r.1 t.record.ctx va l r.2
    if (q.2.cluster c).clean.holds l || (q.2.cluster c).dirty.whole l then q.2
    else meetSide c q.1 t.record.ctx va l q.2

/-! ## Reads by tasks (R80, R95, R97) -/

/-- A read of a line by a core reaches the memory of its page (R80). -/
def State.fetches (s : State) (c : CoreId) (l : Nat) : Bool :=
  !(s.core c).view.holds l && !(s.cluster c).clean.holds l && !(s.cluster c).dirty.whole l
    && (!isFar (64 * l) || !(s.die (dieOf c)).clean.holds l && !(s.die (dieOf c)).dirty.whole l)

/-- A core's view holds the line: a line that is not held is fetched from the published copies, and each level on its way that
R395 lets allocate it and that lacks it takes a copy from the next level out (R91, R95, R97, R99, R100). DESIGN CHOICE
(log 10): the core's cache region takes a copy whatever CA and HINT say, since R395 has no column for it. -/
def fillLine (c : CoreId) (ctx hint : Nat) (lf : Leaf) (line : Nat) (s : State) : State :=
  let l := taggedLine lf.tag line
  if (s.core c).view.holds l then s
  else
    let s := if s.fetches c l then reachHome (dieOf c) ctx (lf.vaOf line) l s else s
    let a := lf.allocates hint
    let s := if isFar (64 * l) && a.2 && !(s.die (dieOf c)).clean.holds l then
        s.onDie (dieOf c) fun d => { d with clean := (lineCopy l s.homeByte (s.isPoisoned l)).atop d.clean }
      else s
    let s := if a.1 && !(s.cluster c).clean.holds l then
        s.onCluster c fun u =>
          { u with clean := (lineCopy l (s.sideByte c) (levelBad l (s.isPoisoned l) (s.sideLevels c (64 * l)))).atop u.clean }
      else s
    s.onCore c fun k =>
      { k with view := (lineCopy l (s.missByte c) (levelBad l (s.isPoisoned l) (s.outerLevels c (64 * l)))).atop k.view }

/-- The byte of the doorbell aperture: the stored value, zero beyond the queues (R290, R349). -/
def State.bellByte (s : State) (k : Nat) : Byte :=
  let o := fld k 0 36
  BitVec.ofNat 8 (((mget (o / 8) s.bells).map (·.1)).getD 0 / 2 ^ (8 * (o % 8)))

/-- Some bytes at a virtual address lie in a lease of a task (R72). -/
def State.leasedVa (s : State) (t : Task) (va n : Nat) : Bool :=
  match mget t.record.ctx s.contexts with
  | none => false
  | some x => t.grants.any fun g =>
    let b := s.buffer x g.1
    decide (b.vbase + 65536 * g.2.1 ≤ va) && decide (va + n ≤ b.vbase + Nat.min (65536 * g.2.2) b.len)

/-- The cache region's prefetch of the line after one that a task has read, where a free value asks for it: within the page and the
task's leases, and dropped where the line fails its check (R393; log 10). -/
def prefetchNext (c : CoreId) (t : Task) (hint : Nat) (ls : List Leaf) (line : Nat) (s : State) : State :=
  match ls.find? fun lf => lf.covers (64 * line) with
  | none => s
  | some lf =>
    let va := lf.vaOf line + 64
    let l := lf.keyOf va / 64
    let asked := Config.prefetches s.free
    let s := s.tick
    if !asked || va % lf.size = 0 || isAperture (64 * l) || !s.leasedVa t va 64 then s
    else if ((s.failure l).map (· != 0)).getD false then ringCount (dieOf c) 12 6 1 s
    else fillLine c t.record.ctx hint lf l (if s.fetches c (tagLine ls l) then markLeaf (dieOf c) lf false 1 s else s)

/-- A task's read of memory bytes in the pages `ls` through a handle with a HINT: the lines are brought into the view, and
the bytes and their poison returned; A is set, and ACNT counts the lines that reach the pages' memory (R67, R80). -/
def readMem (c : CoreId) (tid : Nat) (t : Task) (hint : Nat) (ls : List Leaf) (ks : List Nat) (s : State) :
    List Byte × Bool × State :=
  let lines := linesOf (ks.filter (!isAperture ·))
  let s := acquireMoved c ls s
  let s := lines.foldl (fun s l =>
    meetCopies c tid t ((leafOf ls l).vaOf l) (tagLine ls l) (evictClean c (tagLine ls l) s)) s
  let s1 := ls.foldl (fun s1 l =>
    markLeaf (dieOf c) l false (lines.filter fun i => l.covers (64 * i) && s.fetches c (tagLine ls i)).length s1) s
  let s := lines.foldl (fun s l => fillLine c t.record.ctx hint (leafOf ls l) l s) s1
  let t := (mget tid s.tasks).getD t
  (ks.map fun k => if isAperture k then s.bellByte k else s.seenByte c t (tagKey ls k),
    lines.any fun l => s.seenBad c t (tagLine ls l),
    match lines.getLast? with
    | some l => prefetchNext c t hint ls l s
    | none => s)

/-! ## The phase buffer (R42, R93, R110) -/

/-- The distinct lines that a task holds provisional, with those of its held REDADDs: the footprint of R44. -/
def Task.footLines (t : Task) : List Nat :=
  linesOf ((t.epochs.flatMap fun e => e.cells.map (·.1)) ++ t.held.flatMap fun
    | .redadd ks _ _ _ _ _ _ _ _ => ks
    | _ => [])

/-- Bytes enter the open epoch of a task's phase buffer (R93), with the lines `ps` of them poisoned; a whole line
written clean clears its poison (R389). -/
def Task.storeP (t : Task) (cs : Cells) (ps : List Nat) : Task :=
  let whole := (linesOf (cs.map (·.1))).filter fun l => (lineCells l (overCells cs [])).length == 64
  let lay (e : Epoch) : Epoch :=
    { e with cells := overCells cs e.cells, poison := ps ++ e.poison.filter fun l => !whole.contains l }
  match t.epochs.getLast? with
  | some e =>
    if e.scope.isNone then { t with epochs := t.epochs.dropLast ++ [lay e] }
    else { t with epochs := t.epochs ++ [lay ⟨none, [], [], []⟩] }
  | none => { t with epochs := [lay ⟨none, [], [], []⟩] }

/-- Bytes that an ST-engine command writes (R93). -/
def Task.storeEngine (t : Task) (cs : Cells) (ps : List Nat) : Task :=
  let t := t.storeP cs ps
  match t.epochs.getLast? with
  | none => t
  | some e => { t with epochs := t.epochs.dropLast ++ [{ e with engine := overCells cs e.engine }] }

/-- Bytes without poison enter the open epoch. -/
def Task.store (t : Task) (cs : Cells) : Task := t.storeP cs []

/-- The line requests of a write of bytes under their tags: those of its lines that the task does not hold provisional already
(log 73). -/
def Task.newLines (t : Task) (ks : List Nat) : List Nat :=
  (linesOf ks).filter fun l => !t.epochs.any fun e => e.cells.any fun x => x.1 / 64 == l

/-- The cache policy of a line that is written in the pages `ls` through a handle with a HINT (R395). -/
def setPolicy (hint : Nat) (ls : List Leaf) (s : State) (line : Nat) : State :=
  let a := (leafOf ls line).allocates hint
  let n := b2n (!a.1) + 2 * b2n (!a.2)
  { s with policy := if n = 0 then mdel (tagLine ls line) s.policy else mput (tagLine ls line) n s.policy }

/-- The pages of a task's write of bytes through a handle with a HINT: the first translation after a move acquires (R81), A and
D are set, ACNT counts the write's line requests (R67, R80), and the lines take their cache policy (R395). -/
def markWrite (c : CoreId) (hint : Nat) (ls : List Leaf) (lines : List Nat) (s : State) : State :=
  let s := lines.foldl (setPolicy hint ls) (acquireMoved c ls s)
  ls.foldl (fun s l => markLeaf (dieOf c) l true (lines.filter fun i => l.covers (64 * i)).length s) s

/-- The line carries poison in a task's phase buffer. -/
def Task.linePoison (t : Task) (l : Nat) : Bool := t.epochs.any fun e => e.poison.contains l

/-- FENCE.rel and FLUSH in an unpinned task close an epoch (R110). -/
def Task.closeEpoch (t : Task) (scope : Scope) : Task :=
  match t.epochs.getLast? with
  | some e => if e.scope.isNone then { t with epochs := t.epochs.dropLast ++ [{ e with scope := some scope }] } else t
  | none => t

end Sys2Proof.Machine
end

