-- ==== Sys2Proof/Machine/Barrier.lean ====
section
/-! DEFINITION. Barrier objects (R112 to R116, R378) and atomics at the point of coherence (R104). -/

namespace Sys2Proof.Machine

/-- The page of a barrier object in memory, by the context's Chart. -/
def State.barLeaf (s : State) (r : BarRef) : Option Leaf :=
  match mget r.ctx s.contexts with
  | none => none
  | some x => (s.walk x r.addr).toOption

/-- The first key of a barrier object in memory. -/
def State.barKey (s : State) (r : BarRef) : Option Nat := (s.barLeaf r).map (·.keyOf r.addr)

/-- The keys of an object in memory under the tag of its page (R91). -/
def State.barKeys (s : State) (r : BarRef) : List Nat :=
  match s.barLeaf r with
  | some l => keysFrom (tagged l.tag (l.keyOf r.addr)) 16
  | none => []

/-- What tells barrier objects apart in `State.counted`: the key of a memory object, or core and offset. -/
def State.barId (s : State) (r : BarRef) : Nat :=
  if r.spad then 2 ^ 64 + r.core.val * 2 ^ 32 + r.addr else (s.barKey r).getD 0

/-- The 128 bits of an object (R112). -/
def State.barRead (s : State) (r : BarRef) : Nat :=
  if r.spad then (s.core r.core).spadRd r.addr 16
  else match s.barKey r with
    | some k => rdNat s.mem k 16
    | none => 0

/-- An object written by core `c` at its point of coherence; copies on the core's path take the new value (R104, R112). The doorbell
aperture takes no such write (R404). -/
def barWrite (c : CoreId) (r : BarRef) (w : Nat) (s : State) : State :=
  if r.spad then s.onCore r.core fun k => k.spadWr r.addr 16 w
  else
    match s.barKeys r with
    | [] => s
    | k :: ks =>
      if isAperture k then badBell (dieOf c) (fld k 0 36) 16 s
      else
        let n : Copies := ⟨(k :: ks).zip (leBytes 16 w), []⟩
        freshen c n (writeHome (s.ctxOn c) n s)

/-- The fields of an object (R112). -/
def barPend (w : Nat) : Int := sextN 24 (fld w 0 24)
def barArm (w : Nat) : Bool := bitAt w 24
def barPh (w : Nat) : Bool := bitAt w 25
def barTgt (w : Nat) : Nat := fld w 32 16
def barArr (w : Nat) : Nat := fld w 48 16
def barScp (w : Nat) : Nat := fld w 64 3
def barNwait (w : Nat) : Nat := fld w 72 16
def barPack (pend : Int) (arm ph : Bool) (tgt arr scp nwait : Nat) : Nat :=
  codeN 24 pend + b2n arm * 2 ^ 24 + b2n ph * 2 ^ 25 + tgt * 2 ^ 32 + arr * 2 ^ 48 + scp * 2 ^ 64 + nwait * 2 ^ 72

/-- A reserved bit of an object in memory that is set (R6, R112). DESIGN CHOICE (log 89): an object in the scratchpad is no
record in memory, and its reserved bits are not read. -/
def barSpare (r : BarRef) (w : Nat) : Option Nat := if r.spad then none else spareBit [(26, 6), (67, 5), (88, 40)] w

/-- The updates of R113. -/
inductive BarOp where
  | init (tgt scp : Nat)
  | expect (n : Nat)
  | complete (n : Nat)
  | arrive
deriving DecidableEq, Repr

/-- The object after an update and its flip check, and the fault it raises with its INFO1: BAROVER (0x0E) leaves
ARM 0 and PEND as updated, BARRANGE (0x0F) leaves the object as it was (R113, R378). -/
def barUpdate (w : Nat) : BarOp → Nat × Option (Nat × Nat)
  | .init t c => (barPack 0 false false t 0 c 0, none)
  | op =>
    let pend := match op with
      | .expect n => barPend w + n
      | .complete n => barPend w - n
      | _ => barPend w
    let arm := match op with
      | .expect _ => true
      | _ => barArm w
    let arr := match op with
      | .arrive => barArr w + 1
      | _ => barArr w
    let n := match op with
      | .expect n | .complete n => n
      | _ => 1
    let big := match op with
      | .expect n => decide (2 ^ 23 ≤ n)
      | _ => false
    if big || pend < -(2 ^ 23) || 2 ^ 23 ≤ pend || 65535 < arr then (w, some (0x0F, n))
    else if arm && pend < 0 && op != .arrive then
      (barPack pend false (barPh w) (barTgt w) arr (barScp w) (barNwait w), some (0x0E, codeN 64 pend))
    else if arm && pend == 0 && decide (barTgt w ≤ arr) then
      (barPack 0 false (!barPh w) (barTgt w) 0 (barScp w) (barNwait w), none)
    else (barPack pend arm (barPh w) (barTgt w) arr (barScp w) (barNwait w), none)

/-- A number as the update code that a held update keeps, and back. -/
def BarOp.code : BarOp → Nat × Nat
  | .init t c => (0, t + c * 65536)
  | .expect n => (1, n)
  | .complete n => (2, n)
  | .arrive => (3, 0)
def BarOp.ofCode : Nat → Nat → BarOp
  | 0, n => .init (n % 65536) (n / 65536)
  | 1, n => .expect n
  | 2, n => .complete n
  | _, _ => .arrive

/-! ## Atomics at home (R104) -/

/-- What an atomic does to the old value (R191): `v` is xd and `v2` x(d+1). -/
abbrev AtomFn := (w : Nat) → (old v v2 : Nat) → Nat

/-- Before an atomic on a line, the published dirty copies on the core's path and then the task's own bytes of it are
written to the point of coherence (R104). -/
def homeLine (c : CoreId) (tid line : Nat) (s : State) : State :=
  let p (k : Nat) : Bool := k / 64 == line
  publishWhere c tid (fun _ => 3) p (cumulate c 3 p s)

/-- The indivisible step of an atomic on the bytes at some keys under their tags: the value before, and the state after it; the
core's copies take the new value (R98, R104). The task reads no snapshot of the bytes again, and where they change no task
does (R101). -/
def atomicKeys (c : CoreId) (tid : Nat) (ks : List Nat) (f : Nat → Nat) (s : State) : Nat × State :=
  let s := (linesOf ks).foldl (fun s l => homeLine c tid (bareLine l) s) s
  let old := leNat (ks.map s.homeByte)
  let n : Copies := ⟨ks.zip (leBytes ks.length (f old)), []⟩
  let same := leNat (n.cells.map (·.2)) == old
  let s := writeHome (s.ctxOn c) n s
  (old, freshen c n { s with snaps := s.snaps.filter fun e => !(ks.contains e.key && (!same || e.task == tid)) })

/-- The indivisible step of an atomic of `n` bytes from a key under its tag (R104). -/
def atomicHome (c : CoreId) (tid key n : Nat) (f : Nat → Nat) (s : State) : Nat × State :=
  atomicKeys c tid (keysFrom key n) f s

/-! ## Updates performed (R112, R113, R116) -/

/-- The published dirty copies of an object's line on the core's path, and the bytes that a pinned task buffers of it, go
to the point of coherence before an update (R104, R112). -/
def homeBar (c : CoreId) (tid : Nat) (r : BarRef) (s : State) : State :=
  match s.barKey r with
  | none => s
  | some k =>
    if r.spad then s
    else if ((mget tid s.tasks).map (·.pinned)).getD false then homeLine c tid (k / 64) s
    else cumulate c 3 (fun j => j / 64 == k / 64) s

/-- The page of an object in memory is marked as an update or a read leaves it (R67, R80). -/
def markBar (c : CoreId) (r : BarRef) (writes : Bool) (s : State) : State :=
  match s.barLeaf r with
  | some l =>
    if r.spad then s
    else if writes then markWrite c 0 [l] [l.keyOf r.addr / 64] s
    else markLeaf (dieOf c) l false 1 (acquireMoved c [l] s)
  | none => s

/-- An update of task `tid` performed from core `c`, one update at a time at the object's point of coherence (R112). The new
state and the fault it raises, with INFO0 the object's address (R366) or, for a reserved bit that an update but BINIT
reads, the doubleword that holds it (R6). A flip moves the lines counted in the phase to those that a BWAIT acquires
(R116). -/
def barApply (c : CoreId) (tid : Nat) (r : BarRef) (op : BarOp) (lines : List Nat) (s : State) :
    State × Option (Nat × Nat × Nat) :=
  let s := homeBar c tid r s
  let w := s.barRead r
  match (match op with
    | .init _ _ => none
    | _ => barSpare r w) with
  | some b => (s, some (0x02, spareInfo w b))
  | none =>
    let u := barUpdate w op
    let id := s.barId r
    let s := markBar c r true (barWrite c r u.1 s)
    let old := ((s.counted.find? fun c => c.1 == id).map fun c => (c.2.1, c.2.2)).getD ([], [])
    let now := old.1 ++ lines
    let e := if barPh u.1 != barPh w then (id, [], now) else (id, now, old.2)
    ({ s with counted := e :: s.counted.filter fun c => c.1 != id }, u.2.map fun f => (f.1, r.addr, f.2))

end Sys2Proof.Machine
end

