-- ==== Sys2Proof/Machine/Image.lean ====
section
/-! DEFINITION. VXF images (R143 to R150), their checks (R367), partition words (R57, R368) and register images
(R149). -/

namespace Sys2Proof.Machine

/-- The first buffer-table entry that covers a virtual address (log 19). -/
def State.bufferAt (s : State) (x : Context) (va : Nat) : Option Nat :=
  (List.range x.btlen).find? fun i =>
    let b := s.buffer x i
    decide (b.vbase ≤ va) && decide (va < b.vbase + b.len)

/-- `n` bytes at a virtual address of a context, fetched by the loader through MASK bit 2 and, with `ex`, EX (R380): their keys,
the INTEG of the buffer and their pages, or the cause of the step that fails. Nobody writes a page while it moves (R81), so
that the bytes of a page in motion are those of its old frame; the loader waits for the move (`State.loadWait`). -/
def State.fetchKeys (s : State) (d : DieId) (ctx : Nat) (x : Context) (va n : Nat) (ex : Bool) :
    Except Nat (List Nat × Nat × List Leaf) :=
  match s.bufferAt x va with
  | none => .error 0x20
  | some i =>
    match s.checkEntry x ctx i (va - (s.buffer x i).vbase : Nat) n (some (.read, ex)) with
    | .error (c, _, _) => .error c
    | .ok b =>
      match s.translate x d b 0 2 false n va none [] [] with
      | .ok ks _ integ ls => .ok (ks.map (tagKey ls), integ, ls)
      | .wait => .error 0x25
      | .bad c _ _ => .error c

/-- `n` bytes at a virtual address of a context, fetched for an image. -/
def State.fetchBytes (s : State) (d : DieId) (ctx : Nat) (x : Context) (va n : Nat) : Except Nat (List Byte) :=
  match s.fetchKeys d ctx x va n true with
  | .error c => .error c
  | .ok (ks, _, _) => .ok (ks.map s.homeByte)

/-- The bytes of a section, and those of its first section of a type. -/
def Image.body (g : Image) (c : Section) : List Byte := (g.bytes.drop c.off).take c.size
def Image.find (g : Image) (ty : Nat) : Option (List Byte) := (g.sections.find? (·.type == ty)).map g.body

/-- The number of `n` bytes at byte `o` of a section, 0 where it is absent (R144). -/
def Image.num (g : Image) (ty o n : Nat) : Nat := (g.find ty).elim 0 fun bs => leNat ((bs.drop o).take n)

/-- The section types of R144 and the sizes they allow. -/
def sizeOk (c : Section) : Bool :=
  match c.type with
  | 0x01 => c.size % 4 == 0 && decide (4 ≤ c.size)
  | 0x02 | 0x03 | 0x04 => c.size % 12 == 0
  | 0x10 => c.size == 128
  | 0x11 => c.size == 8
  | 0x12 => c.size == 4
  | 0x13 => c.size == 16
  | 0x14 => c.size == 8
  | 0x15 => c.size == 64
  | 0x16 => c.size == 1616
  | 0x20 => decide (1 ≤ c.size) && decide (c.size ≤ 4194304)
  | _ => false

def typeOk (t : Nat) : Bool := [1, 2, 3, 4, 0x10, 0x11, 0x12, 0x13, 0x14, 0x15, 0x16, 0x20].contains t

/-- Two byte ranges share no byte. -/
def apart (a n b m : Nat) : Bool := decide (a + n ≤ b) || decide (b + m ≤ a) || n == 0 || m == 0

/-- Pairwise apart. -/
def allApart : List (Nat × Nat) → Bool
  | [] => true
  | p :: t => t.all (fun q => apart p.1 p.2 q.1 q.2) && allApart t

/-- A partition word meets R56 and R368. -/
def partOk (w : Nat) : Bool :=
  let a := fld w 0 7
  let b := fld w 8 7
  let c := fld w 16 7
  decide (a ≤ 4) && decide (a ≤ b) && decide (b ≤ c) && decide (c ≤ 63) && !bitAt w 7 && !bitAt w 15 && fld w 23 9 == 0

/-- The reserved bits of a handle (R60). -/
def handleSpare (w : Nat) : Bool := fld w 74 6 != 0 || fld w 227 29 != 0

/-- A SYNC entry against R146, given the ring's handle, where a register image gives one, and the scratchpad size (check 5).
DESIGN CHOICE (log 74): a reserved format code in a ring handle counts as elements of 8 bits. -/
def syncOk (w : Nat) (h : Option Nat) (spad : Nat) : Bool :=
  let used := bitAt w 12
  let bound := bitAt w 13
  let depth := fld w 24 6
  let hd := Handle.ofNat (h.getD 0)
  let width : Nat := ((fmtOf hd.fmt.toNat).map Fmt.width).getD 8
  let first : Int := ((hd.off.toNat * 8 : Nat) : Int) + hd.cur.toInt * width
  let s2 := hd.s2.toInt
  if !used then w == 0
  else if !bound then fld w 16 5 == 0 && depth == 0
  else decide (1 ≤ depth) && decide (fld w 0 6 ≤ depth) && fld w 8 2 != fld w 10 2
    && (h.isNone || hd.spc && decide (0 < s2) && decide (0 ≤ first)
      && decide (first + s2 * depth * width ≤ ((spad * 8 : Nat) : Int)))

/-- The checks of R367 in order: the number of the first that fails. Checks 5 and 6 take the record's partition
word, which R368 checks after check 4 (the number 0 stands for it). `rimg` is the register image, none for a task that
is restored, whose record names none: check 5 then leaves its rings' places aside (log 75). DESIGN CHOICE (log 74): a
non-zero DEST of a section that is not DATA fails check 8, and bytes from the last section up to SIZE are gap bytes. -/
def imageFault (g : Image) (part : Nat) (rimg : Option (List Byte)) : Option Nat :=
  let b := g.bytes
  let nsec := leNat ((b.drop 6).take 2)
  let diroff := leNat ((b.drop 8).take 4)
  let size := leNat ((b.drop 12).take 4)
  let spans := (0, 32) :: (diroff, 16 * nsec) :: g.sections.map fun c => (c.off, c.size)
  let spad := (fld part 8 7 - fld part 0 7) * 65536
  let h (i : Nat) : Option Nat := rimg.map fun bs => leNat ((bs.drop (512 + 32 * i)).take 32)
  let sync (q : Nat) : Nat := g.num 0x10 (8 * q) 8
  let rings := (List.range 16).filterMap fun q => if bitAt (sync q) 13 then some (fld (sync q) 16 5) else none
  let reg := g.find 0x16
  if leNat (b.take 4) != 0x31465856 || leNat ((b.drop 4).take 2) != 1 then some 1
  else if nsec < 1 || 64 < nsec || diroff % 16 != 0 || diroff < 32 || b.length < size || size < diroff + 16 * nsec then
    some 2
  else if g.sections.any (fun c => !typeOk c.type || c.off % 16 != 0 || decide (size < c.off + c.size))
      || g.sections.any (fun c => decide ((g.sections.filter (·.type == c.type)).length > (if c.type = 0x20 then 16 else 1)))
      || !allApart spans
      || (List.range size).any (fun i => !spans.any (fun p => decide (p.1 ≤ i) && decide (i < p.1 + p.2))
          && b.getD i 0 != 0) then some 3
  else if (g.find 1).isNone || (g.find 0x12).isNone || g.sections.any (!sizeOk ·) then some 4
  else if !partOk part then some 0
  else if (List.range 16).any (fun q => !syncOk (sync q) (h (fld (sync q) 16 5)) spad) || rings.eraseDups.length != rings.length
    then some 5
  else if g.sections.any (fun c => c.type == 0x20 && decide (spad < c.dest + c.size)) then some 6
  else if g.num 0x16 1604 4 != 0 then some 7
  else if leNat ((b.drop 16).take 16) != 0
      || g.sections.any (fun c => c.spare != 0 || (c.type != 0x20 && c.dest != 0))
      || (List.range 16).any (fun q => fld (sync q) 6 2 != 0 || fld (sync q) 14 2 != 0 || fld (sync q) 21 3 != 0
          || fld (sync q) 30 34 != 0)
      || fld (g.num 0x11 0 8) 4 60 != 0
      || bitAt (g.num 0x12 0 4) 7 || bitAt (g.num 0x12 0 4) 15 || fld (g.num 0x12 0 4) 23 9 != 0
      || fld (g.num 0x13 0 16) 7 1 != 0 || fld (g.num 0x13 0 16) 15 1 != 0 || fld (g.num 0x13 0 16) 40 24 != 0
      || fld (g.num 0x13 0 16) 112 16 != 0 || fld (g.num 0x14 0 8) 8 8 != 0
      || (List.range 8).any (fun i => g.num 0x15 (8 * i + 7) 1 != 0)
      || (reg.isSome && ((List.range 32).any (fun i => handleSpare (g.num 0x16 (512 + 32 * i) 32))
          || g.num 0x16 1602 2 != 0 || fld (g.num 0x16 1608 8) 4 4 != 0 || fld (g.num 0x16 1608 8) 48 16 != 0)) then some 8
  else none

/-- An image's bytes and directory, read from a context's memory. -/
def State.readImage (s : State) (d : DieId) (ctx : Nat) (va : Nat) : Except Nat Image :=
  match mget ctx s.contexts with
  | none => .error 0x20
  | some x =>
    match s.fetchBytes d ctx x va 32 with
    | .error c => .error c
    | .ok hd =>
      let size := Nat.max 32 (leNat ((hd.drop 12).take 4))
      let magic := leNat (hd.take 4) == 0x31465856
      match s.fetchBytes d ctx x va (if magic then size else 32) with
      | .error c => .error c
      | .ok b =>
        let nsec := Nat.min 64 (leNat ((b.drop 6).take 2))
        let dir := leNat ((b.drop 8).take 4)
        let sec (i : Nat) : Section :=
          let e := (b.drop (dir + 16 * i)).take 16
          ⟨leNat (e.take 2), leNat ((e.drop 4).take 4), leNat ((e.drop 8).take 4), leNat ((e.drop 12).take 4),
            leNat ((e.drop 2).take 2)⟩
        .ok ⟨b, (List.range nsec).map sec⟩

/-- The register image of a record: at RIMG, or the image's REGIMG section, or zeros (R144, R149). RIMG of a record with
RESUME = 1 names a saved run instead (R26). -/
def State.registerImage (s : State) (d : DieId) (r : TaskRec) (g : Image) : Except Nat (List Byte) :=
  if r.rimg != 0 && !r.resume then
    match mget r.ctx s.contexts with
    | none => .error 0x20
    | some x =>
      match s.fetchKeys d r.ctx x r.rimg 1616 false with
      | .error c => .error c
      | .ok (ks, _, _) => .ok (ks.map s.homeByte)
  else .ok ((g.find 0x16).getD (List.replicate 1616 0))

/-- The reserved fields of the state block of R87 up to its DMR, which a register image shares (R149): those of the
handles, bits 12831:12816, and those of the DMR (R36, R60). -/
def imageSpare : List (Nat × Nat) :=
  ((List.range 32).flatMap fun i => [(4096 + 256 * i + 74, 6), (4096 + 256 * i + 227, 29)])
    ++ [(12816, 16), (12864 + 4, 4), (12864 + 48, 16)]

/-- A register image that RIMG names breaks R6 or R149: the bit that a RESERVED fault names, the PART field being zero
there as in REGIMG (log 76). -/
def registerSpare (r : TaskRec) (reg : List Byte) : Option Nat :=
  if r.rimg != 0 && !r.resume then
    spareBit (imageSpare.take 65 ++ [(12832, 32)] ++ imageSpare.drop 65) (leNat reg)
  else none

/-- Items of `n` bytes each. -/
def chunks (n : Nat) : Nat → List Byte → List Nat
  | 0, _ => []
  | k + 1, bs => leNat (bs.take n) :: chunks n k (bs.drop n)

/-- The streams of an image and its trailer mask; an absent LD, CMP or ST stream is a single STOP (R144, R145). -/
def Image.plane (g : Image) (reg : List Byte) (va : Nat) : Plane :=
  let words (ty stop : Nat) : List (BitVec 96) :=
    match g.find ty with
    | some b => (chunks 12 (b.length / 12) b).map (BitVec.ofNat 96)
    | none => [BitVec.ofNat 96 stop]
  let ctl := (g.find 1).getD []
  { ctl := (chunks 4 (ctl.length / 4) ctl).map (BitVec.ofNat 32)
    ld := words 2 (0xF5 * 2 ^ 88)
    cmp := words 3 (0x3F5 * 2 ^ 86)
    st := words 4 (0xF5 * 2 ^ 88)
    trailer := BitVec.ofNat 4 (g.num 0x11 0 8)
    image := va
    file := g
    reg := reg }

/-- A sequencer by its SYNC code (R146). -/
def seqOf : Nat → Seq
  | 0 => .ctl | 1 => .ld | 2 => .cmp | _ => .st

/-- A token queue as the SYNC entry starts it (R40, R146, R234). -/
def Token.start (w : Nat) : Token :=
  let init := fld w 0 6
  let depth := fld w 24 6
  ⟨bitAt w 12, seqOf (fld w 8 2), seqOf (fld w 10 2), bitAt w 13, Fin.ofNat 32 (fld w 16 5), depth, init, init, 0, false,
    if depth = 0 then 0 else init % depth, depth - 1, 0, false, 0⟩

/-- A core as R40 starts a task on it: the register image, the token counts, the partition and the DATA sections;
every other part as after reset. What belongs to the core and not to the task is kept. -/
def Core.begin (k : Core) (g : Image) (reg : List Byte) (part : Nat) : Core :=
  let at' (o n : Nat) : Nat := leNat ((reg.drop o).take n)
  let k0 : Core := { Core.reset with
    counters := k.counters, zero := k.zero, pmcs := k.pmcs, runs := k.runs, shadow := k.shadow,
    lastImages := k.lastImages, gateStarts := k.gateStarts, engines := k.engines, under := k.under
    endFaults := k.endFaults, left := k.left, owed := k.owed, ovfl := k.ovfl, flushed := k.flushed
    x := Vector.ofFn fun i => if i.val = 0 then 0 else BitVec.ofNat 64 (at' (8 * i.val) 8)
    h := Vector.ofFn fun i => Handle.ofNat (at' (512 + 32 * i.val) 32)
    b := Vector.ofFn fun i => BitVec.ofNat 64 (at' (1536 + 8 * i.val) 8)
    f := Vector.ofFn fun i => i.val == 0 || bitAt (at' 1600 2) i.val
    tok := Vector.ofFn fun q => Token.start (g.num 0x10 (8 * q.val) 8)
    bnda := fld part 0 7, bndb := fld part 8 7, bndc := fld part 16 7
    plane := g.plane reg k.plane.image }
  g.sections.foldl (fun k c =>
    if c.type = 0x20 then { k with pool := wrBytes k.pool (k.spadBase + c.dest) (g.body c) } else k) k0

end Sys2Proof.Machine
end

