-- ==== Sys2Proof/Machine/Save.lean ====
section
/-! DEFINITION. The save area and the context engine (R49, R86, R87, R397): the state block as bytes, runs of blocks,
saving and restoring. -/

namespace Sys2Proof.Machine

/-- The first key of a context's save area, in T1, or in T2 where bits 53:52 of SAVEA say so (R86; DEDUCED, log 5). -/
def Context.saveBase (x : Context) : Nat := tierKey (if fld x.savea 52 2 = 2 then 2 else 1) x.savea

/-- The bytes of a vector of numbers of `n` bytes each. -/
def vecBytes {α : Type} {k : Nat} (n : Nat) (f : α → Nat) (v : Vector α k) : List Byte :=
  v.toList.flatMap fun a => leBytes n (f a)

/-- The 256 bytes of a vector register. -/
def laneBytes (v : Lanes) : List Byte := vecBytes 4 (·.toNat) v

/-- A vector register from its 256 bytes. -/
def lanesOf (bs : List Byte) : Lanes := Vector.ofFn fun i => BitVec.ofNat 32 (leNat ((bs.drop (4 * i.val)).take 4))

/-- The first `n` of a list, filled up with `d`. -/
def padTo {α : Type} (n : Nat) (d : α) (l : List α) : List α := (l ++ List.replicate n d).take n

/-- The loops of a sequencer, outermost first, as R87 lays them out. -/
def loopBytes (q : Sequencer) : List Byte :=
  (padTo 4 ⟨0, 0, 0⟩ q.loops.reverse).flatMap fun l =>
    leBytes 4 l.start ++ leBytes 4 l.stop ++ leBytes 4 l.count ++ leBytes 4 0

/-- The state block of R87 up to its last field that is not reserved. -/
def stateBlock (k : Core) (t : Task) : List Byte :=
  vecBytes 8 (·.toNat) k.x ++ vecBytes 32 Handle.toNat k.h ++ vecBytes 8 (·.toNat) k.b
    ++ leBytes 2 ((List.finRange 16).map fun i => b2n (if i.val = 0 then true else k.f.get i) * 2 ^ i.val).sum ++ leBytes 2 0
    ++ leBytes 4 (k.bnda + k.bndb * 2 ^ 8 + k.bndc * 2 ^ 16) ++ leBytes 8 t.dmr.toNat ++ leBytes 8 k.vl
    ++ vecBytes 8 (·.toNat) k.p
    ++ vecBytes 2 (fun q : Token => q.count + q.oldest * 2 ^ 6 + b2n q.held * 2 ^ 12) k.tok
    ++ vecBytes 2 (fun g : List Bool => (g.zipIdx.map fun b => b2n b.1 * 2 ^ b.2).sum + g.length * 2 ^ 8) k.guards
    ++ (padTo 16 0 k.fq).flatMap (fun w => leBytes 8 w.toNat) ++ leBytes 8 k.fq.length
    ++ vecBytes 8 (fun b : Slot => b.addr) k.slots
    ++ vecBytes 8 (fun q : Sequencer => q.pos) k.seqs
    ++ loopBytes (k.seq .ld) ++ loopBytes (k.seq .cmp) ++ loopBytes (k.seq .st)
    ++ leBytes 4 k.spb.toNat ++ leBytes 4 k.spl.toNat ++ leBytes 8 k.sp.toNat
    ++ leBytes 8 (k.allocV + k.allocS * 2 ^ 8) ++ leBytes 8 t.tleft ++ leBytes 8 t.footLines.length
    ++ leBytes 8 (b2n t.event + b2n t.pinned * 2) ++ laneBytes k.latch ++ leBytes 1 k.tdep
    ++ leBytes 3 ((k.seq .ld).loops.length + (k.seq .cmp).loops.length * 2 ^ 4 + (k.seq .st).loops.length * 2 ^ 8)
    ++ leBytes 4 ((k.slots.toList.zipIdx.map fun b => b2n b.1.phase * 2 ^ b.2).sum)
    ++ leBytes 4 ((k.slots.toList.zipIdx.map fun b => b2n b.1.spad * 2 ^ b.2).sum)
    ++ leBytes 4 ((k.slots.toList.zipIdx.map fun b => b2n b.1.bound * 2 ^ b.2).sum)
    ++ vecBytes 2 (fun q : Token => if q.bound then q.p + q.hs * 2 ^ 6 else 0) k.tok

/-- Block `b` (1-based) of a save area is in use (R86). -/
def State.blockUsed (s : State) (x : Context) (b : Nat) : Bool :=
  bitAt (rdByte s.mem (x.saveBase + (b - 1) / 8)).toNat ((b - 1) % 8)

/-- A block marked used or free; the context engine writes the directory under the context's KEYID (R86, R91). -/
def markBlock (x : Context) (used : Bool) (s : State) (b : Nat) : State :=
  let a := x.saveBase + (b - 1) / 8
  let v := (rdByte s.mem a).toNat
  let m := 2 ^ ((b - 1) % 8)
  let v := if bitAt v ((b - 1) % 8) then v - m else v
  { s with mem := wrByte s.mem a (BitVec.ofNat 8 (if used then v + m else v))
           lineKeys := mput (a / 64) (x.keyid, s.keyOf x.keyid) s.lineKeys }

/-- Some lines of a context's save area are read under its KEYID: one that fails its check is poisoned (R86, R91, R388). -/
def readArea (d : DieId) (x : Context) (mine : Nat → Bool) (s : State) : State := meetRange d 0 x.keyid (fun _ => 0) mine s

/-- The directory of a save area is read (R86). -/
def readDirectory (d : DieId) (x : Context) (s : State) : State :=
  readArea d x (fun k => decide (x.saveBase ≤ k) && decide (k < x.saveBase + 4096)) s

/-- The lowest block index from which `n` contiguous blocks are free (R86): `fuel` indices are tried. -/
def State.findRun (s : State) (x : Context) (n : Nat) : Nat → Nat → Option Nat
  | 0, _ => none
  | fuel + 1, b =>
    if x.savel < b + n then none
    else if (List.range n).all fun i => !s.blockUsed x (b + i) then some b
    else s.findRun x n fuel (b + 1)

/-- The blocks of a full or register-mode save (R86, R50). -/
def runBlocks (reg : Bool) (k : Core) : Nat := if reg then 2 else 2 + 16 * k.bndc

/-- Memory of keys [a, a + n) replaced by cells. -/
def wrRegion (m : Memory) (a n : Nat) (cs : Cells) : Memory :=
  wrCells (m.filter fun c => decide (c.1 < a) || decide (a + n ≤ c.1)) cs

/-- The lines of a run that carry the poison of a unit of the core (R389). -/
def poisonLines (base unit : Nat) : List Nat :=
  if unit < 65536 then [base / 64 + 128 + unit]
  else if unit < 65552 then (List.range 4).map fun i => base / 64 + 64 + 4 * (unit - 65536) + i
  else if unit = 65552 then [base / 64 + 38]
  else [base / 64 + 25]

/-- The lines of a region are written under a key ID (R91). -/
def tagRegion (kid line n : Nat) (s : State) : State :=
  { s with lineKeys := s.lineKeys.filter (fun e => decide (e.1 < line))
      ++ (List.range n).map (fun i => (line + i, (kid, s.keyOf kid)))
      ++ s.lineKeys.filter (fun e => decide (line + n ≤ e.1)) }

/-- A task's core state is written to the lowest run that fits, under its context's KEYID: the run's block index, or none
(R86, R87, R91, R397). The block's reserved bits are written as zero. -/
def saveTask (c : CoreId) (tid : Nat) (reg : Bool) (s : State) : Option Nat × State :=
  match mget tid s.tasks with
  | none => (none, s)
  | some t =>
    match mget t.record.ctx s.contexts with
    | none => (none, s)
    | some x =>
      let k := s.core c
      let n := runBlocks reg k
      let s := readDirectory (dieOf c) x s
      match s.findRun x n x.savel 1 with
      | none => (none, s)
      | some b =>
        let base := x.saveBase + 4096 * b
        let s := (List.range n).foldl (fun s i => markBlock x true s (b + i)) s
        let s := tagRegion x.keyid (base / 64) (if reg then 64 else 64 * n) s
        let stops := [Seq.ctl, .ld, .cmp, .st].filter fun q => (k.seq q).stopped
        let s := s.onTask tid fun t => { t with regRun := reg, stops := stops }
        let mine (l : Nat) : Bool := decide (base / 64 ≤ l) && decide (l < base / 64 + if reg then 64 else 64 * n)
        let bad := (if reg then k.poison.filter fun u => decide (predUnit 0 ≤ u) else k.poison).flatMap (poisonLines base)
        let s := { s with mem := wrRegion s.mem base 4096 (cellsFrom base (stateBlock k t))
                          poisoned := bad.eraseDups ++ s.poisoned.filter (!mine ·)
                          failing := s.failing.filter fun e => !mine e.1
                          checks := s.checks.filter fun e => !mine e.1 }
        if reg then (some b, s)
        else
          let file := k.o.toList.flatMap laneBytes
          let m := wrRegion s.mem (base + 4096) 4096 (cellsFrom (base + 4096) file)
          let pool := (k.pool.filter fun c => decide (c.1 < k.bndc * 65536)).map fun c => (base + 8192 + c.1, c.2)
          let m := wrRegion m (base + 8192) (k.bndc * 65536) pool
          (some b, { s with mem := m })

/-! ## Restoring -/

/-- The bytes and the poisoned lines of a run of `n` bytes, counted from its start: its lines are read under the context's
KEYID, and one that fails its check is poisoned (R86, R91, R388, R389). -/
def readRun (d : DieId) (x : Context) (off n : Nat) (s : State) : (Memory × List Nat) × State :=
  let base := x.saveBase + off
  let mine (k : Nat) : Bool := decide (base ≤ k) && decide (k < base + n)
  let s := readArea d x mine s
  (((s.mem.filter fun c => mine c.1).map (fun c => (c.1 - base, c.2)),
    (s.poisoned.filter fun l => mine (64 * l)).map (· - base / 64)), s)

/-- The run of a task that is to be restored (R49, R86): of register mode, its two blocks; of full mode, as many blocks as
the partition word that it holds asks for. -/
def readSaved (d : DieId) (x : Context) (t : Task) (s : State) : (Memory × List Nat) × State :=
  let off := t.record.rimg
  let bndc := fld (rdNat s.mem (x.saveBase + off + 1604) 4) 16 7
  readRun d x off (if t.regRun then 8192 else 8192 + 65536 * bndc) s

/-- The blocks of a run by its bytes. -/
def savedBlocks (m : Memory) (reg : Bool) : Nat := if reg then 2 else 2 + 16 * fld (rdNat m 1604 4) 16 7

/-- A reserved bit of a state block that is set (R6, R87). -/
def savedSpare (m : Memory) : Option Nat :=
  spareBit (imageSpare.take 65 ++ [(12839, 1), (12847, 1), (12855, 9)] ++ imageSpare.drop 65 ++ [(12944, 48), (21268, 12), (21632, 11136)]) (rdNat m 0 4096)

/-- The loops of a sequencer from a state block. -/
def savedLoops (m : Memory) (o n : Nat) : List Loop :=
  ((List.range n).map fun i => ⟨rdNat m (o + 16 * i) 4, rdNat m (o + 16 * i + 4) 4,
    rdNat m (o + 16 * i + 8) 4⟩).reverse

/-- A core with the contents of a run, its bytes `m` and poisoned lines `bad` counted from its start (R49, R87); in
register mode only the x, h, f and b registers, VL and the predicates (R50). Tokens keep their queues' synchronisation
entries, taken from the image, and a stream that had issued STOP stays stopped (R308, log 77). -/
def restoreCore (m : Memory) (bad : List Nat) (stops : List Seq) (reg : Bool) (k : Core) : Core :=
  let v := rdNat m
  let k : Core := { k with
    x := Vector.ofFn fun i => BitVec.ofNat 64 (v (8 * i.val) 8)
    h := Vector.ofFn fun i => Handle.ofNat (v (512 + 32 * i.val) 32)
    b := Vector.ofFn fun i => BitVec.ofNat 64 (v (1536 + 8 * i.val) 8)
    bAt := Vector.replicate 8 none
    bWild := Vector.replicate 8 false
    f := Vector.ofFn fun i => bitAt (v 1600 2) i.val
    vl := v 1616 2
    p := Vector.ofFn fun i => BitVec.ofNat 64 (v (1624 + 8 * i.val) 8) }
  let loopn := v 2657 3
  let q (i : Nat) (n o : Nat) : Sequencer :=
    { Sequencer.fresh with pos := v (2128 + 8 * i) 8, loops := savedLoops m o n,
                           stopped := stops.any fun q => (seqIdx q).val == i }
  let k : Core := { k with
    seqs := #v[q 0 0 0, q 1 (fld loopn 0 4) 2160, q 2 (fld loopn 4 4) 2224, q 3 (fld loopn 8 4) 2288] }
  let units := if bad.isEmpty then [] else (List.range 65561).filter fun u => (poisonLines 0 u).any bad.contains
  if reg then { k with poison := units.filter fun u => decide (predUnit 0 ≤ u) }
  else { k with
    bnda := fld (v 1604 4) 0 7, bndb := fld (v 1604 4) 8 7, bndc := fld (v 1604 4) 16 7
    tok := Vector.ofFn fun i =>
      let w := v (1688 + 2 * i.val) 2
      let r := v (2672 + 2 * i.val) 2
      { k.tok.get i with count := fld w 0 6, was := fld w 0 6, oldest := fld w 6 6, held := bitAt w 12,
                         p := fld r 0 6, hs := fld r 6 6, radvs := 0, wasHeld := bitAt w 12, wasRadvs := 0 }
    guards := Vector.ofFn fun i =>
      let w := v (1720 + 2 * i.val) 2
      (List.range (fld w 8 4)).map fun j => bitAt w j
    fq := (List.range (v 1864 8)).map fun i => BitVec.ofNat 64 (v (1736 + 8 * i) 8)
    slots := Vector.ofFn fun i =>
      ⟨bitAt (v 2668 4) i.val, bitAt (v 2664 4) i.val, v (1872 + 8 * i.val) 8, bitAt (v 2660 4) i.val⟩
    spb := BitVec.ofNat 32 (v 2352 4), spl := BitVec.ofNat 32 (v 2356 4), sp := BitVec.ofNat 32 (v 2360 4)
    allocV := fld (v 2368 8) 0 7, allocS := fld (v 2368 8) 8 7
    latch := lanesOf (rdBytes m 2400 256)
    tdep := v 2656 1
    o := Vector.ofFn fun i => lanesOf (rdBytes m (4096 + 256 * i.val) 256)
    pool := (m.filter fun c => decide (8192 ≤ c.1) && decide (c.1 < 8192 + fld (v 1604 4) 16 7 * 65536)).map fun c =>
      (c.1 - 8192, c.2)
    poison := units }

/-- What a run holds of its task beside its core (R49, R50, R87): the DMR and, in full mode, the event flag and the time
allowance. -/
def restoreTask (m : Memory) (reg : Bool) (t : Task) : Task :=
  let t := { t with dmr := BitVec.ofNat 64 (rdNat m 1608 8) }
  if reg then t else { t with tleft := rdNat m 2376 8, event := t.event || bitAt (rdNat m 2392 8) 0 }

/-- A run is freed (R86). -/
def freeRun (x : Context) (b n : Nat) (s : State) : State :=
  (List.range n).foldl (fun s i => markBlock x false s (b + i)) s

/-- Cycles of a full save or restore (R48, R49). -/
def saveCycles (k : Core) : Nat := k.bndc * 65536 / 256 + 64

end Sys2Proof.Machine
end

