-- ==== Sys2Proof/Machine/Lease.lean ====
section
/-! DEFINITION. Leases and their pages (R27, R71, R72), the state of a context (R23, R24), Almanac's prediction (R76)
and the plans of demotion and recall (R77 to R79), the journal (R300). -/

namespace Sys2Proof.Machine

/-- A journal entry is written before its decision takes effect (R300); the ring keeps the last 2,048. -/
def journal (d : DieId) (kind obj arg : Nat) (s : State) : State :=
  s.onDie d fun x => { x with
    journal := (⟨x.jseq, kind, obj, arg⟩ :: x.journal).take Config.journalSize, jseq := x.jseq + 1 }

/-- A Helm core of a die does the first (0) or the second (1) active core's work: its firmware runs and the core has
not failed (R299, R355, R413). -/
def State.helmServes (s : State) (d : DieId) (i : Fin 2) : Bool :=
  s.boot == 3 && match (s.die d).duties.get i with
    | some c => ((s.die d).helm.get c).status == 0
    | none => false

/-- The first free of a die's 24 BTEs, which copy for BCOPYs and for page moves (R12, R75, R230). -/
def State.freeBte (s : State) (d : DieId) : Option Nat :=
  (List.range 24).find? fun i =>
    !(s.bulks.any fun b => dieOf b.2.core == d && b.2.bte == i) && !(s.moves.any fun m => m.2.die == d && m.2.bte == i)

/-- What one byte costs a BTE from key `src` to key `dst`, in units of 1/200 ns: 200 GB/s on a die, 100 GB/s between dies,
50 GB/s with an end in T2 or T3 (R353). -/
def bteCost (src dst : Nat) : Nat :=
  if 2 ≤ keyTier src || 2 ≤ keyTier dst then 4 else if frameDie src == frameDie dst then 1 else 2

/-- The least cycles of a copy of `len` bytes at a cost, 940 cycles to the µs (R13, R353). -/
def bteCycles (len cost : Nat) : Nat := (47 * (len * cost) + 9999) / 10000

/-- The leaves of the pages from virtual address `va` up to `stop`; none where a page has no valid leaf. -/
def State.leaves (s : State) (x : Context) : Nat → Nat → Nat → Option (List (Nat × Leaf))
  | 0, _, _ => some []
  | n + 1, va, stop =>
    if stop ≤ va then some []
    else
      match s.walk x va with
      | .error _ => none
      | .ok l => (s.leaves x n (va - va % l.size + l.size) stop).map ((va - va % l.size, l) :: ·)

/-- The pages that a grant (buffer, first and last 64 KiB unit) touches within its buffer (R71). -/
def State.grantPages (s : State) (x : Context) (g : Nat × Nat × Nat) : Option (List (Nat × Leaf)) :=
  let b := s.buffer x g.1
  let lo := b.vbase + 65536 * g.2.1
  let hi := b.vbase + Nat.min (65536 * g.2.2) b.len
  s.leaves x ((hi - lo) / 4096 + 2) lo hi

/-- A page is not in the tier that it had when its context parked (R75, R78); the residency engine passes over one
with MASK bit 7 clear. -/
def isAway (x : Context) (l : Leaf) : Bool :=
  bitAt l.mask 7 && ((mget l.head x.homes).map (· % 4 != l.tier)).getD false

/-- A page can be leased: MIG clear, and no context awaits its recall (R71, R78). -/
def State.pageFree (s : State) (l : Leaf) : Bool := !l.mig && !s.contexts.any fun y => y.2.recalling && isAway y.2 l

/-- The virtual address at which SNAPO binds a version of an object: DESIGN CHOICE (log 35), the versions lie one after
another from the object's base, each with room for the highest page of any, so that two bindings of one Chart map
different pages. -/
def PoolObj.baseOf (p : PoolObj) (ver : Nat) : Nat :=
  p.base + ver * (4096 * ((p.versions.flatMap fun v => v.2.2.map (·.1 + 1)).foldl Nat.max 0))

/-- The pages of a grant over a writer's binding that its version still shares (R84): the object, the version, the
page's number, its frame and its leaf. -/
def State.sharedPages (s : State) (x : Context) (g : Nat × Nat × Nat) : List (Nat × Nat × Nat × Nat × Leaf) :=
  let b := s.buffer x g.1
  match (if b.pool && b.pwr && b.wr then mget b.obj s.objects else none) with
  | none => []
  | some p =>
    ((s.grantPages x g).getD []).filterMap fun q =>
      let n := (q.1 - p.baseOf b.ver) / 4096
      match (((mget b.ver p.versions).map (·.2)).getD []).find? (·.1 == n) with
      | none => none
      | some e => if (mdel b.ver p.versions).any fun v => v.2.2.any fun o => o.2 == e.2 then some (b.obj, b.ver, n, e.2, q.2)
        else none

/-- The pages that a task's placement copies (R84). -/
def State.cowPages (s : State) (t : Task) : List (Nat × Nat × Nat × Nat × Leaf) :=
  match mget t.record.ctx s.contexts with
  | none => []
  | some x => (t.grants.flatMap (s.sharedPages x)).eraseDups

/-- The free pool frames that the residency engine of a context reaches for a page of a size (R386, R419). -/
def State.poolFrames (s : State) (x : Context) (size : Nat) : List Nat :=
  ((mget 2 s.freeFrames).getD []).filter fun f => (s.pathFail x.home (tierKey 2 (4096 * f)) size).isNone

/-- The first page that a task's placement cannot copy: its own path has failed, or no frame that can be reached is left for it
(R386, R419). -/
def State.cowStuck (s : State) (t : Task) : Option Leaf :=
  match mget t.record.ctx s.contexts with
  | none => none
  | some x =>
    (((s.cowPages t).zipIdx.find? fun e =>
      (s.pathFail x.home (tierKey 2 (4096 * e.1.2.2.2.1)) e.1.2.2.2.2.size).isSome
        || decide ((s.poolFrames x e.1.2.2.2.2.size).length ≤ e.2)).map fun e => e.1.2.2.2.2)

/-- A copy on write cannot be made (R386, R419). -/
def State.cowBlocked (s : State) (t : Task) : Bool := (s.cowStuck t).isSome

/-- Every lease of a task can be granted (R71). -/
def State.grantable (s : State) (t : Task) : Bool :=
  match mget t.record.ctx s.contexts with
  | none => false
  | some x => (t.grants.all fun g =>
    match s.grantPages x g with
    | none => false
    | some ls => ls.all fun l => s.pageFree l.2) && !s.cowBlocked t

/-- A free frame of a key of `freeFrames` is taken (log 11). -/
def takeFrame (key : Nat) (s : State) : Option Nat × State :=
  let fs := (mget key s.freeFrames).getD []
  let f := (fs[Config.frameChoice s.free fs.length % fs.length]?).elim fs.head? some
  (f, match f with
    | none => s
    | some f => { s with freeFrames := mput key (fs.erase f) s.freeFrames }.tick)

/-- A free pool frame that the residency engine of a context reaches for a page of a size is taken (R84, R419; log 11). -/
def takePool (x : Context) (size : Nat) (s : State) : Option Nat × State :=
  let fs := s.poolFrames x size
  let f := (fs[Config.frameChoice s.free fs.length % fs.length]?).elim fs.head? some
  (f, match f with
    | none => s
    | some f => { s with freeFrames := mmod 2 (·.erase f) s.freeFrames }.tick)

/-- `n` bytes of memory copied from one key to another, with the poison of their lines (R389). -/
def copyKeys (src dst n : Nat) (s : State) : State :=
  let within (a k : Nat) : Bool := decide (a ≤ k) && decide (k < a + n)
  let cs := (s.mem.filter fun c => within src c.1).map fun c => (c.1 - src + dst, c.2)
  let ps := (s.poisoned.filter fun l => within src (64 * l)).map fun l => l - src / 64 + dst / 64
  let ks := (s.lineKeys.filter fun e => within src (64 * e.1)).map fun e => (e.1 - src / 64 + dst / 64, e.2)
  { s with mem := wrCells (s.mem.filter fun c => !within dst c.1) cs
           poisoned := ps ++ s.poisoned.filter fun l => !within dst (64 * l)
           failing := s.failing.filter fun e => !within dst (64 * e.1)
           checks := s.checks.filter fun e => !within dst (64 * e.1)
           behind := s.behind.filter fun e => !within dst (64 * e.1)
           lineKeys := ks.foldl (fun m e => mput e.1 e.2 m) (s.lineKeys.filter fun e => !within dst (64 * e.1)) }

/-- The entries of a page of a size code (R66). -/
def entriesOf (c : Nat) : Nat := if c ≤ 5 then 4 ^ c else 2 * 4 ^ (c - 6)

/-- The FRAME and TIER of a head entry and its replicas rewritten (R66, R81). -/
def setFrame (head tier frame : Nat) (s : State) : State :=
  (List.range (entriesOf (fld (rdNat s.mem (t1 head) 16) 2 3))).foldl (fun s i =>
    let a := t1 (head + 16 * i)
    let w := rdNat s.mem a 16
    let v := w - fld w 5 2 * 2 ^ 5 - fld w 32 40 * 2 ^ 32 + tier % 4 * 2 ^ 5 + frame % 2 ^ 40 * 2 ^ 32
    { s with mem := wrNat s.mem a 16 v }) s

/-- The residency engine copies the shared pages of a lease into new pool frames and maps the copies; a line of the source that
fails is copied with poison (R84, R388). -/
def copyOnWrite (t : Task) (s : State) : State :=
  match mget t.record.ctx s.contexts with
  | none => s
  | some x =>
    (s.cowPages t).foldl (fun s e =>
      let (obj, ver, n, f, l) := e
      match takePool x l.size s with
      | (none, s) => s
      | (some g, s) =>
        let src := tierKey 2 (4096 * f)
        let s := meetRange x.home t.record.ctx l.tag l.vaOf (fun k => decide (src ≤ k) && decide (k < src + l.size)) s
        let s := setFrame l.head 2 g (copyKeys src (tierKey 2 (4096 * g)) l.size s)
        let swap (v : Nat × List (Nat × Nat)) : Nat × List (Nat × Nat) :=
          (v.1, v.2.map fun q => if q.1 == n then (n, g) else q)
        { s with objects := mmod obj (fun p => { p with versions := mmod ver swap p.versions }) s.objects }) s

/-- The head entries that a task's leases touch, once each (R71). -/
def State.leaseHeads (s : State) (t : Task) : List Nat :=
  match mget t.record.ctx s.contexts with
  | none => []
  | some x => (t.grants.flatMap fun g => ((s.grantPages x g).getD []).map (·.2.head)).eraseDups

/-- At placement LCNT of every head entry rises; when the task leaves its core it falls by the same (R71). -/
def grantLeases (tid : Nat) (s : State) : State :=
  match mget tid s.tasks with
  | none => s
  | some t =>
    let s := copyOnWrite t s
    let hs := s.leaseHeads t
    (hs.foldl (fun s h => setLcnt h (· + 1) s) s).onTask tid fun t => { t with leased := hs }
def dropLeases (tid : Nat) (s : State) : State :=
  match mget tid s.tasks with
  | none => s
  | some t => (t.leased.foldl (fun s h => setLcnt h (· - 1) s) s).onTask tid fun t => { t with leased := [] }

/-- The grants that a record's leases declare through a register image's handles; a handle with SPC = 1 names no
buffer (R27). -/
def grantsOf (r : TaskRec) (reg : List Byte) : List (Nat × Nat × Nat) :=
  r.leases.filterMap fun l =>
    let h := Handle.ofNat (leNat ((reg.drop (512 + 32 * l.h.val)).take 32))
    if l.v && !h.spc then some (h.buf.toNat, l.lo, l.hi) else none

/-! ## The state of a context (R23) -/

/-- A task holds a core (R23): it runs there, or its last commands do. -/
def Task.onCore (t : Task) : Bool :=
  match t.standing with
  | .running _ | .ending _ => true
  | _ => false

/-- A task is queued. DESIGN CHOICE (log 90): a task staged in a shadow plane holds no core yet. -/
def Task.isQueued (t : Task) : Bool :=
  match t.standing with
  | .queued | .staged _ => true
  | _ => false

/-- The tasks of a context. -/
def State.tasksOf (s : State) (n : Nat) : List (Nat × Task) := s.tasks.filter fun t => t.2.record.ctx == n

/-- A swapped context stays swapped while its recall runs; from the next cycle R23's table gives its state. -/
def Context.recalled (x : Context) (now : Nat) : Bool := x.state == 4 && (x.recalling || x.recalledAt == some now)

/-- The first line of R23's table that holds: 1 running, 2 ready, 4 swapped, 3 parked; a swapped context with tasks stays
swapped until its recall completes. -/
def State.deriveState (s : State) (n : Nat) (x : Context) : Nat :=
  let ts := (s.tasksOf n).map (·.2)
  if ts.any (·.onCore) then 1
  else if x.recalled s.cycle && !ts.isEmpty then 4
  else if !x.fault && ts.any (fun t => t.isQueued && s.grantable t) then 2
  else if !ts.isEmpty && x.demoted then 4
  else 3

/-- Almanac's prediction P (R76): none for 0. -/
def predict (hint avg : Nat) : Option Nat :=
  if hint = 0 && avg = 0 then none
  else if avg = 0 then some hint
  else if hint = 0 then some avg
  else some ((hint + avg) / 2)

/-- The pages that the residency engine moves for a context, in the order of R77: leased by a task of it, in a
buffer of its own, MASK bit 7 set. DESIGN CHOICE (log 78): the leases of several tasks follow one another in the order of
the tasks' creation. -/
def State.ownPages (s : State) (n : Nat) (x : Context) : List (Nat × Buffer × Leaf) :=
  let gs := ((s.tasksOf n).flatMap fun t => t.2.grants).eraseDups
  let ps := gs.flatMap fun g =>
    let b := s.buffer x g.1
    if b.owner = n then ((s.grantPages x g).getD []).map fun p => (p.1, b, p.2) else []
  (ps.filter fun p => bitAt p.2.2.mask 7).foldl
    (fun acc p => if acc.any (fun q => q.2.2.head == p.2.2.head) then acc else acc ++ [p]) []

/-- The moves of demotion (kind 0) for a predicted sleep in µs: pass 1 over 50 ms, pass 2 over 2 s (R77). A
T0 page stands in pass 2 because pass 1 brings it to T1; where it could not, pass 2 leaves it (`State.mayPlan`). -/
def State.demotionPlan (s : State) (n : Nat) (x : Context) (p : Nat) : List (Nat × Nat × Nat) :=
  let ps := s.ownPages n x
  let one := if 50000 < p then (ps.filter fun q => q.2.2.tier == 0 && q.2.1.tier != 1).map fun q => (0, 1, q.1) else []
  let two := if 2000000 < p then
      (ps.filter fun q => decide (q.2.2.tier ≤ 1) && q.2.1.tier != 1 && q.2.1.tier != 2).map fun q => (0, 2, q.1)
    else []
  one ++ two

/-- A context whose demotion has left none of the pages that it moves in T0 is swapped (R23, R77). -/
def settleDemotion (n : Nat) (s : State) : State :=
  s.onCtx n fun x =>
    if x.demoting && !(s.ownPages n x).any (fun p => p.2.2.tier == 0 && p.2.1.tier != 1) then
      { x with demoted := true }
    else x

/-- Almanac's prediction for a parked context, from its park time (R76, R77, R413). -/
def predictPark (n : Nat) (s : State) : State :=
  match mget n s.contexts with
  | none => s
  | some x =>
    match (if s.helmServes x.home 1 then predict x.hint (x.pavg.toList.getD x.prsn 0) else none) with
    | none => s
    | some p =>
      let w := x.parkedAt + p
      let s := journal x.home 7 n w s
      settleDemotion n (s.onCtx n fun x => { x with waket := w, plan := s.demotionPlan n x p ++ x.plan,
                                                     demoting := decide (50000 < p) })

/-- What happens when a context parks (R24, R76, R77): the home tiers of its pages are noted, and Almanac acts, unless
its Helm core is out (R413). -/
def almanac (n : Nat) (s : State) : State :=
  match mget n s.contexts with
  | none => s
  | some x =>
    let homes := (s.ownPages n x).foldl (fun m p =>
      mput p.2.2.head (p.2.2.tier + 4 * (((frameDie (p.2.2.keyOf 0)).getD x.home).val)) m) []
    predictPark n (s.onCtx n fun x => { x with homes := homes, slept := true, parkedAt := s.timeUs, waket := 0, demoting := false,
                                               plan := x.plan.filter fun p => decide (2 ≤ p.1) })

/-- The mean sleep of a park reason takes the actual sleep when a context that has parked becomes ready (R76). -/
def wakeMean (n : Nat) (s : State) : State :=
  s.onCtx n fun x =>
    if !x.slept then x
    else
      let sleep := Nat.min (s.timeUs - x.parkedAt) (2 ^ 32 - 1)
      let avg := ((x.pavg.toList)[x.prsn]?).getD 0
      { x with slept := false, pavg := x.pavg.setIfInBounds x.prsn (if avg = 0 then sleep else (7 * avg + sleep) / 8) }

/-- What a context does as it parks (R24): PRSN, 5 while a fault holds it (R372, R374) and otherwise 0 without tasks (R23); Almanac acts
(R76). -/
def parkCtx (n reason : Nat) (x : Context) (s : State) : State :=
  let none' := (s.tasksOf n).isEmpty
  almanac n (s.onCtx n fun y => { y with cowSaid := false
                                         prsn := if x.fault then 5 else if none' then 0 else reason })

/-- A context that is parked while a copy on write of a queued task cannot be made has PRSN 4, and one COWFAIL entry in each park
names the page (R386, R399). -/
def noteCow (n : Nat) (s : State) : State :=
  match mget n s.contexts with
  | none => s
  | some x =>
    if x.state < 3 || x.fault || x.cowSaid then s
    else
      match (s.tasksOf n).findSome? fun t => if t.2.isQueued then s.cowStuck t.2 else none with
      | none => s
      | some l =>
        memEntry x.home 8 l.tier 6 n l.keyid l.world 1 (l.frame * 4096) l.page 0
          (s.onCtx n fun x => { x with prsn := 4, cowSaid := true })

/-- A context's STATE follows its tasks; parking and becoming ready, be it placed in the same cycle, have the actions of R24.
`reason` is PRSN where the change is a park; a context without tasks has PRSN 0 (R23). -/
def refresh (n reason : Nat) (s : State) : State :=
  match mget n s.contexts with
  | none => s
  | some x =>
    if x.state = 0 then s
    else
      let new := s.deriveState n x
      noteCow n <|
        if new = x.state then
          if new = 3 && !x.fault && (s.tasksOf n).isEmpty then s.onCtx n fun x => { x with prsn := 0 } else s
        else
          let s1 := s.onCtx n fun x => { x with state := new }
          if 3 ≤ new && x.state < 3 then parkCtx n reason x s1
          else if new < 3 && 3 ≤ x.state then wakeMean n s1
          else s1

/-- A recall begins (R78, R79): the rest of demotion is dropped, and every page that is not in its home tier is
recalled in the order of R77. -/
def startRecall (n : Nat) (s : State) : State :=
  s.onCtx n fun x =>
    if x.recalling then x
    else
      let rest := x.plan.filter fun p => decide (2 ≤ p.1)
      let moving (l : Leaf) : Bool := s.moves.any fun m => m.1 == l.head && m.2.kind == 0
      let away := (s.ownPages n x).filter fun p => isAway x p.2.2 || moving p.2.2
      if away.isEmpty then { x with plan := rest, demoting := false, demoted := false }
      else { x with recalling := true, demoting := false,
                    plan := away.map (fun p => (1, (mget p.2.2.head x.homes).getD 1, p.1)) ++ rest }

end Sys2Proof.Machine
end

