-- ==== Sys2Proof/Machine/Tasks.lean ====
section
/-! DEFINITION. Tasks and teams: held updates (R115, R207, R228), events and wakes (R53, R54, R207), phases (R37),
completion (R25, R298, R375), leaving a core, starting a task (R39, R40), halving (R44, R45, R363) and discarding
(R47). -/

namespace Sys2Proof.Machine

/-! ## Wakes and events -/

/-- A task held by PARK is queued again, with a fresh ready time. -/
def releaseParked (tid : Nat) (s : State) : State :=
  s.onTask tid fun t => { t with standing := .queued, ready := s.timeUs, aged := 0 }

/-- SEV for a context (R54): flags of its tasks on cores are set, EVENT parks are released, and EVPEND is set when a
task of it is then queued without a core. -/
def sevCtx (n : Nat) (s : State) : State :=
  let ts := s.tasksOf n
  let s := ts.foldl (fun s t =>
    match t.2.standing with
    | .running _ => s.onTask t.1 fun t => { t with event := true }
    | .parked 1 _ => releaseParked t.1 s
    | _ => s) s
  let freed := ts.any fun t => match t.2.standing with
    | .parked 1 _ => true
    | _ => false
  let s := s.onCtx n fun x => { x with sevAt := some s.cycle }
  let s := if (s.tasksOf n).any fun t => t.2.isQueued then s.onCtx n fun x => { x with evpend := true } else s
  refresh n 0 (if freed then startRecall n s else s)

/-- The end of a fault hold: PRSN := 0, and the tasks that step 8 of R372 requeued or saved are queued (R374). -/
def endFaultHold (n : Nat) (s : State) : State :=
  let s := s.onCtx n fun x => { x with fault := false, prsn := 0 }
  (s.tasksOf n).foldl (fun s t =>
    if t.2.standing == .faultHeld then s.onTask t.1 fun t => { t with standing := .queued } else s) s

/-- WAKE of context `n` by a task whose world is `secure` (R53, R207, R374). -/
def wakeCtx (n : Nat) (secure : Bool) (s : State) : State :=
  match mget n s.contexts with
  | none => s
  | some x =>
    if n = 0 || x.state = 0 || (x.world && !secure) then s
    else if x.state = 1 || x.state = 2 then s.onCtx n fun x => { x with wpend := true, woken := some s.cycle }
    else if x.fault && !secure then s
    else
      let s := if x.fault then endFaultHold n s else s
      let s := (s.tasksOf n).foldl (fun s t =>
        match t.2.standing with
        | .parked _ _ => releaseParked t.1 s
        | _ => s) s
      refresh n 0 (startRecall n s)

/-- A context that has parked in the cycle in which it was woken, or in which the event of a task that it holds came, is released:
the rows of R24's table take the park first. -/
def afterPark (n : Nat) (s : State) : State :=
  match mget n s.contexts with
  | none => s
  | some x =>
    if x.state < 3 || x.fault then s
    else if x.woken == some s.cycle then wakeCtx n true (s.onCtx n fun x => { x with wpend := false })
    else if x.sevAt == some s.cycle && (s.tasksOf n).any fun t => match t.2.standing with
        | .parked 1 _ => true
        | _ => false then sevCtx n s
    else s

/-- A task of a context has left its core: the context's STATE follows, and where it parks now, what came in this cycle acts on
it after the park (R24). DESIGN CHOICE (log 90): where only tasks held by PARK remain, PRSN is `reason`, 4 for a retirement. -/
def leaveCtx (n reason : Nat) (s : State) : State :=
  if ((mget n s.contexts).map (·.state)).getD 3 < 3 then afterPark n (refresh n reason s) else refresh n reason s

/-! ## Held updates -/

/-- The failed path of a barrier update, as INFO0 and INFO1 of a LINK fault (R416 to R419). -/
def State.barLink (s : State) (c : CoreId) (r : BarRef) : Option (Nat × Nat) :=
  if r.spad then none
  else
    match mget r.ctx s.contexts, s.barKey r with
    | some x, some k => (s.linkFail (dieOf c) k).map fun i =>
      let b := (s.bufferAt x r.addr).getD 0
      (reqInfo b (r.addr - (s.buffer x b).vbase), i)
    | _, _ => none

/-- An update of an object by a task on a core: applied, unless its path has failed or the pool cannot read it; the fault it
raises (R113, R391, R416). -/
def barFrom (c : CoreId) (tid : Nat) (r : BarRef) (op : BarOp) (lines : List Nat) (s : State) :
    State × Option (Nat × Nat × Nat) :=
  match s.barLink c r with
  | some (i, j) => (s, some (0x40, i, j))
  | none =>
    let ks := keysFrom ((s.core r.core).spadBase + r.addr) 16
    match (if r.spad then s.poolFlaw r.core ks else none) with
    | some a => (meetPool r.core (s.ctxOn c) ks s, some (0x2B, a, 0))
    | none => barApply c tid r op lines s

/-- The lines that a counted transfer has written are published at the object's scope before its update (R115). -/
def publishLines (c : CoreId) (r : BarRef) (lines : List Nat) (s : State) : State :=
  if lines.isEmpty then s else cumulate c (barScp (s.barRead r)) (fun k => lines.contains (k / 64)) s

/-- The place of an act in the order of issue: the streams of one cycle in the order CTL, LD, CMP, ST. -/
def stampOf (cycle : Nat) (q : Seq) : Nat := 4 * cycle + (seqIdx q).val

/-- The stamp of a held update. -/
def Held.stamp : Held → Nat
  | .bar _ _ _ _ n _ _ _ | .wake _ n | .sev n | .redadd _ _ _ n _ _ _ _ _ => n

/-- A held update in its place among others in issue order. -/
def insertHeld (h : Held) : List Held → List Held
  | [] => [h]
  | g :: t => if h.stamp < g.stamp then h :: g :: t else g :: insertHeld h t

/-- An update is held with a task's provisional effects (R115, R207, R228). -/
def Task.hold (h : Held) (t : Task) : Task := { t with held := insertHeld h t.held }

/-- One element of a REDADD is added at its point of coherence, with its poison (R228, R389); in the doorbell aperture it is no
doorbell store (R404). -/
def redaddAt (c : CoreId) (tid : Nat) (fmt : Fmt) (keys : List Nat) (v : Nat) (bad : Bool) (s : State) : State :=
  let k := keys.headD 0
  if isAperture k then badBell (dieOf c) (fld k 0 36) keys.length s
  else
    let s := (atomicKeys c tid keys (fun old => addElem fmt old v) s).2
    let ls := (linesOf keys).map bareLine
    if bad then { s with poisoned := ls ++ s.poisoned.filter fun l => !ls.contains l } else s

/-- The updates that a task holds are performed in issue order; the first that faults is raised with ENG `eng`, and
the rest are dropped (R115, R207, R228, R376). A fault of the sequencer has QNUM 0 (R370). -/
def performHeld (c : CoreId) (tid eng : Nat) : List Held → State → State
  | [], s => s
  | h :: rest, s =>
    match h with
    | .bar r op n lines _ seq pos qnum =>
      let u := barFrom c tid r (BarOp.ofCode op n) lines (publishLines c r lines s)
      match u.2 with
      | none => performHeld c tid eng rest u.1
      | some (cause, i0, i1) => raiseFor c tid ⟨cause, seq, eng, pos, if eng = 15 then 0 else qnum, i0, i1, false⟩ u.1
    | .wake n _ =>
      let secure := ((mget ((mget tid s.tasks).elim 0 (·.record.ctx)) s.contexts).map (·.world)).getD false
      performHeld c tid eng rest (wakeCtx n secure s)
    | .sev _ => performHeld c tid eng rest (sevCtx ((mget tid s.tasks).elim 0 (·.record.ctx)) s)
    | .redadd keys f v _ seq pos qnum req bad =>
      match keys.findSome? (s.linkFail (dieOf c)) with
      | some i => raiseFor c tid ⟨0x40, seq, eng, pos, if eng = 15 then 0 else qnum, req, i, false⟩ s
      | none => performHeld c tid eng rest (redaddAt c tid ((fmtOf f).getD .n64) keys v bad s)

/-- Publication of a task under R42 at a scope, with what it holds after its lines. -/
def publishAll (c : CoreId) (tid eng : Nat) (scope : Scope) (s : State) : State :=
  let s := publishTask c tid scope s
  match mget tid s.tasks with
  | none => s
  | some t => performHeld c tid eng t.held (s.onTask tid fun t => { t with held := [] })

/-! ## Phases (R37, R111) -/

/-- The number of a level's domain in a DMR, where the level is enabled (R36). -/
def domainOf (l : Level) (dmr : Dword) : Option Nat :=
  let w := dmr.toNat
  match l with
  | .task => none
  | .cl => if bitAt w 0 then some (fld w 8 8) else none
  | .die => if bitAt w 1 then some (fld w 16 8) else none
  | .pkg => if bitAt w 2 then some (fld w 24 8) else none
  | .pod => if bitAt w 3 then some (fld w 32 16) else none

/-- The scope of a level (R111). -/
def levelScope : Level → Scope
  | .task => .core | .cl => .cl | .die => .die | .pkg => .pkg | .pod => .pod

/-- The core that a task holds. -/
def Task.core (t : Task) : Option CoreId :=
  match t.standing with
  | .running c | .ending c | .staged c => some c
  | _ => none

/-- Two tasks are in one domain at a level (R36); a task without a core counts with any cluster or die. -/
def sameDomain (l : Level) (a b : Task) : Bool :=
  let near := match a.core, b.core with
    | some c, some d => (l != .cl || clusterOf c == clusterOf d) && (l != .die || dieOf c == dieOf d)
    | _, _ => true
  a.record.team == b.record.team && (domainOf l a.dmr).isSome && domainOf l a.dmr == domainOf l b.dmr && near

/-- The snapshot that another member of a phase keeps of a byte which a member publishes by arriving: the value that it
would fetch before, which it goes on fetching wherever it would meet the published one (R100). A member without a core
would fetch the value at home. -/
def State.snapOf (s : State) (m : Nat × Task) (k : Nat) (new : Byte) : Option Snap :=
  let old := match m.2.standing with
    | .running c => s.missByte c k
    | _ => ((s.snaps.find? fun e => e.task == m.1 && e.key == k && e.new == s.homeByte k).map (·.old)).getD (s.homeByte k)
  if old = new then none else some ⟨m.1, k, old, new⟩

/-- A member's publication as it arrives in a phase (R111): every other member goes on reading the snapshot values of its
bytes until the flip, with the engines of those that have arrived (R100). -/
def publishArriving (c : CoreId) (tid : Nat) (l : Level) (s : State) : State :=
  match mget tid s.tasks with
  | none => s
  | some t =>
    let ks := (t.epochs.flatMap fun e => e.cells.map (·.1)).eraseDups
    let ms := s.tasks.filter fun u => u.1 != tid && sameDomain l t u.2
    let new := ms.flatMap fun m => ks.filterMap fun k => s.snapOf m k ((bufferByte t.epochs k).getD 0)
    let r := publishTask c tid (levelScope l) s
    let r := { r with snaps := new ++ s.snaps.filter fun (e : Snap) => ms.any (·.1 == e.task) || !ks.contains e.key }
    performHeld c tid 15 t.held (r.onTask tid fun t => { t with held := [] })

/-- A member resumes at the flip: it acquires at the level's scope and its control sequencer goes on; a member that
gave up its core is queued again (R37, R38, R111), one whose save is still under way once that has ended (`standAfter`).
Its snapshots end. -/
def resumeMember (l : Level) (m : Nat × Task) (s : State) : State :=
  let s := { s with snaps := s.snaps.filter fun (e : Snap) => e.task != m.1 }.onTask m.1 fun t => { t with arrived := none }
  match m.2.standing with
  | .running c =>
    acquireAt c (levelScope l).code (fun _ => true)
      (s.onCore c fun k => k.onSeq .ctl fun q => { q with acting := none })
  | .phaseHeld => s.onTask m.1 fun t => { t with standing := .queued }
  | _ => s

/-- Every phase of a team whose arrived members equal its live members flips (R37). -/
def checkFlips (team : Nat) (s : State) : State :=
  let ts := s.tasks.filter fun t => t.2.record.team == team
  ts.foldl (fun s t =>
    match (mget t.1 s.tasks).bind (·.arrived) with
    | none => s
    | some l =>
      let ms := (s.tasks.filter fun u => u.1 == t.1 || sameDomain l t.2 u.2)
      if ms.all fun u => u.2.arrived == some l then ms.foldl (fun s m => resumeMember l m s) s else s) s

/-! ## Completion (R25, R298, R375) -/

/-- The key of a QCB of queue `q` (R287). -/
def State.qcbKey (s : State) (q : Nat) : Nat := t1 ((s.die (Fin.ofNat 4 q)).qcbbase + 128 * (q / 4))

/-- An update of a QCB, bracketed by SEQ (R289): SEQ rises by two over it. -/
def qcbUpdate (q : Nat) (f : Memory → Nat → Memory) (s : State) : State :=
  let a := s.qcbKey q
  let n := rdNat s.mem a 4
  { s with mem := wrNat (f s.mem a) a 4 ((n + 2) % 2 ^ 32) }

/-- The slot that holds a queue. -/
def State.slotOf (s : State) (q : Nat) : Option (DieId × Fin 256) :=
  let d : DieId := Fin.ofNat 4 q
  ((List.finRange 256).find? fun i =>
    let x := (s.die d).slots.get i
    x.state != 0 && x.queue == q).map fun i => (d, i)

/-- A hardware slot changed. -/
def onSlot (d : DieId) (i : Fin 256) (f : QSlot → QSlot) (s : State) : State :=
  s.onDie d fun x => { x with slots := x.slots.set i.val (f (x.slots.get i)) i.isLt }

/-- OUTT of a queue falls by 1, in its slot or, unmapped, in its QCB (R298). -/
def dropOutt (q : Nat) (s : State) : State :=
  match s.slotOf q with
  | some (d, i) => onSlot d i (fun x => { x with outt := x.outt - 1 }) s
  | none =>
    let a := s.qcbKey q
    let n := rdNat s.mem (a + 24) 2 - 1
    qcbUpdate q (fun m a => wrNat m (a + 24) 2 n) (journal (Fin.ofNat 4 q) 3 q (n + rdNat s.mem a 4 * 2 ^ 64) s)

/-- The key of a virtual address of a context, where its Chart translates it. -/
def State.vaKey (s : State) (n va : Nat) : Option Nat :=
  match mget n s.contexts with
  | none => none
  | some x => match s.walk x va with
    | .ok l => some (l.keyOf va)
    | .error _ => none

/-- An atomic that the scheduler performs on a signal of 8 bytes in a page of a context, from core `c` of the acting die: the
line is read under the page's key and its check, and A and D are set (R67, R91, R104, R296, R298). -/
def signalAtomic (c : CoreId) (l : Leaf) (va : Nat) (f : Nat → Nat) (s : State) : State :=
  let k := tagged l.tag (l.keyOf va)
  let s := reachHome (dieOf c) 0 (va - va % 64) (k / 64) s
  (atomicHome c 0 k 8 f (markWrite c 0 [l] [l.keyOf va / 64] s)).2

/-- The scheduler's −1 to a team's completion signal, and bit 63 after a fault (R25, R119, R298, R375). -/
def signalTeam (c : CoreId) (m : Team) (s : State) : State :=
  match (if m.csig = 0 then none else mget m.ctx s.contexts) with
  | none => s
  | some x =>
    match s.walk x m.csig with
    | .error _ => s
    | .ok l =>
      let s := signalAtomic c l m.csig (fun v => (v + 2 ^ 64 - 1) % 2 ^ 64) s
      if m.faulted then signalAtomic c l m.csig (fun v => v ||| 2 ^ 63) s else s

/-- The PREOVER entry of a request that is served after its deadline, for its team's context and by its waiter's home die
(R408). -/
def overrun (ctx : Nat) (p : Preempt) (s : State) : State :=
  let w := ((mget p.waiter s.teams).map (·.ctx)).getD ctx
  let d : DieId := ((mget w s.contexts).map (·.home)).getD 0
  if p.ovfl then schedEntry d 4 0 0 ctx p.team (s.cycle - p.deadline.getD s.cycle) p.action s else s

/-- A team whose live-task count is 0 is complete: its signal takes −1, and bit 63 after a fault; its queue and its
context lose a team, and a request on it is served (R25, R119, R298, R375, R408). -/
def completeTeam (c : CoreId) (n : Nat) (s : State) : State :=
  match mget n s.teams with
  | none => s
  | some m =>
    if m.live != 0 then s
    else
      let s := signalTeam c m s
      let s := match m.queue with
        | some q => dropOutt q s
        | none => s
      let s := s.onCtx m.ctx fun x => { x with lteam := x.lteam - 1 }
      let s := (s.preempts.filter (·.team == n)).foldl (fun s p => overrun m.ctx p s) s
      { s with teams := mdel n s.teams, preempts := s.preempts.filter fun p => p.team != n }

/-- A task counts as retired: it leaves its team and its domains (R25, R37, R372 step 7). -/
def countRetired (c : CoreId) (tid : Nat) (s : State) : State :=
  match mget tid s.tasks with
  | none => s
  | some t =>
    let s := { s with tasks := mdel tid s.tasks, snaps := s.snaps.filter fun e => e.task != tid }
    let s := s.onTeam t.record.team fun m => { m with live := m.live - 1 }
    completeTeam c t.record.team (checkFlips t.record.team s)

/-! ## Leaving a core and starting on one -/

/-- A counter of 48 bits plus `v`, and whether it wraps (R310). -/
def count48 (n v : Nat) : Nat × Bool := ((n + v) % 2 ^ 48, decide (2 ^ 48 ≤ n + v))

/-- A counter of a context, by its number in R314: 0 to 15 ACCT, 16 to 31 TOKQ, 32 to 35 QFULL, 36 DISC. -/
def Context.count (x : Context) (i v : Nat) : Context :=
  if v = 0 then x
  else
    let old : Nat :=
      if i < 16 then x.acct.toList.getD i 0 else if i < 32 then x.tokq.toList.getD (i - 16) 0
      else if i < 36 then x.qfull.toList.getD (i - 32) 0 else x.disc
    let (n, o) := count48 old v
    let x := if o && !x.ovfl.contains i then { x with ovfl := i :: x.ovfl } else x
    if i < 16 then { x with acct := x.acct.setIfInBounds i n }
    else if i < 32 then { x with tokq := x.tokq.setIfInBounds (i - 16) n }
    else if i < 36 then { x with qfull := x.qfull.setIfInBounds (i - 32) n }
    else { x with disc := n }

/-- A core's accumulators are added to its context's entry (R310). -/
def flushAccounts (c : CoreId) (s : State) : State :=
  let k := s.core c
  let s := match k.task.bind fun t => mget t s.tasks with
    | none => s
    | some t => s.onCtx t.record.ctx fun x => k.acct.toList.zipIdx.foldl (fun (x : Context) (e : Nat × Nat) => x.count e.2 e.1) x
  s.onCore c fun k => { k with acct := Vector.replicate 36 0, flushed := s.cycle }

/-- The slots of the core charge a cause for its task in this cycle (R309, R372); DISC counts those charges where the
task is halved or discarded (R313). -/
def owe (c : CoreId) (why : Cause) (disc : Bool) (s : State) : State :=
  let k := s.core c
  match k.task.bind fun t => mget t s.tasks with
  | none => s
  | some t => s.onCore c fun k => { k with owed := some (s.cycle, t.record.ctx, why, k.seqs.map (·.pos), disc) }

/-- A task that a CSW on the core has taken from the scheduler, and that has not been loaded, is queued again without its leases:
the CSW has not been completed (R209). DESIGN CHOICE (log 90): the spec does not say what becomes of the record. -/
def returnTaken (c : CoreId) (s : State) : State :=
  let taken (t : Nat × Task) : Bool := t.2.standing == .staged c && ((s.core c).shadow.map (·.1)) != some t.1
  (s.tasks.filter taken).foldl (fun s t => dropLeases t.1 (s.onTask t.1 fun t => { t with standing := .queued })) s

/-- The task's charges go to its context's entry (R310). The core then holds no task: its registers, regions, queues and slots are released, and published
dirty lines of its cache region are written on (R40, R71, R372). -/
def vacate (c : CoreId) (s : State) : State :=
  let s := match (s.core c).task with
    | some t => dropLeases t s
    | none => s
  let s := cumulate c 3 (fun _ => true) (flushAccounts c (returnTaken c s))
  s.onCore c fun k => { Core.reset with
    counters := k.counters, zero := k.zero, pmcs := k.pmcs, runs := k.runs, shadow := k.shadow,
    flushed := k.flushed, ovfl := k.ovfl, owed := k.owed, left := k.left
    lastImages := k.lastImages, gateStarts := k.gateStarts, under := k.under, endFaults := k.endFaults, endHolds := k.endHolds
    engines := k.engines.map fun e => { e with cmds := e.cmds.filter fun m => some m.task != k.task } }

/-- A fault at placement: ENG 14, position 0 (R367, R368). -/
def placeFault (c : CoreId) (cause i0 i1 : Nat) (s : State) : State :=
  raiseOn c ⟨cause, .ctl, 14, 0, 0, i0, i1, false⟩ s

/-- The object that a slot of a core names. -/
def State.slotRefOn (s : State) (c : CoreId) (k : KReg) : BarRef :=
  let b := (s.core c).slots.get k
  ⟨b.spad, c, ((s.taskOn c).map (·.record.ctx)).getD 0, b.addr⟩

/-- NWAIT of an object changed (R112, R116). -/
def addWaiter (c : CoreId) (k : KReg) (up : Bool) (s : State) : State :=
  let r := s.slotRefOn c k
  let w := s.barRead r
  let n := barNwait w
  barWrite c r (w - n * 2 ^ 72 + (if up then n + 1 else n - 1) % 65536 * 2 ^ 72) s

/-- A task that leaves its core is no waiter of a barrier object any more (R112). -/
def unwait (c : CoreId) (s : State) : State :=
  match ((s.core c).seq .ctl).acting with
  | some (.barrier k) => addWaiter c k false (s.onCore c fun k => k.onSeq .ctl fun q => { q with acting := none })
  | _ => s

/-- The pages that an image fetch reads are marked (R67, R80), and its lines meet their checks (R388). -/
def touchPages (d : DieId) (ctx va n : Nat) (s : State) : State :=
  match (mget ctx s.contexts).bind fun x => s.leaves x (n / 4096 + 2) va (va + n) with
  | none => s
  | some ls => ls.foldl (fun s l =>
      let lo := Nat.max va l.1
      let hi := Nat.min (va + n) (l.1 + l.2.size)
      let mine (k : Nat) : Bool := decide (l.2.base + (lo - l.1) < k + 64) && decide (k < l.2.base + (hi - l.1))
      markLeaf d l.2 false ((hi + 63) / 64 - lo / 64) (meetRange d ctx l.2.tag l.2.vaOf mine s)) s

/-- A poisoned line among `n` bytes that an image fetch has read through a buffer with INTEG = 1 (R390). -/
def State.fetchBad (s : State) (d : DieId) (ctx va n : Nat) (ex : Bool) : Bool :=
  match (mget ctx s.contexts).map fun x => s.fetchKeys d ctx x va n ex with
  | some (.ok (ks, 1, _)) => (linesOf ks).any s.isPoisoned
  | _ => false

/-- The cycle by which every move has ended of a page that a task's placement reads: an access to a page in motion waits (R81,
R380). -/
def State.loadWait (s : State) (t : Task) : Nat :=
  let r := t.record
  let heads (va n : Nat) : List Nat := ((mget r.ctx s.contexts).bind fun x => s.leaves x (n / 4096 + 2) va (va + n)).elim []
    fun ls => ls.map (·.2.head)
  let hs := heads r.img 4194304 ++ if r.rimg = 0 || r.resume then [] else heads r.rimg 1616
  if s.moves.isEmpty then 0 else (s.moves.filter fun m => hs.contains m.1).foldl (fun n m => Nat.max n (m.2.till + 1)) 0

/-- What a plane holds whose loading found a fault. -/
def refusedPlane (cause i0 i1 : Nat) : Staged := ⟨Plane.empty, some (cause, i0, i1), [], []⟩

/-- A saved run and its poisoned lines with a plane; a reserved bit of it is a fault (R6, R49). -/
def stagedRun (p : Plane) (run : Memory × List Nat) : Staged :=
  match savedSpare run.1 with
  | some b => refusedPlane 0x02 (spareInfo (rdNat run.1 0 4096) b).1 b
  | none => ⟨p, none, run.1, run.2⟩

/-- A saved run is read and staged with a plane. -/
def stageRun (c : CoreId) (t : Task) (p : Plane) (s : State) : Staged × State :=
  match mget t.record.ctx s.contexts with
  | none => (⟨p, none, [], []⟩, s)
  | some x => (stagedRun p (readSaved (dieOf c) x t s).1, (readSaved (dieOf c) x t s).2)

/-- A plane is loaded for a task (R39): its image is read and checked (R367, R368), and its register image or its saved
run is staged. DEDUCED (log 91): a poisoned line that the loader reads through a buffer with INTEG = 1 is an IMGREAD with the
code of CHECK. -/
def stageTask (c : CoreId) (tid : Nat) (s : State) : Staged × State :=
  match mget tid s.tasks with
  | none => (refusedPlane 0 0 0, s)
  | some t =>
    let r := t.record
    match s.readImage (dieOf c) r.ctx r.img with
    | .error cause => (refusedPlane 0x2D r.img cause, s)
    | .ok g =>
      let s := touchPages (dieOf c) r.ctx r.img g.bytes.length s
      if s.fetchBad (dieOf c) r.ctx r.img g.bytes.length true then (refusedPlane 0x2D r.img 0x29, s)
      else
      match s.registerImage (dieOf c) r g with
      | .error cause => (refusedPlane 0x2D r.rimg cause, s)
      | .ok reg =>
        let given := r.rimg != 0 && !r.resume
        let s := if given then touchPages (dieOf c) r.ctx r.rimg 1616 s else s
        if given && s.fetchBad (dieOf c) r.ctx r.rimg 1616 false then (refusedPlane 0x2D r.rimg 0x29, s)
        else
        match imageFault g r.part (if r.resume then none else some reg) with
        | some 0 => (refusedPlane 0x15 r.part 0, s)
        | some n => (refusedPlane 0x03 n r.img, s)
        | none =>
          match registerSpare r reg with
          | some b => (refusedPlane 0x02 (spareInfo (leNat reg) b).1 b, s)
          | none =>
            let p := g.plane reg r.img
            if r.resume then stageRun c t p s else (⟨p, none, [], []⟩, s)

/-- A staged plane becomes active (R39 to R41, R49): the task's registers, token counts and regions come from it, and its
DMR from the register image or the run; a child of a gang's halving keeps its parent's domains (R38). The run's blocks
are free again (R86). -/
def activate (c : CoreId) (tid : Nat) (st : Staged) (s : State) : State :=
  match mget tid s.tasks with
  | none => s
  | some t =>
    let r := t.record
    let p := st.plane
    let s := s.onCore c fun k =>
      let k' := k.begin p.file p.reg r.part
      { k' with task := k.task, mode := k.mode, lastImages := k.lastImages, plane := p }
    if r.resume then
      let s := s.onCore c fun k => restoreCore st.run st.bad t.stops t.regRun k
      let s := match t.arrived, t.phaseBar with
        | some l, _ => s.onCore c fun k => k.onSeq .ctl fun q => { q with acting := some (.phase l) }
        | none, some b => addWaiter c b true (s.onCore c fun k => k.onSeq .ctl fun q => { q with acting := some (.barrier b) })
        | none, none => s
      let s := match mget r.ctx s.contexts with
        | none => s
        | some x => freeRun x (r.rimg / 4096) (savedBlocks st.run t.regRun) s
      s.onTask tid fun t => { restoreTask st.run t.regRun t with
        record := { t.record with resume := false }, regRun := false, stops := [], phaseBar := none }
    else s.onTask tid fun t => { t with
      tleft := r.atime
      dmr := if t.half then t.dmr else BitVec.ofNat 64 (leNat ((p.reg.drop 1608).take 8)) }

/-- A task starts on a core with what was staged for it (R39 to R41, R49). It issues from cycle `till`. `half` marks the
first child of a halving, which loads nothing (R302, R309). -/
def beginTask (c : CoreId) (tid till : Nat) (half : Bool) (st : Staged) (s : State) : State :=
  match mget tid s.tasks with
  | none => s
  | some t =>
    let r := t.record
    let ev := ((mget r.ctx s.contexts).map (·.evpend)).getD false
    let s := if ev then s.onCtx r.ctx fun x => { x with evpend := false } else s
    let s := s.onTask tid fun t => { t with standing := .running c, event := t.event || ev, charged := 0 }
    let s := s.onTeam r.team fun m => { m with placedAt := s.cycle }
    let s := s.onCore c fun k => { k with
      task := some tid, mode := .load (Nat.max till (s.loadWait t)) (half || r.resume), ended := false
      engines := k.engines.map fun e => { e with next := 0 }
      lastImages := if half then k.lastImages else (r.img :: k.lastImages).take 2 }
    let s := acquireAt c 5 (fun _ => true) s
    match st.fault with
    | some (cause, i0, i1) => placeFault c cause i0 i1 s
    | none => activate c tid st s

/-- A task is placed on a core that has none (R39, R40, R49). -/
def startTask (c : CoreId) (tid till : Nat) (half : Bool) (s : State) : State :=
  let r := stageTask c tid s
  beginTask c tid till half r.1 r.2

/-- A core that has lost its task takes the task staged in its shadow plane, if any, as it was staged (R39, R41). -/
def takeShadow (c : CoreId) (s : State) : State :=
  match (s.core c).shadow with
  | none => s
  | some (tid, st) => beginTask c tid (s.cycle + 1) false st (s.onCore c fun k => { k with shadow := none })

/-! ## Halving and discarding -/

/-- The split axis of R45: the first in HORD, read position by position, whose extent is at least twice its grain;
code 3 ends the list, and an axis at NDIM or above or already read is skipped. -/
def splitAxis (r : TaskRec) : List Nat → List Nat → Option (Fin 3)
  | [], _ => none
  | i :: rest, seen =>
    let code := fld r.hord (2 * i) 2
    if hc : code < 3 then
      if r.ndim ≤ code || seen.contains code then splitAxis r rest seen
      else if 2 * r.gr.get ⟨code, hc⟩ ≤ r.hi.get ⟨code, hc⟩ - r.lo.get ⟨code, hc⟩ then some ⟨code, hc⟩
      else splitAxis r rest (code :: seen)
    else none

/-- The two records of a split (R44 step 6, R45). -/
def splitRecord (r : TaskRec) (a : Fin 3) : TaskRec × TaskRec :=
  let lo := r.lo.get a
  let hi := r.hi.get a
  let g := r.gr.get a
  let mid := lo + g * ((hi - lo) / (2 * g))
  let r := { r with depth := r.depth + 1, resume := false }
  ({ r with hi := r.hi.set a.val mid a.isLt }, { r with lo := r.lo.set a.val mid a.isLt })

/-- Steps 1 to 4 of R44 for a core's task: queues flushed, provisional lines and held updates gone; its charges go
to DISC, and those that its core still makes in this cycle follow (`owe`, R313). It waits for no barrier any more. -/
def stopTask (c : CoreId) (s : State) : State :=
  match (s.core c).task with
  | none => s
  | some tid =>
    match mget tid s.tasks with
    | none => s
    | some t =>
      let s := unwait c s
      let s := s.onTask tid fun t => { t with epochs := [], held := [], charged := 0, event := false, phased := false }
      s.onCtx t.record.ctx fun x => x.count 36 t.charged

/-- A slot's stop record takes an END code, where it has none (R326). -/
def StopSlot.ends (code : Nat) (x : StopSlot) : StopSlot :=
  if fld x.bits.toNat 47 3 == 0 then { x with bits := BitVec.ofNat 256 (x.bits.toNat + code * 2 ^ 47) } else x

/-- A stop record takes its END code when the stopped task leaves the stop (R324, R326). -/
def endStop (c : CoreId) (code : Nat) (s : State) : State :=
  s.onDie (dieOf c) fun d =>
    { d with
      stops := Vector.ofFn fun i =>
        if d.stopsOf.get i == some c then (d.stops.get i).ends code else d.stops.get i
      stopsOf := d.stopsOf.map fun o => if o == some c then none else o }

/-- A core's stopped task goes on: its engines and sequencers, or the delivery of its fault from step 5 (R324, R372). -/
def resumeStop (c : CoreId) (s : State) : State :=
  (endStop c 1 s).onCore c fun k =>
    let back := (k.stopFrom.map Mode.drain).getD .run
    let k := { k with stopAt := none, stopGo := false, stopFrom := none }
    if k.faults.isEmpty then { k with mode := back } else { k with mode := .fault, resumed := true }

/-- A discard (R47): the task is requeued with its record unchanged and its queue age kept. -/
def discardTask (c : CoreId) (as : Standing) (s : State) : State :=
  match (s.core c).task with
  | none => s
  | some tid =>
    let s := owe c (if as == .faultHeld then .trap else .preempt) true (endStop c 3 s)
    takeShadow c (vacate c ((stopTask c s).onTask tid fun t => { t with standing := as, arrived := none }))

/-- The team of a record is in gang mode (R38, R46). -/
def State.gangTeam (s : State) (r : TaskRec) : Bool := ((mget r.team s.teams).map (·.gang)).getD false

/-- A halving (R44): two children replace the task; the first starts on its core from the plane that it holds, and the
second is queued. -/
def halveTask (c : CoreId) (a : Fin 3) (s : State) : State :=
  match (s.core c).task with
  | none => s
  | some tid =>
    match mget tid s.tasks with
    | none => s
    | some t =>
      let s := stopTask c (owe c .switch true (endStop c 2 s))
      let warm := (s.core c).plane
      let (r1, r2) := splitRecord t.record a
      let child (r : TaskRec) : Task := { t with
        record := r, standing := .queued, event := false, phased := false, arrived := none, epochs := [], held := [],
        tleft := r.atime, leased := [], charged := 0, regRun := false, stops := [], half := s.gangTeam r }
      let n := s.nextTask
      let s := vacate c s
      let s := { s with tasks := mput (n + 1) (child r2) (mput n (child r1) (mdel tid s.tasks)), nextTask := n + 2 }
      let s := s.onTeam t.record.team fun m => { m with live := m.live + 1 }
      let s := grantLeases n s
      beginTask c n (s.cycle + 1) true ⟨warm, none, [], []⟩ s

/-- A task that runs on beneath another is halved: its commands are gone and both children are queued (R41, R44). -/
def halveBeneath (c : CoreId) (tid : Nat) (a : Fin 3) (s : State) : State :=
  match mget tid s.tasks with
  | none => s
  | some t =>
    let (r1, r2) := splitRecord t.record a
    let child (r : TaskRec) : Task := { t with
      record := r, standing := .queued, event := false, phased := false, arrived := none, epochs := [], held := [],
      tleft := r.atime, leased := [], charged := 0, regRun := false, stops := [], half := s.gangTeam r }
    let n := s.nextTask
    let s := dropLeases tid s
    let s := s.onCtx t.record.ctx fun x => x.count 36 t.charged
    let s := s.onCore c fun k => { k with
      under := k.under.filter (·.task != tid)
      engines := k.engines.map fun e => { e with cmds := e.cmds.filter (·.task != tid) } }
    let s := { s with tasks := mput (n + 1) (child r2) (mput n (child r1) (mdel tid s.tasks)), nextTask := n + 2 }
    s.onTeam t.record.team fun m => { m with live := m.live + 1 }

/-- The heads of a core have still to be looked at in this cycle, before an event that is no issue stops it (R376). -/
def State.awaitsHeads (s : State) (c : CoreId) : Bool :=
  s.cur.kind != .issue && s.cur.kind != .heads && s.agenda.any fun t => t.kind == .heads && t.core == c

/-- A task meets an allowance (R44, R363): an unpinned task is halved, unless a fault wins (R376), or raises DEPTH or GRAIN; a
pinned one raises ALLOWANCE. `which` is 0 scratchpad, 1 register, 2 write, 3 time; `rs` raises the fault of the act. -/
def exhaust (c : CoreId) (tid which request : Nat) (rs : Nat → Nat → Nat → State → State) (s : State) : State :=
  match mget tid s.tasks with
  | none => s
  | some t =>
    if t.pinned then rs 0x10 which request s
    else if t.record.depth = 16 then rs 0x12 which t.record.depth s
    else
      match splitAxis t.record [0, 1, 2] [] with
      | none => rs 0x11 which (t.record.lo.get 0) s
      | some a =>
        if (s.core c).task != some tid then halveBeneath c tid a s
        else if (s.core c).mode == .fault then s
        else if s.awaitsHeads c then s.onCore c fun k => { k with halving := some a }
        else stall .switch 0 (halveTask c a s)

/-- A task's provisional footprint stays within AWR, or the act meets the write allowance (R44). -/
def withinWrites (c : CoreId) (tid : Nat) (rs : Nat → Nat → Nat → State → State) (s next : State) : State :=
  match mget tid next.tasks with
  | none => next
  | some t => if t.record.awr < t.footLines.length then exhaust c tid 2 t.footLines.length rs s else next

/-- A record becomes a queued task: its leases and DMR come from its register image (R25, R27, R36, R298). -/
def makeTask (r : TaskRec) (ready csig : Nat) (s : State) : State :=
  let d : DieId := ((mget r.ctx s.contexts).map (·.home)).getD 0
  let reg := match s.readImage d r.ctx r.img with
    | .error _ => List.replicate 1616 0
    | .ok g => match s.registerImage d r g with
      | .error _ => List.replicate 1616 0
      | .ok b => b
  let read := (s.readImage d r.ctx r.img).toOption.elim 0 (·.bytes.length)
  let s := if read = 0 then s else touchPages d r.ctx r.img read s
  let s := if read = 0 || r.rimg = 0 || r.resume then s else touchPages d r.ctx r.rimg 1616 s
  let t : Task := {
    record := r, dmrNext := none, dmr := BitVec.ofNat 64 (leNat ((reg.drop 1608).take 8)), standing := .queued, ready := ready,
    inherited := 7, aged := 0, event := false, pinned := false, phased := false, arrived := none, epochs := [], held := [],
    tleft := r.atime, leased := [], grants := grantsOf r reg, phaseBar := none, bcopies := 0, charged := 0,
    csig := csig, regRun := false, stops := [], half := false }
  { s with tasks := mput s.nextTask t s.tasks, nextTask := s.nextTask + 1 }

end Sys2Proof.Machine
end

