-- ==== Sys2Proof/Machine/Trace.lean ====
section
/-! DEFINITION. The Binnacle: charges (R307 to R313), programmable counters (R315, R316), trace records, runs and windows
(R317 to R322). -/

namespace Sys2Proof.Machine

/-! ## Trace records (R317, R318, R322) -/

/-- The die's trace block changed. -/
def onTrace (d : DieId) (f : Trace → Trace) (s : State) : State := s.onDie d fun x => { x with trace := f x.trace }

/-- A record of R318. -/
def traceRecord (ctx seq cause sub core : Nat) (cont : Bool) (kind a b c : Nat) : Nat :=
  ctx + seq * 2 ^ 16 + cause * 2 ^ 18 + sub * 2 ^ 22 + core * 2 ^ 26 + b2n cont * 2 ^ 35 + kind * 2 ^ 36
    + a % 2 ^ 24 * 2 ^ 40 + b % 2 ^ 32 * 2 ^ 64 + c % 2 ^ 32 * 2 ^ 96

/-- A record is lost (R320, R415). -/
def loseRecord (t : Trace) : Trace := { t with loss := Nat.min (t.loss + 1) (2 ^ 32 - 1), lossNew := t.lossNew + 1 }

/-- The key ID of a record about a context, and whether it is a confidential one (R322). -/
def State.recordKey (s : State) (d : DieId) (ctx : Nat) : Nat × Bool :=
  match mget ctx s.contexts with
  | some x => if x.conf then (x.keyid, true) else ((s.die d).trace.key, false)
  | none => ((s.die d).trace.key, false)

/-- A record about a context can be written: its key ID holds a key and the path to its place has not failed (R415). -/
def State.canRecord (s : State) (d : DieId) (ctx : Nat) : Bool :=
  let t := (s.die d).trace
  ((s.keys[(s.recordKey d ctx).1]?).bind id).isSome && (s.linkFail d (t1 (t.base + 16 * (t.wp % 2 ^ t.log)))).isNone

/-- A record about context `ctx` is written, at most four in a cycle, with its tag byte (R317, R320, R322, R415). That of a
context with CONF = 0 stands under TRKEY, as the tag of its line says (R91, R322; DEDUCED, log 85). -/
def writeRecord (d : DieId) (ctx rec : Nat) (s : State) : State :=
  let t := (s.die d).trace
  if !t.en then s
  else
    let (kid, conf) := s.recordKey d ctx
    let i := t.wp % 2 ^ t.log
    let pa := t.base + 16 * i
    if 4 ≤ t.inCycle || !s.canRecord d ctx then onTrace d loseRecord s
    else
      let bs := leBytes 16 rec
      let m := wrBytes s.mem (t1 pa) (if conf then encUnits (s.keyOf kid) pa 1 bs else bs)
      let m := wrByte m (t1 (t.base + 16 * 2 ^ t.log + i)) (BitVec.ofNat 8 (kid + b2n conf * 128))
      let ks := if conf then s.lineKeys else mput (t1 pa / 64) (kid, s.keyOf kid) s.lineKeys
      onTrace d (fun t => { t with wp := (t.wp + 1) % 2 ^ 32, inCycle := t.inCycle + 1 }) { s with mem := m, lineKeys := ks }

/-- The place of a record among those made in its cycle: runs and samples by CORE, then SEQ, before the others (R321). -/
def recordPlace (rec : Nat) : Nat :=
  if fld rec 36 4 = 0 || fld rec 36 4 = 6 then 4 * fld rec 26 9 + fld rec 16 2 else 4 * 2 ^ 9

/-- A record set into its place, before the later ones of its place. -/
def insertRecord (r : Nat × Nat) : List (Nat × Nat) → List (Nat × Nat)
  | [] => [r]
  | e :: es => if recordPlace r.2 ≤ recordPlace e.2 then r :: e :: es else e :: insertRecord r es

/-- The records made so far in this cycle are written, in R321's order. -/
def writeMade (d : DieId) (s : State) : State :=
  ((s.die d).trace.made.foldr insertRecord []).foldl (fun s r => writeRecord d r.1 r.2 s)
    (onTrace d (fun t => { t with made := [] }) s)

/-- A record about context `ctx` is made, with EN = 1; it is written as its cycle ends (R317, R320, R321). -/
def putRecord (d : DieId) (ctx rec : Nat) (s : State) : State :=
  if (s.die d).trace.en then onTrace d (fun t => { t with made := t.made ++ [(ctx, rec)] }) s else s

/-- A record of a note, a window, a loss or the time, which names no context (R318). -/
def putPlain (d : DieId) (kind b c : Nat) (s : State) : State := putRecord d 0 (traceRecord 0 0 0 0 0 false kind 0 b c) s

/-! ## Runs (R319) -/

/-- SEQM and FCTX admit a charge (R315, R317). -/
def admitted (seqm : Nat) (fctx : Nat) (q : Fin 4) (ctx : Nat) : Bool := bitAt seqm q.val && (fctx == 0 || fctx == ctx)

/-- The record of a run that ends before cycle `now`, where a window records it. -/
def endRun (c : CoreId) (q : Fin 4) (r : Run) (now : Nat) (s : State) : State :=
  let d := dieOf c
  let t := (s.die d).trace
  if t.openW && admitted t.seqm.toNat t.fctx q r.ctx && decide (r.ts < now) then
    putRecord d r.ctx (traceRecord r.ctx q.val r.cause.code.val r.sub c.val r.cont 0 r.pc (now - r.ts) r.ts) s
  else s

/-- A sequencer's run changed. -/
def setRun (c : CoreId) (q : Fin 4) (r : Option Run) (s : State) : State :=
  s.onCore c fun k => { k with runs := k.runs.set q.val r q.isLt }

/-- A charge goes on with a run, or ends it and starts another; `nxt` is the position that an ISSUE run goes on
with. -/
def chargeRun (c : CoreId) (q : Fin 4) (ctx : Nat) (why : Cause) (sub pos nxt : Nat) (s : State) : State :=
  let fresh (cont : Bool) : Run := ⟨ctx, why, sub, pos, pos, nxt, s.cycle, cont⟩
  match (s.core c).runs.get q with
  | none => setRun c q (some (fresh false)) s
  | some r =>
    if r.ctx = ctx && r.cause == why && r.sub = sub && r.next = pos then
      if s.cycle - r.ts = 2 ^ 32 - 1 then setRun c q (some (fresh true)) (endRun c q r s.cycle s)
      else setRun c q (some { r with last := pos, next := nxt }) s
    else setRun c q (some (fresh false)) (endRun c q r s.cycle s)

/-! ## Windows (R319, R320) -/

/-- The cores of a die. -/
def coresOf (d : DieId) : List CoreId := (List.finRange 288).filter fun c => dieOf c == d

/-- Every run of a die changed. -/
def mapRuns (d : DieId) (f : Run → Run) (s : State) : State :=
  (coresOf d).foldl (fun s c => s.onCore c fun k => { k with runs := k.runs.map fun r => r.map f }) s

/-- The head number of an engine queue for a task: its oldest command that has not started, or the next number
(R325). -/
def headNumber (q : EngineQ) (tid next : Nat) : Nat :=
  ((q.cmds.find? fun m => m.task == tid && !m.started).map (·.num)).getD next % 2 ^ 16

/-- A sample record of a sequencer (R318). -/
def sampleRecord (c : CoreId) (q : Fin 4) (s : State) : State :=
  let k := s.core c
  let d := dieOf c
  let tr := (s.die d).trace
  match k.runs.get q with
  | none => s
  | some r =>
    if !admitted tr.seqm.toNat tr.fctx q r.ctx then s
    else
      let tid := k.task.getD 0
      let h (e : Engine) : Nat := headNumber (k.engine e) tid (k.engine e).next
      putRecord d r.ctx (traceRecord r.ctx q.val r.cause.code.val r.sub c.val false 6 r.last
        (h .load + h .vector * 2 ^ 16) (h .matrix + h .store * 2 ^ 16)) s

/-- The samples of a cycle with CYCLE mod SPER = 0: one of each admitted sequencer of the die's cores (R319). -/
def sampleAll (d : DieId) (s : State) : State :=
  let t := (s.die d).trace
  if t.openW && t.sper != 0 && s.cycle % t.sper = 0 then
    (coresOf d).foldl (fun s c => (List.finRange 4).foldl (fun s q => sampleRecord c q s) s) s
  else s

/-- A window opens: runs going on are recorded from this cycle with CONT = 1, and this cycle has its samples (R318, R319). -/
def openWindow (d : DieId) (s : State) : State :=
  let now := s.cycle
  let s := mapRuns d (fun r => if r.ts < now then
      { r with ts := now, cont := true, pc := r.last } else r) s
  let s := sampleAll d (onTrace d (fun t => { t with openW := true, wpOpen := t.wp, openedAt := now }) s)
  putPlain d 5 now (now / 2 ^ 32) (putPlain d 2 0 now s)

/-- A window closes: runs going on are recorded up to the last cycle (R319). -/
def closeWindow (d : DieId) (s : State) : State :=
  let s := (coresOf d).foldl (fun s c => (List.finRange 4).foldl (fun s q =>
    match (s.core c).runs.get q with
    | none => s
    | some r => endRun c q r s.cycle s) s) s
  onTrace d (fun t => { t with openW := false }) (putPlain d 3 0 s.cycle s)

/-- A die whose trace block has nothing to do as a cycle ends. -/
def Trace.still (t : Trace) : Bool := t.made.isEmpty && t.lossNew == 0 && !t.start && !t.stop && t.inCycle == 0

/-- The loss record of the records lost before this cycle is among those that this cycle writes, once there is room for it
(R320). -/
def addLoss (d : DieId) (s : State) : State :=
  let t := (s.die d).trace
  if t.en && t.lossNew != 0 && decide (t.made.length < 4) && s.canRecord d 0 then
    putPlain d 4 t.lossNew s.cycle (onTrace d (fun t => { t with lossNew := 0 }) s)
  else s

/-- The records of this cycle fill the ring of an open window in MODE 1 (R320). -/
def State.ringFills (s : State) (d : DieId) : Bool :=
  let t := (s.die d).trace
  let n := Nat.min 4 (t.made.filter fun r => s.canRecord d r.1).length
  t.en && t.openW && t.mode && decide (2 ^ t.log ≤ (t.wp + n + 2 ^ 32 - t.wpOpen) % 2 ^ 32)

/-- The end of a cycle in a die's trace block: its triggers, a stop before a start; a loss record where there is room; a
ring that this cycle's records fill, which is a stop; and those records, with the runs that a closing window ends, in R321's
order (R320, R321). -/
def traceTick (d : DieId) (s : State) : State :=
  if (s.die d).trace.still then s
  else
    let t := (s.die d).trace
    let s := if t.en && t.stop && t.openW then closeWindow d s
      else if t.en && t.start && !t.stop && !t.openW then openWindow d s
      else s
    let s := addLoss d s
    let s := if s.ringFills d then closeWindow d s else s
    onTrace d (fun t => { t with inCycle := 0, start := false, stop := false }) (writeMade d s)

/-! ## Charges (R307 to R316) -/

/-- A charge matches a programmable counter (R315). -/
def Pmc.counts (p : Pmc) (q : Fin 4) (ctx : Nat) (why : Cause) (sub : Nat) : Bool :=
  let w := p.config.toNat
  bitAt w 13 && fld w 0 4 == why.code.val && (!bitAt w 8 || fld w 4 4 == sub) && admitted (fld w 9 4) (fld w 16 16) q ctx

/-- A counter with `v` matching charges. -/
def Pmc.add (p : Pmc) (v : Nat) : Pmc :=
  let r := count48 p.cnt v
  { p with cnt := r.1, ovf := p.ovf || r.2 }

/-- A core's own counters take `v` charges of a cause under a context (R311, R315). -/
def Core.tally (k : Core) (q : Fin 4) (ctx : Nat) (why : Cause) (sub v : Nat) : Core :=
  let (n, o) := count48 (k.counters.get why.code) v
  let (z, oz) := if ctx = 0 then count48 k.zero v else (k.zero, false)
  { k with
    counters := k.counters.set why.code.val n why.code.isLt, zero := z
    ovfl := (if o && !k.ovfl.contains why.code.val then [why.code.val] else [])
      ++ (if oz && !k.ovfl.contains 38 then [38] else []) ++ k.ovfl
    pmcs := k.pmcs.map fun p => if p.counts q ctx why sub then p.add v else p }

/-- The accumulators of a core with one charge. -/
def Core.accumulate (k : Core) (why : Cause) (sub : Nat) : Core :=
  let up (a : Vector Nat 36) (i : Nat) : Vector Nat 36 := a.setIfInBounds i (a.toList.getD i 0 + 1)
  let a := up k.acct why.code.val
  { k with acct := match why with
    | .token => up a (16 + sub)
    | .queueFull => up a (32 + sub)
    | _ => a }

/-- The one charge of a sequencer in a cycle, for the core's task or, with none, for context 0 (R307, R309). -/
def charge (c : CoreId) (q : Fin 4) (why : Cause) (sub pos nxt : Nat) (s : State) : State :=
  match (s.core c).owed with
  | some (_, ctx, why, ps, disc) =>
    let s := s.onCore c fun k => k.tally q ctx why 0 1
    let s := s.onCtx ctx fun x => (x.count why.code.val 1).count 36 (b2n disc)
    chargeRun c q ctx why 0 (ps.get q) (ps.get q) s
  | none =>
    let ctx := ((s.taskOn c).map (·.record.ctx)).getD 0
    let s := s.onCore c fun k => (if ctx = 0 then k else k.accumulate why sub).tally q ctx why sub 1
    let s := s.onTask ((s.core c).task.getD 0) fun t => { t with charged := t.charged + 1 }
    chargeRun c q ctx why sub pos nxt s

/-- The run of an idle core's slot. -/
def isIdleRun : Option Run → Bool
  | some r => r.cause == .idle && r.ctx == 0
  | none => false

/-- A core whose four slots go on charging IDLE under context 0 (R309). -/
def Core.steadyIdle (k : Core) : Bool := k.task.isNone && k.mode == .idle && k.owed.isNone && k.runs.toList.all isIdleRun

/-- The charges of an idle core in one cycle (R309, R312). -/
def Core.chargeIdle (k : Core) : Core :=
  (List.finRange 4).foldl (fun k q => k.tally q 0 .idle 0 1) k

/-- An idle slot whose run is full goes on in a run with CONT = 1 (R319). -/
def fullIdle (c : CoreId) (s : State) : State :=
  (List.finRange 4).foldl (fun s q =>
    match (s.core c).runs.get q with
    | some r => if s.cycle - r.ts = 2 ^ 32 - 1 then chargeRun c q 0 .idle 0 r.pc r.pc s else s
    | none => s) s

/-- A reprogram takes effect in the next cycle (R316). -/
def Core.reprogrammed (k : Core) : Core :=
  { k with pmcs := k.pmcs.map fun p => match p.next with
    | some w => { p with config := w, next := none }
    | none => p }

end Sys2Proof.Machine
end

