-- ==== Sys2Proof/Machine/Bells.lean ====
section
/-! DEFINITION. Queues and their slots up to the packet: pending bits, unmapping (R292, R293), packet errors (R403),
kicks and the doorbell (R290, R404). -/

namespace Sys2Proof.Machine

/-! ## The QCB (R288) -/

/-- A number of `n` bytes at byte `o` of the QCB of a queue. -/
def State.qcb (s : State) (q o n : Nat) : Nat := rdNat s.mem (s.qcbKey q + o) n

/-- EN, MAPD and WBLK of a queue, its class, ring size and idle timeout. -/
def State.qEn (s : State) (q : Nat) : Bool := bitAt (s.qcb q 4 1) 4
def State.qMapd (s : State) (q : Nat) : Bool := bitAt (s.qcb q 27 1) 0
def State.qWblk (s : State) (q : Nat) : Bool := bitAt (s.qcb q 27 1) 1
def State.qLsz (s : State) (q : Nat) : Nat := fld (s.qcb q 5 1) 0 5

/-- The bits `lo` to `lo + len - 1` of a number replaced. -/
def putFld (w lo len v : Nat) : Nat := w - fld w lo len * 2 ^ lo + v % 2 ^ len * 2 ^ lo

/-- A QCB update that a slot or the Helm makes, in the journal first (R289, R300). -/
def updateQcb (q slot : Nat) (f : Memory → Nat → Memory) (s : State) : State :=
  qcbUpdate q f (journal (Fin.ofNat 4 q) 3 q (slot + s.qcb q 0 4 * 2 ^ 64) s)

/-- The pending bit of a queue, and the memory with it changed (R287). -/
def State.bitKey (s : State) (q : Nat) : Nat := t1 ((s.die (Fin.ofNat 4 q)).pbbase + q / 4 / 8)
def State.isPending (s : State) (q : Nat) : Bool := bitAt (rdByte s.mem (s.bitKey q)).toNat (q / 4 % 8)

/-- The pending bit of a queue is set. One with EN = 1 takes its place in the order of R292 and wakes a Helm core; another
is not mapped until its doorbell rings with EN = 1 (R293, R403). -/
def setPending (q : Nat) (s : State) : State :=
  let d : DieId := Fin.ofNat 4 q
  let v := (rdByte s.mem (s.bitKey q)).toNat + 2 ^ (q / 4 % 8)
  let t := if s.isPending q then s else { s with mem := wrByte s.mem (s.bitKey q) (BitVec.ofNat 8 v) }
  if !s.qEn q || (s.die d).pendOrder.contains q then t
  else
    let wake := s.cycle + Config.latency s.free
    t.tick.onDie d fun x =>
      { x with mapAt := if x.pendOrder.isEmpty then wake else x.mapAt, pendOrder := x.pendOrder ++ [q] }

/-- The pending bit of a queue is cleared (R292 step 3). -/
def clearPending (q : Nat) (s : State) : State :=
  let v := (rdByte s.mem (s.bitKey q)).toNat
  let v := if bitAt v (q / 4 % 8) then v - 2 ^ (q / 4 % 8) else v
  { s with mem := wrByte s.mem (s.bitKey q) (BitVec.ofNat 8 v) }.onDie (Fin.ofNat 4 q) fun x =>
    { x with pendOrder := x.pendOrder.filter (· != q) }

/-! ## Unmapping (R293) -/

/-- A slot is mapped: ACTIVE, ORDWAIT or WAITING. -/
def QSlot.mapped (x : QSlot) : Bool := x.state == 1 || x.state == 2 || x.state == 3

/-- A slot watches its signal no longer (R293, R294). -/
def unwatch (d : DieId) (i : Fin 256) (s : State) : State :=
  { s with watches := s.watches.filter fun (w : Watch) => !(w.die == d && w.slot == i) }

/-- The decision to unmap a slot, in the journal (R300). -/
def journalUnmap (d : DieId) (i : Fin 256) (s : State) : State :=
  let x := (s.die d).slots.get i
  journal d 2 x.queue (i.val + s.qcb x.queue 0 4 * 2 ^ 64) s

/-- A mapped slot is UNMAPPING from now on (R293, R294). -/
def setUnmapping (d : DieId) (i : Fin 256) (wblk : Bool) (s : State) : State :=
  if ((s.die d).slots.get i).mapped then
    onSlot d i (fun x => { x with state := 4, wblk := wblk, leaves := none }) (unwatch d i s)
  else s

/-- A slot of its own accord begins its unmap: the decision is in the journal, and the slot is UNMAPPING (R293, R294, R300). -/
def beginUnmap (d : DieId) (i : Fin 256) (wblk : Bool) (s : State) : State :=
  if ((s.die d).slots.get i).mapped then setUnmapping d i wblk (journalUnmap d i s) else s

/-- The Helm unmaps a slot: its decision is in the journal, and from a later cycle on the slot is UNMAPPING (R300, R410). -/
def helmUnmap (d : DieId) (i : Fin 256) (s : State) : State :=
  let x := (s.die d).slots.get i
  if x.mapped && x.leaves.isNone then onSlot d i (fun x => { x with leaves := some s.cycle }) (journalUnmap d i s) else s

/-- The Helm's update of the QCB of an UNMAPPING slot begins, in the journal first: SEQ is odd (R289, R300). -/
def openUnmap (i : Fin 256) (q : Nat) (s : State) : State :=
  let s := journal (Fin.ofNat 4 q) 3 q (i.val + s.qcb q 0 4 * 2 ^ 64) s
  { s with mem := wrNat s.mem (s.qcbKey q) 4 ((s.qcb q 0 4 + 1) % 2 ^ 32) }

/-- The update ends: the QCB takes the slot's registers, SEQ is even, and the slot is free; a queue whose
packet was in error waits for its doorbell (R289, R293, R403). -/
def closeUnmap (d : DieId) (i : Fin 256) (s : State) : State :=
  let x := (s.die d).slots.get i
  let q := x.queue
  let a := s.qcbKey q
  let seq := s.qcb q 0 4
  let m := wrNat (wrNat (wrNat s.mem (a + 16) 4 x.widx) (a + 20) 4 x.ridx) (a + 24) 2 x.outt
  let m := wrByte m (a + 27) (BitVec.ofNat 8 (putFld (rdNat m (a + 27) 1) 0 2 (2 * b2n x.wblk)))
  let m := wrNat (wrNat (wrNat m (a + 32) 8 x.notev) (a + 40) 4 x.lsigt) a 4 ((seq + 1) % 2 ^ 32)
  let s := onSlot d i (fun _ => ⟨0, 0, 0, 0, 0, 0, 0, 0, 0, false, false, none, false⟩) { s with mem := m }
  if x.wblk || (x.ridx != x.widx && !x.err) then setPending q s else s

/-- The next step of the Helm's unmap of an UNMAPPING slot (R293). One that a Helm core has left half-way is made whole by the
core that does its work after it: with SEQ odd it is redone from the slot's registers (R412). -/
def finishUnmap (d : DieId) (i : Fin 256) (s : State) : State :=
  let q := ((s.die d).slots.get i).queue
  if s.qcb q 0 4 % 2 = 0 then openUnmap i q s else closeUnmap d i s

/-- The key of the head packet of a slot. -/
def State.packetKey (s : State) (x : QSlot) : Nat :=
  let a := s.qcbKey x.queue
  t1 (rdNat s.mem (a + 8) 8 + 256 * (x.ridx % 2 ^ fld (rdNat s.mem (a + 5) 1) 0 5))

/-- The head packet is in error: EN := 0, the slot is unmapped, and a PACKET entry is written (R403). -/
def packetError (d : DieId) (i : Fin 256) (sub ctx : Nat) (s : State) : State :=
  let x := (s.die d).slots.get i
  let p := s.packetKey x
  let s := updateQcb x.queue i.val (fun m a => wrByte m (a + 4) (BitVec.ofNat 8 (putFld (rdNat m (a + 4) 1) 4 1 0))) s
  schedEntry d 1 sub x.queue ctx 0 x.ridx (rdNat s.mem p 8)
    (beginUnmap d i false (onSlot d i (fun x => { x with err := true }) s))

/-- A slot takes a write index; one that exceeds the ring is an error (R292, R403 SUB 6). -/
def takeWidx (d : DieId) (i : Fin 256) (w lsigt : Nat) (s : State) : State :=
  let s := onSlot d i (fun x => { x with widx := w % 2 ^ 32, lsigt := lsigt }) s
  let x := (s.die d).slots.get i
  if 2 ^ s.qLsz x.queue < (x.widx + 2 ^ 32 - x.ridx) % 2 ^ 32 then packetError d i 6 0 s else s

/-! ## Doorbells -/

/-- A kick of a queue with EN = 1: a mapped slot takes the new index, another queue becomes pending (R288, R290, R292,
R293). -/
def kick (q : Nat) (s : State) : State :=
  let v := (mget q s.bells).getD (0, 0)
  if !s.qEn q then s
  else match s.slotOf q with
  | some (d, i) => if ((s.die d).slots.get i).state = 4 then setPending q s else takeWidx d i v.1 v.2 s
  | none => setPending q s

/-- The key of a byte of the doorbell aperture (R349). -/
def bellKey (off : Nat) : Nat := t1 (0x8000 * 2 ^ 36 + off)

/-- A write to the doorbell aperture at byte `off` of the writer's window (R290, R347, R404); `d` is the die that
reports an error. -/
def ringBell (src : BellSource) (d : DieId) (off size v : Nat) (s : State) : State :=
  let base : Option Nat := match src with
    | .vf n =>
      let m := (s.vfmap.get n).toNat
      if bitAt m 31 && decide (off < 4096 * fld m 16 12) then some (4096 * fld m 0 11 + off) else none
    | _ => some off
  let isVf := match src with
    | .vf _ => true
    | _ => false
  match base with
  | none => s
  | some a =>
    let q := a / 8
    if size != 8 || a % 8 != 0 || 2 ^ 23 ≤ a then badBell d a size s
    else if 2 ^ 32 ≤ v then schedEntry d 2 1 q 0 0 v 0 s
    else if isVf && bitAt (s.qcb q 4 1) 3 then schedEntry d 2 2 q 0 0 v 0 s
    else kick q (noteWrites [bellKey a] (fun _ => v) { s with bells := mput q (v, s.timeUs % 2 ^ 32) s.bells })

end Sys2Proof.Machine
end

