-- ==== Sys2Proof/Machine/Operands.lean ====
section
/-! DEFINITION. Operand forms of the control stream: shifts and extensions of R175 to R178, the registers that an
instruction reads and writes (R172), and addresses of the M and A formats (R187, R191). -/

namespace Sys2Proof.Machine

/-- The result of an R-form instruction, written with its exposed latency (R171, R175). -/
def alu (lat : Nat) (f : Dword → Dword → Dword) (d a b : XReg) (s : State) : State :=
  advance (post (.x d (f (s.me.xr a) (s.me.xr b))) lat s)

/-- The unary R forms (R175). -/
def alu1 (f : Dword → Dword) (d a : XReg) (s : State) : State := advance (post (.x d (f (s.me.xr a))) 1 s)

/-- The I forms with a sign-extended immediate (R177). -/
def aluI (lat : Nat) (f : Dword → Dword → Dword) (d a : XReg) (imm : BitVec 14) (s : State) : State :=
  advance (post (.x d (f (s.me.xr a) (imm.signExtend 64))) lat s)

/-- The shifts by a constant (R177). -/
def aluSh (f : Dword → Dword → Dword) (d a : XReg) (sh : Fin 64) (s : State) : State :=
  advance (post (.x d (f (s.me.xr a) (BitVec.ofNat 64 sh.val))) 1 s)

def opSll (a b : Dword) : Dword := a <<< (b.toNat % 64)
def opSrl (a b : Dword) : Dword := a >>> (b.toNat % 64)
def opSra (a b : Dword) : Dword := a.sshiftRight (b.toNat % 64)
def opRol (a b : Dword) : Dword := a.rotateLeft (b.toNat % 64)
def opRor (a b : Dword) : Dword := a.rotateRight (b.toNat % 64)
/-- Bits 127:64 of the exact product (R175). -/
def opMulh (a b : Dword) : Dword := BitVec.ofInt 64 (a.toInt * b.toInt / 2 ^ 64)
def opMulhn (a b : Dword) : Dword := BitVec.ofNat 64 (a.toNat * b.toNat / 2 ^ 64)
/-- Quotients toward zero, with the results of R176 for a zero divisor and for the signed overflow. -/
def opDiv (a b : Dword) : Dword := if b = 0 then -1 else BitVec.ofInt 64 (a.toInt.tdiv b.toInt)
def opDivn (a b : Dword) : Dword := if b = 0 then -1 else BitVec.ofNat 64 (a.toNat / b.toNat)
def opRem (a b : Dword) : Dword := if b = 0 then a else BitVec.ofInt 64 (a.toInt.tmod b.toInt)
def opRemn (a b : Dword) : Dword := if b = 0 then a else BitVec.ofNat 64 (a.toNat % b.toNat)
def opMin (a b : Dword) : Dword := if a.slt b then a else b
def opMax (a b : Dword) : Dword := if a.slt b then b else a
def opMinn (a b : Dword) : Dword := if a.ult b then a else b
def opMaxn (a b : Dword) : Dword := if a.ult b then b else a
/-- Zero bits above the highest one bit, counted down from bit `n - 1`. -/
def leadZeros (v : Nat) : Nat → Nat
  | 0 => 0
  | n + 1 => if bitAt v n then 0 else leadZeros v n + 1
/-- Zero bits below the lowest one bit among the `n` bits from bit `i`. -/
def trailZeros (v i : Nat) : Nat → Nat
  | 0 => 0
  | n + 1 => if bitAt v i then 0 else trailZeros v (i + 1) n + 1
/-- One bits among the `n` lowest. -/
def oneBits (v : Nat) : Nat → Nat
  | 0 => 0
  | n + 1 => oneBits v n + b2n (bitAt v n)
def opClz (a : Dword) : Dword := BitVec.ofNat 64 (leadZeros a.toNat 64)
def opCtz (a : Dword) : Dword := BitVec.ofNat 64 (trailZeros a.toNat 0 64)
def opPopc (a : Dword) : Dword := BitVec.ofNat 64 (oneBits a.toNat 64)
/-- The low `n` bits sign- or zero-extended (R175). -/
def opSext (n : Nat) (a : Dword) : Dword := (a.setWidth n).signExtend 64
def opZext (n : Nat) (a : Dword) : Dword := (a.setWidth n).setWidth 64
/-- The eight bytes in reverse order (R175). -/
def opBswap (a : Dword) : Dword := BitVec.ofNat 64 (leNat (leBytes 8 a.toNat).reverse)

/-- The exact offset from a handle's OFF, a register and a displacement (R7, R187). -/
def mOff (h : Handle) (xa : Dword) (disp : Int) : Int := (h.off.toNat : Int) + xa.toNat + disp

/-- The registers that an instruction names, for the interlocks of R172. -/
def regsOf : Instr → List Dest
  | .add d a b | .sub d a b | .and d a b | .or d a b | .xor d a b | .andn d a b | .sll d a b | .srl d a b | .sra d a b
  | .rol d a b | .ror d a b | .mul d a b | .mulh d a b | .mulhn d a b | .div d a b | .divn d a b | .rem d a b
  | .remn d a b | .min d a b | .max d a b | .minn d a b | .maxn d a b => [.x d 0, .x a 0, .x b 0]
  | .clz d a | .ctz d a | .popc d a | .sextB d a | .sextH d a | .sextW d a | .zextB d a | .zextH d a | .zextW d a
  | .bswap d a => [.x d 0, .x a 0]
  | .addi d a _ | .andi d a _ | .ori d a _ | .xori d a _ | .muli d a _ | .allocS d a _ | .allocV d a _ => [.x d 0, .x a 0]
  | .slli d a _ | .srli d a _ | .srai d a _ | .rori d a _ => [.x d 0, .x a 0]
  | .li d _ | .lhi d _ | .tcnt d _ | .srd d _ => [.x d 0]
  | .cmpEq f a b | .cmpNe f a b | .cmpLt f a b | .cmpGe f a b | .cmpLtn f a b | .cmpGen f a b | .cmpLe f a b
  | .cmpGt f a b | .cmpLen f a b | .cmpGtn f a b => [.f f false, .x a 0, .x b 0]
  | .cmpiEq f a _ | .cmpiNe f a _ | .cmpiLt f a _ | .cmpiGe f a _ | .cmpiLtn f a _ | .cmpiGen f a _ | .cmpiLe f a _
  | .cmpiGt f a _ | .cmpiLen f a _ | .cmpiGtn f a _ => [.f f false, .x a 0]
  | .fand d a b | .forF d a b | .fxor d a b | .fandn d a b => [.f d false, .f a false, .f b false]
  | .fnot d a => [.f d false, .f a false]
  | .ldB d h a _ | .ldH d h a _ | .ldW d h a _ | .ldD d h a _ | .stB d h a _ | .stH d h a _ | .stW d h a _
  | .stD d h a _ => [.x d 0, .h h Handle.zero, .x a 0]
  | .aaddW o | .aminW o | .amaxW o | .aminnW o | .amaxnW o | .aandW o | .aorW o | .axorW o | .aswpW o | .afaddW o
  | .aldW o | .astW o | .aaddD o | .aminD o | .amaxD o | .aminnD o | .amaxnD o | .aandD o | .aorD o | .axorD o
  | .aswpD o | .afaddD o | .aldD o | .astD o => [.x o.d 0, .h o.h Handle.zero, .x o.a 0]
  | .acasW o | .acasD o => [.x o.d 0, .x (o.d + 1) 0, .h o.h Handle.zero, .x o.a 0]
  | .br b f | .brNot b f => [.f f false, .b b 0]
  | .pt b _ | .call b => [.b b 0]
  | .ptr b a | .loop b a => [.b b 0, .x a 0]
  | .ldsB d a _ | .ldsH d a _ | .ldsW d a _ | .ldsD d a _ | .stsB d a _ | .stsH d a _ | .stsW d a _ | .stsD d a _ =>
    [.x d 0, .x a 0]
  | .hld h a _ | .hst h a _ | .hsetf h a _ | .hadv h a | .flush _ h a | .inv _ h a => [.h h Handle.zero, .x a 0]
  | .hgetf d h _ => [.x d 0, .h h Handle.zero]
  | .gset _ f => [.f f false]
  | .fqw a | .spawn a | .park a | .wake a | .dmrw a | .snapc a | .repart a | .swr _ a | .csw a | .cswReg a => [.x a 0]
  | .binit k a _ | .bexpect k a => [.slot k false, .x a 0]
  | .bslot k h a => [.slot k false, .h h Handle.zero, .x a 0]
  | .barrive k | .bwait k => [.slot k false]
  | .btest f k => [.f f false, .slot k false]
  | .snapoRd a b | .snapoWr a b => [.x a 0, .x b 0]
  | .chrd d h a => [.x d 0, .x (d + 1) 0, .h h Handle.zero, .x a 0]
  | .trap _ | .rte => .b 7 0 :: (List.finRange 16).map fun i => .f i false
  | _ => []

/-- An interlocked write of a register that the instruction names is outstanding (R172). -/
def Core.interlocked (k : Core) (i : Instr) : Bool :=
  (regsOf i).any fun d => d != .x 0 0 && d != .f 0 false && k.pending.any fun p => p.interlocked && p.dest.same d

end Sys2Proof.Machine
end

