-- ==== Sys2Proof/Machine/Control.lean ====
section
/-! DEFINITION. Control flow, the call stack and the in-task handler, handles, scratchpad accesses, tokens, guards,
the format queue, special registers and stream control (R181 to R186, R189, R190, R195 to R199, R212 to R215,
R239, R267). -/

namespace Sys2Proof.Machine

/-! ## Transfers of control -/

/-- A transfer issues: three delay slots follow, then the target at its cycle (R182, R183). -/
def transfer (tgt : Option Nat) (cyc : Nat) (s : State) : State :=
  s.onMe fun k => k.onSeq s.cur.seq fun q => { q with pos := q.pos + 1, delay := some (3, tgt, cyc), acting := none }

/-- The stream goes to a position without delay slots (TRAP, RTE). -/
def goTo (tgt cyc : Nat) (s : State) : State :=
  s.onMe fun k => k.onSeq s.cur.seq fun q =>
    { q with pos := tgt, delay := none, hold := cyc, holdCause := .branch, acting := none }

/-- The cycle of a taken target: max(c + 4, p + 8), with p the PT or PTR that last wrote bb (R183). -/
def State.targetCycle (s : State) (b : BReg) : Nat :=
  match s.me.bAt.get b with
  | some p => Nat.max (s.cycle + 4) (p + 8)
  | none => s.cycle + 4

/-- The position `off` units after the head (R181). DESIGN CHOICE (log 79): a negative one is taken modulo 2^64, as PT writes
it; it lies beyond every stream, so that its fetch raises ILLEGAL (R362). -/
def State.relPos (s : State) (n : Nat) (off : BitVec n) : Nat := codeN 64 ((s.pos : Int) + off.toInt)

/-- The position that a branch-target register names; one that PTR wrote from a value above the section's size holds no
instruction, so that it is given a place beyond every section, the same in its low 32 bits (R362). -/
def Core.target (k : Core) (b : BReg) : Nat := (k.b.get b).toNat + b2n (k.bWild.get b) * 2 ^ 32

/-- A branch-target register is written by PT or PTR (R181, R183). -/
def setTarget (b : BReg) (v : Dword) (wild : Bool) (s : State) : State :=
  post (.b b v) 1 (s.onMe fun k =>
    { k with bAt := k.bAt.set b.val (some s.cycle) b.isLt, bWild := k.bWild.set b.val wild b.isLt })

/-- PT (R181). -/
def execPt (b : BReg) (imm : BitVec 23) (s : State) : Host.Outcome State Fault Refusal :=
  .next (advance (setTarget b (BitVec.ofInt 64 ((s.pos : Int) + imm.toInt)) false s))

/-- PTR (R181, R362). -/
def execPtr (b : BReg) (a : XReg) (s : State) : Host.Outcome State Fault Refusal :=
  .next (advance (setTarget b (opZext 23 (s.me.xr a)) (decide (s.me.plane.ctl.length < (s.me.xr a).toNat)) s))

/-- J (R181). -/
def execJ (imm : BitVec 23) (s : State) : Host.Outcome State Fault Refusal := .next (transfer (some (s.relPos 23 imm)) (s.cycle + 4) s)

/-- A conditional transfer to bb (R181 to R183). -/
def branchIf (taken : Bool) (b : BReg) (s : State) : State :=
  if taken then transfer (some (s.me.target b)) (s.targetCycle b) s else transfer none (s.cycle + 4) s

/-- BR bb, f (R181). -/
def execBr (b : BReg) (f : FReg) (s : State) : Host.Outcome State Fault Refusal := .next (branchIf (s.me.fr f) b s)

/-- BR bb, !f (R181). -/
def execBrNot (b : BReg) (f : FReg) (s : State) : Host.Outcome State Fault Refusal := .next (branchIf (!s.me.fr f) b s)

/-- LOOP: xa := xa - 1, and a transfer when the new value is not 0 (R181). -/
def execLoop (b : BReg) (a : XReg) (s : State) : Host.Outcome State Fault Refusal :=
  let v := s.me.xr a - 1
  .next (branchIf (v != 0) b (post (.x a v) 1 s))

/-! ## The call stack and the in-task handler (R184, R213, R377) -/

/-- What a stack step to `sp` does wrong: STACK outside [SPL, SPB], OPRANGE where the `n` bytes at `at'` leave the
scratchpad. -/
def stackBad (s : State) (sp : Int) (off n : Nat) : Option State :=
  let k := s.me
  if sp < k.spl.toNat || (k.spb.toNat : Int) < sp then
    some (raise 0x05 (codeN 64 sp) (k.spb.toNat * 2 ^ 32 + k.spl.toNat) s)
  else if !k.inSpad off n then some (raise 0x09 (k.spadBad off) k.spadSize s)
  else none

/-- CALL: the return position is pushed and control goes to bb (R181, R184). -/
def execCall (b : BReg) (s : State) : Host.Outcome State Fault Refusal :=
  let sp : Int := (s.me.sp.toNat : Int) - 8
  .next <| match stackBad s sp sp.toNat 8 with
    | some t => t
    | none => transfer (some (s.me.target b)) (s.targetCycle b)
        (s.onMe fun k => { k.spadWr sp.toNat 8 (s.pos + 4) with sp := BitVec.ofInt 32 sp })

/-- Scratchpad bytes that an instruction of the control stream reads meet the errors of the pool: POOLSRAM where one cannot be
corrected (R382, R391). -/
def poolRead (off n : Nat) (s : State) (act : State → State) : State :=
  let ks := keysFrom (s.me.spadBase + off) n
  let r := meetPool s.cur.core s.myCtxN ks s
  match s.poolFlaw s.cur.core ks with
  | some a => raise 0x2B a 0 r
  | none => act r

/-- RET: a position is popped and control goes to it (R181, R184, R185). -/
def execRet (s : State) : Host.Outcome State Fault Refusal :=
  let old := s.me.sp.toNat
  .next <| match stackBad s (old + 8 : Nat) old 8 with
    | some t => t
    | none => poolRead old 8 s fun s => transfer (some (s.me.spadRd old 8)) (s.cycle + 6)
        (s.onMe fun k => { k with sp := BitVec.ofNat 32 (old + 8) })

/-- f0 to f15 as 16 bits. -/
def Core.flagBits (k : Core) : Nat := ((List.finRange 16).map fun i => b2n (k.fr i) * 2 ^ i.val).sum

/-- TAKING THE IN-TASK TRAP (R213): the frame is pushed, the depth rises and control goes to b7. -/
def takeTrap (code : Nat) (s : State) : State :=
  let sp : Int := (s.me.sp.toNat : Int) - 16
  if s.me.tdep = 255 then raise 0x14 code 0 s
  else
    match stackBad s sp sp.toNat 16 with
    | some t => t
    | none =>
      let k := s.me
      let frame := (s.pos + 1) % 2 ^ 64 + code * 2 ^ 64 + k.flagBits * 2 ^ 80
      stall .trap 0 (goTo (k.target 7) (s.cycle + 4)
        (s.onMe fun k => { k.spadWr sp.toNat 16 frame with sp := BitVec.ofInt 32 sp, tdep := k.tdep + 1 }))

/-- RETURNING FROM IT (R213): f1 to f15, in the order of R173, and the position come back from the frame. DESIGN CHOICE (log
89): the frame is no record in memory, and its reserved bits 127:96 are not read. -/
def returnTrap (s : State) : State :=
  let old := s.me.sp.toNat
  if s.me.tdep = 0 then raise 0x01 s.cur.word 0 s
  else
    match stackBad s (old + 16 : Nat) old 16 with
    | some t => t
    | none =>
      poolRead old 16 s fun s =>
      let frame := s.me.spadRd old 16
      let s := (List.finRange 16).foldl (fun s i => post (.f i (bitAt frame (80 + i.val))) 1 s) s
      stall .trap 0 (goTo (fld frame 0 64) (s.cycle + 4)
        (s.onMe fun k => { k with sp := BitVec.ofNat 32 (old + 16), tdep := k.tdep - 1 }))

/-- No exposed write is in flight (R174). -/
def Core.settled (k : Core) : Bool := k.pending.all (·.interlocked)

/-- TRAP (R213), once every exposed write has landed (R174). -/
def execTrap (code : BitVec 16) (s : State) : Host.Outcome State Fault Refusal :=
  .next (if s.me.settled then takeTrap code.toNat s else stall .trap 0 s)

/-- RTE (R213). -/
def execRte (s : State) : Host.Outcome State Fault Refusal := .next (returnTrap s)

/-- Debug stops are enabled for a context (R323). -/
def State.debugOn (s : State) (d : DieId) (ctx : Nat) : Bool :=
  bitAt (rdByte s.mem (t1 ((s.die d).dbgbm + ctx / 8))).toNat (ctx % 8)

/-- BRK: a debug stop where they are enabled, NOP elsewhere (R214, R323, R324). -/
def execBrk (code : BitVec 16) (s : State) : Host.Outcome State Fault Refusal :=
  .next <|
    if s.debugOn (dieOf s.cur.core) s.myCtxN then
      if s.me.settled then
        stall .trap 0 ((advance s).onMe (Core.stop s.cycle 0 code.toNat 0))
      else stall .trap 0 s
    else advance s

/-- NOP (R215). -/
def execNop (s : State) : Host.Outcome State Fault Refusal := .next (advance s)

/-- WFE: takes the event flag, or waits for it (R54, R215). -/
def execWfe (s : State) : Host.Outcome State Fault Refusal :=
  .next <|
    if (s.myTask.map (·.event)).getD false then advance (s.onTask s.myTid fun t => { t with event := false })
    else stall .idle 0 s

/-! ## Handles (R195, R190) -/

/-- HSETF (R195). -/
def execHsetf (h : HReg) (a : XReg) (f : HField) (s : State) : Host.Outcome State Fault Refusal :=
  .next (advance (post (.h h ((s.me.h.get h).set f (s.me.xr a))) 1 s))

/-- HGETF (R195). -/
def execHgetf (d : XReg) (h : HReg) (f : HField) (s : State) : Host.Outcome State Fault Refusal :=
  .next (advance (post (.x d ((s.me.h.get h).get f)) 1 s))

/-- HADV: CUR := (CUR + xa)[31:0] (R195). -/
def execHadv (h : HReg) (a : XReg) (s : State) : Host.Outcome State Fault Refusal :=
  .next (advance (post (.h h { s.me.h.get h with cur := (s.me.h.get h).cur + (s.me.xr a).setWidth 32 }) 1 s))

/-! ## Scratchpad accesses (R189, R190) -/

/-- The scratchpad offset xa + sext(imm9) × size, and the access it allows: OPRANGE outside the region. -/
def spadAt (a : XReg) (imm : BitVec 9) (size : Nat) (s : State) (act : Nat → State) : State :=
  let off := ((s.me.xr a).toNat : Int) + imm.toInt * size
  if off < 0 || !s.me.inSpad off.toNat size then raise 0x09 (s.me.spadBad off) s.me.spadSize s
  else act off.toNat

/-- POISON for pool bytes that would reach a register (R390). -/
def poolPoison (off n : Nat) (s : State) (act : State) : State :=
  if s.me.poisoned (s.me.spadBase + off) n then raise 0x2A 0 (s.me.spadBase + off) s else act

/-- LDS: the bytes zero-extended, landing in 3 cycles or more (R189, R172). -/
def loadSpad (size : Nat) (d a : XReg) (imm : BitVec 9) (s : State) : State :=
  spadAt a imm size s fun off => poolRead off size s fun s => poolPoison off size s
    (advance (postLater (.x d (BitVec.ofNat 64 (s.me.spadRd off size))) 3 s))

/-- STS (R189). -/
def storeSpad (size : Nat) (d a : XReg) (imm : BitVec 9) (s : State) : State :=
  spadAt a imm size s fun off => advance (s.onMe fun k => k.spadWr off size (s.me.xr d).toNat)

/-- LDS.b (R189). -/
def execLdsB (d a : XReg) (imm : BitVec 9) (s : State) : Host.Outcome State Fault Refusal := .next (loadSpad 1 d a imm s)
/-- LDS.h (R189). -/
def execLdsH (d a : XReg) (imm : BitVec 9) (s : State) : Host.Outcome State Fault Refusal := .next (loadSpad 2 d a imm s)
/-- LDS.w (R189). -/
def execLdsW (d a : XReg) (imm : BitVec 9) (s : State) : Host.Outcome State Fault Refusal := .next (loadSpad 4 d a imm s)
/-- LDS.d (R189). -/
def execLdsD (d a : XReg) (imm : BitVec 9) (s : State) : Host.Outcome State Fault Refusal := .next (loadSpad 8 d a imm s)
/-- STS.b (R189). -/
def execStsB (d a : XReg) (imm : BitVec 9) (s : State) : Host.Outcome State Fault Refusal := .next (storeSpad 1 d a imm s)
/-- STS.h (R189). -/
def execStsH (d a : XReg) (imm : BitVec 9) (s : State) : Host.Outcome State Fault Refusal := .next (storeSpad 2 d a imm s)
/-- STS.w (R189). -/
def execStsW (d a : XReg) (imm : BitVec 9) (s : State) : Host.Outcome State Fault Refusal := .next (storeSpad 4 d a imm s)
/-- STS.d (R189). -/
def execStsD (d a : XReg) (imm : BitVec 9) (s : State) : Host.Outcome State Fault Refusal := .next (storeSpad 8 d a imm s)

/-- HLD: 32 bytes into a handle, its reserved fields zero (R190). -/
def execHld (h : HReg) (a : XReg) (imm : BitVec 9) (s : State) : Host.Outcome State Fault Refusal :=
  .next (spadAt a imm 32 s fun off => poolRead off 32 s fun s => poolPoison off 32 s
    (advance (postLater (.h h (Handle.ofNat (s.me.spadRd off 32))) 3 s)))

/-- HST (R190). -/
def execHst (h : HReg) (a : XReg) (imm : BitVec 9) (s : State) : Host.Outcome State Fault Refusal :=
  .next (spadAt a imm 32 s fun off => advance (s.onMe fun k => k.spadWr off 32 (s.me.h.get h).toNat))

/-! ## Tokens (R30, R31, R197, R234) -/

/-- A token queue of a core changed. -/
def Core.onTok (k : Core) (q : QReg) (f : Token → Token) : Core :=
  { k with tok := k.tok.set q.val (f (k.tok.get q)) q.isLt }

/-- TSIG may issue: the count before the cycle is below its limit and no RADV of the queue is unexecuted then (R30,
R237). -/
def Token.mayGive (t : Token) : Bool :=
  t.wasRadvs == 0 && decide (t.was < (if t.bound then t.depth - b2n t.wasHeld else 63))

/-- The effect of a TSIG: one more token, and the producer position advances on a bound queue (R234). -/
def Token.give (t : Token) : Token :=
  { t with count := t.count + 1, p := if t.bound then (t.p + 1) % t.depth else t.p }

/-- The effect of a TWAIT: one token less; on a bound queue the held slot is freed and the oldest filled slot is
taken (R31, R234). -/
def Token.take (t : Token) : Token :=
  if t.bound then
    { t with count := t.count - 1, held := true, hs := t.oldest, oldest := (t.oldest + 1) % t.depth }
  else { t with count := t.count - 1 }

/-- The VOTEs (R256). -/
def isVote : Instr → Bool
  | .voteAny _ _ _ _ | .voteAll _ _ _ _ | .voteNone _ _ _ _ | .voteCnt _ _ _ => true
  | _ => false

/-- The result of a stream's own instruction in an x, h or f register, which a TSIG waits for (R196). -/
def Pending.bars (p : Pending) : Bool :=
  !p.vote && match p.dest with
    | .x _ _ | .h _ _ | .f _ _ => true
    | .b _ _ | .slot _ _ => false

/-- What a TSIG waits for beside its count: in the control stream, that every x, handle and flag write issued before it has
landed (R196); in CMP, that every VOTE issued before it has started (R257). -/
def State.mayTsig (s : State) : Bool :=
  match s.cur.seq with
  | .ctl => !s.me.pending.any (·.bars)
  | .cmp => !(s.me.engine .vector).cmds.any fun m => some m.task == s.me.task && !m.started && isVote m.instr
  | .ld | .st => true

/-- TSIG by the acting sequencer (R197, R239). -/
def giveToken (q : QReg) (s : State) : State :=
  let t := s.me.tok.get q
  if !t.used || t.prod != s.cur.seq then raise 0x0B q.val (seqIdx s.cur.seq).val s
  else if t.mayGive && s.mayTsig then advance (s.onMe fun k => k.onTok q Token.give)
  else stall .token q.val s

/-- A ring slot becomes free: a command that waited for its last slot enters the range checker in this cycle (R32,
R236). -/
def Core.freeSlot (k : Core) (q : QReg) (slot now : Nat) : Core :=
  { k with engines := k.engines.map fun e => { e with cmds := e.cmds.map fun m =>
      let l := if some m.task == k.task then m.slots.filter fun w => w != (q, slot) else m.slots
      if m.slots.isEmpty || !l.isEmpty then { m with slots := l } else { m with slots := l, entered := now } } }

/-- The core after a TWAIT on queue `q`: the slot held before is free (R31). -/
def Core.takeTok (k : Core) (q : QReg) (now : Nat) : Core :=
  let t := k.tok.get q
  let k := k.onTok q Token.take
  if t.bound && t.held then k.freeSlot q t.hs now else k

/-- TWAIT by the acting sequencer (R197, R239). -/
def takeToken (q : QReg) (s : State) : State :=
  let t := s.me.tok.get q
  if !t.used || t.cons != s.cur.seq then raise 0x0B q.val (seqIdx s.cur.seq).val s
  else if 0 < t.was then advance (s.onMe fun k => k.takeTok q s.cycle)
  else stall .token q.val s

/-- TSIG in the control stream (R197). -/
def execTsig (q : QReg) (s : State) : Host.Outcome State Fault Refusal := .next (giveToken q s)
/-- TWAIT in the control stream (R197). -/
def execTwait (q : QReg) (s : State) : Host.Outcome State Fault Refusal := .next (takeToken q s)
/-- TSIG in LD or ST (R239). -/
def execTsigLdSt (q : QReg) (s : State) : Host.Outcome State Fault Refusal := .next (giveToken q s)
/-- TWAIT in LD or ST (R239). -/
def execTwaitLdSt (q : QReg) (s : State) : Host.Outcome State Fault Refusal := .next (takeToken q s)
/-- TSIG in CMP (R267). -/
def execTsigCmp (q : QReg) (s : State) : Host.Outcome State Fault Refusal := .next (giveToken q s)
/-- TWAIT in CMP (R267). -/
def execTwaitCmp (q : QReg) (s : State) : Host.Outcome State Fault Refusal := .next (takeToken q s)

/-- TCNT: the count of a queue, 0 for an unused one (R197). -/
def execTcnt (d : XReg) (q : QReg) (s : State) : Host.Outcome State Fault Refusal :=
  .next (advance (post (.x d (BitVec.ofNat 64 (s.me.tok.get q).count)) 1 s))

/-! ## Guards and the format queue (R198, R199) -/

/-- A push into a guard slot, which waits while the slot is full (R35, R198). -/
def pushGuard (g : GReg) (v : Bool) (s : State) : State :=
  if (s.me.guards.get g).length < 8 then
    advance (s.onMe fun k => { k with guards := k.guards.set g.val (k.guards.get g ++ [v]) g.isLt })
  else stall .guard 0 s

/-- GSET (R198). -/
def execGset (g : GReg) (f : FReg) (s : State) : Host.Outcome State Fault Refusal := .next (pushGuard g (s.me.fr f) s)
/-- GSETI (R198). -/
def execGseti (g : GReg) (v : Bool) (s : State) : Host.Outcome State Fault Refusal := .next (pushGuard g v s)

/-- The tile commands, which pop a format word (R270). -/
def isTile : Instr → Bool
  | .mma _ | .mmab _ | .mmag _ | .mzero _ | .mld _ | .mst _ => true
  | _ => false

/-- FQW: a format word is pushed; a full queue holds the sequencer, and FQOVER is raised when nothing can empty it
(R199, R364). -/
def execFqw (a : XReg) (s : State) : Host.Outcome State Fault Refusal :=
  let k := s.me
  .next <|
    if k.fq.length < 16 then advance (s.onMe fun k => { k with fq := k.fq ++ [s.me.xr a] })
    else if (k.seq .cmp).stopped && !(k.engine .matrix).cmds.any (fun c => isTile c.instr && !c.started) then
      raise 0x07 (k.xr a).toNat 0 s
    else stall .format 0 s

/-! ## Special registers (R157, R212) -/

/-- A bound of the task's domain. -/
def State.dom (s : State) (f : TaskRec → Vector Nat 3) (i : Fin 3) : Nat :=
  (s.myTask.map fun t => (f t.record).get i).getD 0

/-- The value that SRD samples (R157). -/
def State.sreg (s : State) : SReg → Nat
  | .partw => s.me.bnda + s.me.bndb * 2 ^ 8 + s.me.bndc * 2 ^ 16
  | .dmr => (s.myTask.map (·.dmr.toNat)).getD 0
  | .vl => s.me.vl
  | .spb => s.me.spb.toNat
  | .spl => s.me.spl.toNat
  | .sp => s.me.sp.toNat
  | .ctxn => s.myCtxN
  | .core => s.cur.core.val
  | .depth => (s.myTask.map (·.record.depth)).getD 0
  | .tleft => (s.myTask.map (·.tleft)).getD 0
  | .cycle => s.cycle % 2 ^ 64
  | .timeus => s.timeUs % 2 ^ 64
  | .dlo0 => s.dom (·.lo) 0
  | .dhi0 => s.dom (·.hi) 0
  | .dlo1 => s.dom (·.lo) 1
  | .dhi1 => s.dom (·.hi) 1
  | .dlo2 => s.dom (·.lo) 2
  | .dhi2 => s.dom (·.hi) 2

/-- SRD (R212). -/
def execSrd (d : XReg) (r : SReg) (s : State) : Host.Outcome State Fault Refusal :=
  .next (advance (post (.x d (BitVec.ofNat 64 (s.sreg r))) 1 s))

/-- SWR: SPB, SPL and SP take bits 31:0; a register marked RO keeps its value (R157, R212). -/
def execSwr (r : SReg) (a : XReg) (s : State) : Host.Outcome State Fault Refusal :=
  let v := (s.me.xr a).setWidth 32
  .next <| advance <| match r with
    | .spb => s.onMe fun k => { k with spb := v }
    | .spl => s.onMe fun k => { k with spl := v }
    | .sp => s.onMe fun k => { k with sp := v }
    | .partw | .dmr | .vl | .ctxn | .core | .depth | .tleft | .cycle | .timeus | .dlo0 | .dhi0 | .dlo1 | .dhi1 | .dlo2
    | .dhi2 => s

/-! ## Stream control of LD, ST and CMP (R239, R267) -/

/-- LOOPS opens a loop; a fifth one raises LOOP. -/
def openLoop (n : BitVec 24) (s : State) : State :=
  if (s.me.seq s.cur.seq).loops.length < 4 then
    advance (s.onMe fun k => k.onSeq s.cur.seq fun q =>
      { q with loops := ⟨s.pos + 1, 0, ext n.toNat⟩ :: q.loops })
  else raise 0x0C (s.me.seq s.cur.seq).loops.length 0 s

/-- LOOPE counts the innermost open loop down; LOOP is raised with none open. -/
def closeLoop (s : State) : State :=
  match (s.me.seq s.cur.seq).loops with
  | [] => raise 0x0C 0 0 s
  | l :: rest =>
    if l.count ≤ 1 then advance (s.onMe fun k => k.onSeq s.cur.seq fun q => { q with loops := rest })
    else s.onMe fun k => k.onSeq s.cur.seq fun q =>
      { q with pos := l.start, loops := { l with count := l.count - 1, stop := s.pos } :: rest }

/-- JUMP: the target issues two cycles later. -/
def jumpBy (off : BitVec 24) (s : State) : State :=
  s.onMe fun k => k.onSeq s.cur.seq fun q =>
    { q with pos := s.relPos 24 off, hold := s.cycle + 2, holdCause := .branch }

/-- STOP: the sequencer issues nothing more in this task. -/
def stopSeq (s : State) : State := s.onMe fun k => k.onSeq s.cur.seq fun q => { q with stopped := true }

/-- LOOPS in LD or ST (R239). -/
def execLoops (n : BitVec 24) (s : State) : Host.Outcome State Fault Refusal := .next (openLoop n s)
/-- LOOPE in LD or ST (R239). -/
def execLoope (s : State) : Host.Outcome State Fault Refusal := .next (closeLoop s)
/-- JUMP in LD or ST (R239). -/
def execJump (off : BitVec 24) (s : State) : Host.Outcome State Fault Refusal := .next (jumpBy off s)
/-- STOP in LD or ST (R239). -/
def execStop (s : State) : Host.Outcome State Fault Refusal := .next (stopSeq s)
/-- LOOPS in CMP (R267). -/
def execLoopsCmp (n : BitVec 24) (s : State) : Host.Outcome State Fault Refusal := .next (openLoop n s)
/-- LOOPE in CMP (R267). -/
def execLoopeCmp (s : State) : Host.Outcome State Fault Refusal := .next (closeLoop s)
/-- JUMP in CMP (R267). -/
def execJumpCmp (off : BitVec 24) (s : State) : Host.Outcome State Fault Refusal := .next (jumpBy off s)
/-- STOP in CMP (R267). -/
def execStopCmp (s : State) : Host.Outcome State Fault Refusal := .next (stopSeq s)

end Sys2Proof.Machine
end

