-- ==== Sys2Proof/Machine/Ordered.lean ====
section
/-! DEFINITION. The control stream's memory instructions: loads, stores, atomics, fences, FLUSH, INV, PHASE, COMMIT,
the barrier instructions and CHRD (R187, R188, R191 to R194, R201, R202, R216), and the doorbell (R290, R404). -/

namespace Sys2Proof.Machine

/-- The acting sequencer is held until its operation completes, at a time of the device's choice (R106, R109). -/
def holdOn (s : State) : State :=
  (s.onMe fun k => k.onSeq s.cur.seq fun q =>
    { q with hold := Nat.max q.hold (s.cycle + 1 + Config.latency s.free), holdCause := .memory }).tick

/-! ## Loads and stores (R187, R188) -/

/-- The physical address of the first line that the acting task reads with poison among some bytes of the pages `ls`, through
its view and at the point of coherence (R389). -/
def State.poisonAt (s : State) (ls : List Leaf) (ks : List Nat) : Option Nat :=
  ((linesOf ks).find? fun l => (s.myTask.map (s.seenBad s.cur.core · (tagLine ls l))).getD false).map fun l => l * 64 % 2 ^ 52
def State.homeAt (s : State) (ls : List Leaf) (ks : List Nat) : Option Nat :=
  ((linesOf ks).find? fun l => (s.myTask.map (s.homeBad s.cur.core · (tagLine ls l))).getD false).map fun l => l * 64 % 2 ^ 52

/-- What a read of bytes that reach a register raises when they are poisoned: CHECK or POISON by INTEG (R390). -/
def readPoison (i0 integ : Nat) (bad : Option Nat) (s : State) (act : State) : State :=
  match bad with
  | some pa => if integ = 1 then raise 0x29 i0 pa s else raise 0x2A i0 pa s
  | none => act

/-- A page in motion, or a fault; otherwise the request's keys (R380, R383). -/
def request (buf : Nat) (off : Int) (n : Nat) (a : Acts) (mask : Nat) (s : State)
    (act : List Nat → Nat → Nat → List Leaf → State) : State :=
  match s.myTask with
  | none => s
  | some t =>
    match s.check (dieOf s.cur.core) t buf off n a mask false with
    | .wait => stall .memory 0 s
    | .bad c i j => raise c i j s
    | .ok ks kid integ ls => act ks kid integ ls

/-- The byte offset of the M format (R187). -/
def State.mAddr (s : State) (h : HReg) (a : XReg) (imm : BitVec 9) (size : Nat) : Int :=
  mOff (s.me.h.get h) (s.me.xr a) (imm.toInt * size)

/-- LD (R187, R188). An uncorrectable error in a provisional line raises POOLSRAM, with the pool byte offset of the line, a free value,
in INFO0 (R382, R391; log 93). -/
def loadMem (size : Nat) (d : XReg) (h : HReg) (a : XReg) (imm : BitVec 9) (s : State) : State :=
  let hd := s.me.h.get h
  let off := s.mAddr h a imm size
  if hd.spc then
    if off < 0 || !s.me.inSpad off.toNat size then raise 0x09 (s.me.spadBad off) s.me.spadSize s
    else poolRead off.toNat size s fun s => poolPoison off.toNat size s
      (advance (postLater (.x d (BitVec.ofNat 64 (s.me.spadRd off.toNat size))) 3 s))
  else request hd.buf.toNat off size .read 0 s fun ks _ integ ls =>
    match s.myTask with
    | none => s
    | some t =>
      let sram := (linesOf ks).any fun l => s.sramLine s.cur.core t (tagLine ls l)
      let r := readMem s.cur.core s.myTid t hd.hint.toNat ls ks s
      if sram then raise 0x2B (Config.value r.2.2.free) 0 r.2.2.tick
      else
      readPoison (reqInfo hd.buf.toNat off.toNat) integ (r.2.2.poisonAt ls ks) r.2.2
        (advance (postLater (.x d (BitVec.ofNat 64 (leNat r.1))) 1 r.2.2))

/-- ST (R187, R188): provisional in the phase buffer, within the write allowance (R44). -/
def storeMem (size : Nat) (d : XReg) (h : HReg) (a : XReg) (imm : BitVec 9) (s : State) : State :=
  let hd := s.me.h.get h
  let off := s.mAddr h a imm size
  if hd.spc then
    if off < 0 || !s.me.inSpad off.toNat size then raise 0x09 (s.me.spadBad off) s.me.spadSize s
    else advance (s.onMe fun k => k.spadWr off.toNat size (s.me.xr d).toNat)
  else request hd.buf.toNat off size .write 1 s fun ks _ _ ls =>
    if ks.any isAperture then raise 0x41 (reqInfo hd.buf.toNat off.toNat) s.cur.word s
    else
      let bs := leBytes size (s.me.xr d).toNat
      let new := (s.myTask.map (·.newLines (ks.map (tagKey ls)))).getD []
      let next := s.onTask s.myTid fun t => t.store ((ks.map (tagKey ls)).zip bs)
      let next := markWrite s.cur.core hd.hint.toNat ls (new.map bareLine) next
      withinWrites s.cur.core s.myTid (fun c i j s => raise c i j s) s (advance next)

/-- LD.b (R187). -/
def execLdB (d : XReg) (h : HReg) (a : XReg) (imm : BitVec 9) (s : State) : Host.Outcome State Fault Refusal :=
  .next (loadMem 1 d h a imm s)
/-- LD.h (R187). -/
def execLdH (d : XReg) (h : HReg) (a : XReg) (imm : BitVec 9) (s : State) : Host.Outcome State Fault Refusal :=
  .next (loadMem 2 d h a imm s)
/-- LD.w (R187). -/
def execLdW (d : XReg) (h : HReg) (a : XReg) (imm : BitVec 9) (s : State) : Host.Outcome State Fault Refusal :=
  .next (loadMem 4 d h a imm s)
/-- LD.d (R187). -/
def execLdD (d : XReg) (h : HReg) (a : XReg) (imm : BitVec 9) (s : State) : Host.Outcome State Fault Refusal :=
  .next (loadMem 8 d h a imm s)
/-- ST.b (R187). -/
def execStB (d : XReg) (h : HReg) (a : XReg) (imm : BitVec 9) (s : State) : Host.Outcome State Fault Refusal :=
  .next (storeMem 1 d h a imm s)
/-- ST.h (R187). -/
def execStH (d : XReg) (h : HReg) (a : XReg) (imm : BitVec 9) (s : State) : Host.Outcome State Fault Refusal :=
  .next (storeMem 2 d h a imm s)
/-- ST.w (R187). -/
def execStW (d : XReg) (h : HReg) (a : XReg) (imm : BitVec 9) (s : State) : Host.Outcome State Fault Refusal :=
  .next (storeMem 4 d h a imm s)
/-- ST.d (R187). -/
def execStD (d : XReg) (h : HReg) (a : XReg) (imm : BitVec 9) (s : State) : Host.Outcome State Fault Refusal :=
  .next (storeMem 8 d h a imm s)

/-! ## Holding for the store queue (R105, R107) -/

/-- A store command of the acting task that issued before cycle `c` has not retired. -/
def State.storesBefore (s : State) (c : Nat) : Bool :=
  (s.me.engine .store).cmds.any fun m => some m.task == s.me.task && decide (m.issued < c)

/-- An ordered act issues: it moves on at once and has its effect when the store commands of earlier cycles have
retired; `waits` says that it waits for them, `pins` that it pins its task in its issue cycle (R43, R105). An act that
waits keeps its operands as they stand (R171). -/
def ordered (act : Late) (waits pins : Bool) (effect : State → State) (s : State) : State :=
  let c := s.cycle
  let s := if pins then pin s else s
  let w := waits && s.storesBefore c
  let s := advance s
  if w then s.onMe fun k => k.onSeq .ctl fun q => { q with acting := some (.stores act c) }
  else effect s

/-! ## Atomics (R103 to R106, R191) -/

/-- The functions of R191, by fn. -/
def atomFn (fn w : Nat) (old v v2 : Nat) : Nat :=
  let o := BitVec.ofNat w old
  let x := BitVec.ofNat w v
  match fn with
  | 0 => (o + x).toNat
  | 1 => (if x.slt o then x else o).toNat
  | 2 => (if o.slt x then x else o).toNat
  | 3 => (if x.ult o then x else o).toNat
  | 4 => (if o.ult x then x else o).toNat
  | 5 => (o &&& x).toNat
  | 6 => (o ||| x).toNat
  | 7 => (o ^^^ x).toNat
  | 8 => x.toNat
  | 9 => if o = x then v2 % 2 ^ w else o.toNat
  | 10 => addElem (if w = 32 then .f32 else .f64) o.toNat x.toNat
  | 11 => o.toNat
  | _ => x.toNat

/-- Whether an order publishes before, or acquires after (R103). -/
def Order.releases : Order → Bool
  | .rel | .ar => true
  | _ => false
def Order.acquires : Order → Bool
  | .acq | .ar => true
  | _ => false

/-- The byte offset of an atomic, its low bits cleared (R191). -/
def State.atomOff (s : State) (o : Atom) (n : Nat) : Int :=
  let a := mOff (s.me.h.get o.h) (s.me.xr o.a) 0
  a - a % n

/-- What an atomic does when it is performed, with its operands as they stood at issue: it publishes and acquires as its order
gives, and swaps the value at the point of coherence (R103 to R106, R191); in the doorbell aperture it rings (R349). -/
def atomicEffect (fn n : Nat) (ks : List Nat) (hint : Nat) (ls : List Leaf) (d : XReg) (v v2 : Nat) (ord : Order) (sc : Scope)
    (s : State) : State :=
  let c := s.cur.core
  let key := ks.headD 0
  let s := if Order.releases ord then publishAll c s.myTid 15 sc s else s
  let r :=
    if isAperture key then
      (((mget (fld key 0 36 / 8) s.bells).map (·.1)).getD 0, ringBell .task (dieOf c) (fld key 0 36) 8 v s)
    else
      atomicHome c s.myTid key n (fun old => atomFn fn (8 * n) old v v2) (markWrite c hint ls [bareLine (key / 64)] s)
  let s := if Order.acquires ord then acquireAt c sc.code (fun _ => true) r.2 else r.2
  let s := if fn = 12 then s else postLater (.x d (BitVec.ofNat 64 r.1)) 1 s
  if ord = .rlx then s else holdOn s

/-- The line of an atomic is read under its key and its check before the atomic issues (R388, R396). -/
def meetAtomic (ls : List Leaf) (ks : List Nat) (s : State) : State :=
  if isAperture (ks.headD 0) then s
  else (linesOf ks).foldl (fun s l => reachHome (dieOf s.cur.core) s.myCtxN ((leafOf ls l).vaOf l) (tagLine ls l) s) s

/-- An atomic of `n` bytes (R105, R106, R191, R349, R416). -/
def atomic (fn n : Nat) (o : Atom) (s : State) : State :=
  let hd := s.me.h.get o.h
  let off := s.atomOff o n
  let v := (s.me.xr o.d).toNat % 2 ^ (8 * n)
  let v2 := (s.me.xr (o.d + 1)).toNat
  if hd.spc then raise 0x0A o.h.val 0 s
  else request hd.buf.toNat off n .atomic 1 s fun ks _ integ ls =>
    if isAperture (ks.headD 0) && !(n = 8 && (fn = 8 || fn = 12)) then
      raise 0x41 (reqInfo hd.buf.toNat off.toNat) s.cur.word s
    else
      let s := meetAtomic ls ks s
      let qs := ks.map (tagKey ls)
      readPoison (reqInfo hd.buf.toNat off.toNat) integ (if isAperture (ks.headD 0) then none else s.homeAt ls ks) s
        (ordered (.atomic fn n qs hd.hint.toNat ls o.d v v2 o.ord o.scope) (Order.releases o.ord) true
          (atomicEffect fn n qs hd.hint.toNat ls o.d v v2 o.ord o.scope) s)

/-- AADD.w (R191). -/
def execAaddW (o : Atom) (s : State) : Host.Outcome State Fault Refusal := .next (atomic 0 4 o s)
/-- AMIN.w (R191). -/
def execAminW (o : Atom) (s : State) : Host.Outcome State Fault Refusal := .next (atomic 1 4 o s)
/-- AMAX.w (R191). -/
def execAmaxW (o : Atom) (s : State) : Host.Outcome State Fault Refusal := .next (atomic 2 4 o s)
/-- AMINN.w (R191). -/
def execAminnW (o : Atom) (s : State) : Host.Outcome State Fault Refusal := .next (atomic 3 4 o s)
/-- AMAXN.w (R191). -/
def execAmaxnW (o : Atom) (s : State) : Host.Outcome State Fault Refusal := .next (atomic 4 4 o s)
/-- AAND.w (R191). -/
def execAandW (o : Atom) (s : State) : Host.Outcome State Fault Refusal := .next (atomic 5 4 o s)
/-- AOR.w (R191). -/
def execAorW (o : Atom) (s : State) : Host.Outcome State Fault Refusal := .next (atomic 6 4 o s)
/-- AXOR.w (R191). -/
def execAxorW (o : Atom) (s : State) : Host.Outcome State Fault Refusal := .next (atomic 7 4 o s)
/-- ASWP.w (R191). -/
def execAswpW (o : Atom) (s : State) : Host.Outcome State Fault Refusal := .next (atomic 8 4 o s)
/-- ACAS.w (R191). -/
def execAcasW (o : Atom) (s : State) : Host.Outcome State Fault Refusal := .next (atomic 9 4 o s)
/-- AFADD.w (R191). -/
def execAfaddW (o : Atom) (s : State) : Host.Outcome State Fault Refusal := .next (atomic 10 4 o s)
/-- ALD.w (R191). -/
def execAldW (o : Atom) (s : State) : Host.Outcome State Fault Refusal := .next (atomic 11 4 o s)
/-- AST.w (R191). -/
def execAstW (o : Atom) (s : State) : Host.Outcome State Fault Refusal := .next (atomic 12 4 o s)
/-- AADD.d (R191). -/
def execAaddD (o : Atom) (s : State) : Host.Outcome State Fault Refusal := .next (atomic 0 8 o s)
/-- AMIN.d (R191). -/
def execAminD (o : Atom) (s : State) : Host.Outcome State Fault Refusal := .next (atomic 1 8 o s)
/-- AMAX.d (R191). -/
def execAmaxD (o : Atom) (s : State) : Host.Outcome State Fault Refusal := .next (atomic 2 8 o s)
/-- AMINN.d (R191). -/
def execAminnD (o : Atom) (s : State) : Host.Outcome State Fault Refusal := .next (atomic 3 8 o s)
/-- AMAXN.d (R191). -/
def execAmaxnD (o : Atom) (s : State) : Host.Outcome State Fault Refusal := .next (atomic 4 8 o s)
/-- AAND.d (R191). -/
def execAandD (o : Atom) (s : State) : Host.Outcome State Fault Refusal := .next (atomic 5 8 o s)
/-- AOR.d (R191). -/
def execAorD (o : Atom) (s : State) : Host.Outcome State Fault Refusal := .next (atomic 6 8 o s)
/-- AXOR.d (R191). -/
def execAxorD (o : Atom) (s : State) : Host.Outcome State Fault Refusal := .next (atomic 7 8 o s)
/-- ASWP.d (R191). -/
def execAswpD (o : Atom) (s : State) : Host.Outcome State Fault Refusal := .next (atomic 8 8 o s)
/-- ACAS.d (R191). -/
def execAcasD (o : Atom) (s : State) : Host.Outcome State Fault Refusal := .next (atomic 9 8 o s)
/-- AFADD.d (R191). -/
def execAfaddD (o : Atom) (s : State) : Host.Outcome State Fault Refusal := .next (atomic 10 8 o s)
/-- ALD.d (R191). -/
def execAldD (o : Atom) (s : State) : Host.Outcome State Fault Refusal := .next (atomic 11 8 o s)
/-- AST.d (R191). -/
def execAstD (o : Atom) (s : State) : Host.Outcome State Fault Refusal := .next (atomic 12 8 o s)

/-! ## Fences, flushes and invalidations (R109, R110, R192, R193) -/

/-- The release of a fence: publication in a pinned task, the end of an epoch in an unpinned one (R110). -/
def fenceRelease (scope : Scope) (s : State) : State :=
  if s.isPinned then publishTask s.cur.core s.myTid scope s else s.onTask s.myTid fun t => t.closeEpoch scope

/-- What a fence does when it is performed: its release, unless it is FENCE.acq, and then its acquire, unless it is
FENCE.rel (R109). -/
def fenceEffect (releases acquires : Bool) (sc : Scope) (s : State) : State :=
  let s := if releases then fenceRelease sc s else s
  holdOn (if acquires then acquireAt s.cur.core sc.code (fun _ => true) s else s)

/-- FENCE.acq (R109). -/
def execFenceAcq (sc : Scope) (s : State) : Host.Outcome State Fault Refusal :=
  .next (fenceEffect false true sc (advance s))
/-- FENCE.rel (R109). -/
def execFenceRel (sc : Scope) (s : State) : Host.Outcome State Fault Refusal :=
  .next (ordered (.fence false sc) true false (fenceEffect true false sc) s)
/-- FENCE.ar (R109). -/
def execFenceAr (sc : Scope) (s : State) : Host.Outcome State Fault Refusal :=
  .next (ordered (.fence true sc) true false (fenceEffect true true sc) s)

/-- The key ranges of the pages that translate in a virtual range of a buffer with interleave `ilv`, whose steps of 256 bytes or more
stay together (R63). -/
def State.rangeKeys (s : State) (x : Context) (ilv : Nat) : Nat → Nat → Nat → List (Nat × Nat)
  | 0, _, _ => []
  | n + 1, va, stop =>
    if stop ≤ va then []
    else
      match s.walk x va with
      | .error _ => s.rangeKeys x ilv n (va - va % 4096 + 4096) stop
      | .ok l =>
        let step := if ilv = 1 || ilv = 2 then 256 else l.size
        let nxt := va - va % step + step
        let k := ({ l with ilv := ilv } : Leaf).keyOf va
        (k, k + (Nat.min nxt stop - va)) :: s.rangeKeys x ilv n nxt stop

/-- The keys in the lines of the virtual bytes from `lo` up to `hi` (R193). -/
def State.inRange (s : State) (ilv lo hi : Nat) : Nat → Bool :=
  match s.myCtx with
  | none => fun _ => false
  | some x =>
    let rs := s.rangeKeys x ilv ((hi - lo) / (if ilv = 1 || ilv = 2 then 256 else 4096) + 2) lo hi
    fun k => rs.any fun r => decide (r.1 / 64 ≤ k / 64) && decide (k / 64 * 64 < r.2)

/-- The interleave and the virtual bytes of the range that FLUSH and INV name, after steps 1, 2 and 4 of R380 (R193). -/
def rangeOp (h : HReg) (a : XReg) (s : State) (act : Nat → Nat → Nat → State → State) : State :=
  let hd := s.me.h.get h
  if hd.spc then advance s
  else
    match s.myCtx with
    | none => s
    | some x =>
      let off := hd.off.toNat
      let len := (s.buffer x hd.buf.toNat).len
      let n := if a = 0 || s.me.xr a = 0 then len - off else (s.me.xr a).toNat
      match s.checkEntry x s.myCtxN hd.buf.toNat off n none with
      | .error (c, i, j) => raise c i j s
      | .ok b => act b.ilv (b.vbase + off) (b.vbase + off + n) s

/-- What FLUSH does when it is performed: in a pinned task the buffered bytes of the range, with their poison, and the dirty
lines of it are published, the epochs in their order; in an unpinned task an epoch ends (R109, R110, R193, R389). DEDUCED
(log 70): from package scope on, the T1 lines of the range that lie dirty in a memory-side cache go to their memory, as in the
example of R396. -/
def flushEffect (sc : Scope) (lo hi ilv : Nat) (s : State) : State :=
  holdOn <|
    if s.isPinned then
      let p := s.inRange ilv lo hi
      let s := cumulate s.cur.core sc.code p
        (publishWhere s.cur.core s.myTid (fun e => (e.scope.map Scope.code).getD sc.code) p s)
      if 3 ≤ sc.code then ((s.behind.map (·.1)).filter fun l => p (64 * l)).foldl (fun s l => writeBack l s) s else s
    else s.onTask s.myTid fun t => t.closeEpoch sc

/-- FLUSH: as FENCE.rel for the lines of the range (R109, R110, R193). -/
def execFlush (sc : Scope) (h : HReg) (a : XReg) (s : State) : Host.Outcome State Fault Refusal :=
  .next (rangeOp h a s fun ilv lo hi => ordered (.flush sc lo hi ilv) true false (flushEffect sc lo hi ilv))

/-- INV: as FENCE.acq for the copies in the range (R109, R193). -/
def execInv (sc : Scope) (h : HReg) (a : XReg) (s : State) : Host.Outcome State Fault Refusal :=
  .next (rangeOp h a s fun ilv lo hi s => holdOn (acquireAt s.cur.core sc.code (s.inRange ilv lo hi) (advance s)))

/-! ## PHASE and COMMIT (R37, R111, R120, R194) -/

/-- The code of a level (R156). -/
def levelCode : Level → Nat
  | .task => 0 | .cl => 1 | .die => 2 | .pkg => 3 | .pod => 4

/-- What PHASE does when it is performed: it publishes, arrives and waits for the flip (R37, R100, R111). -/
def phaseEffect (l : Level) (s : State) : State :=
  let s := publishArriving s.cur.core s.myTid l s
  if l = .task then s
  else
    let s := s.onTask s.myTid fun t => { t with arrived := some l }
    let s := s.onMe fun k => k.onSeq .ctl fun q => { q with acting := some (.phase l) }
    checkFlips ((s.myTask.map (·.record.team)).getD 0) s

/-- PHASE: publishes, arrives and waits for the flip (R37, R111); DOMAIN where the level is not enabled or the team
is not gang-scheduled (R366). -/
def execPhase (l : Level) (s : State) : Host.Outcome State Fault Refusal :=
  .next <| match s.myTask with
    | none => s
    | some t =>
      if l != .task && ((domainOf l t.dmr).isNone || !s.gangTeam t.record) then raise 0x13 t.dmr.toNat (levelCode l) s
      else ordered (.phase l) true true (phaseEffect l) (s.onTask s.myTid fun t => { t with phased := true })

/-- What COMMIT does when it is performed: it publishes at package scope (R120, R194). -/
def commitEffect (s : State) : State := holdOn (publishAll s.cur.core s.myTid 15 .pkg s)

/-- A pinned task holds nothing that a COMMIT would publish or wait for (R194). -/
def State.nothingHeld (s : State) : Bool :=
  !s.storesBefore s.cycle && (s.myTask.map fun t => t.pinned && t.held.isEmpty && t.epochs.all (·.cells.isEmpty)).getD false

/-- COMMIT: publishes at package scope and pins; it takes one cycle in a pinned task with an empty phase buffer (R120,
R194). -/
def execCommit (s : State) : Host.Outcome State Fault Refusal :=
  .next (if s.nothingHeld then publishAll s.cur.core s.myTid 15 .pkg (advance s)
    else ordered .commit true true commitEffect s)

/-! ## Barrier instructions (R116, R201, R202) -/

/-- The object that a slot names. -/
def State.slotRef (s : State) (k : KReg) : BarRef := s.slotRefOn s.cur.core k

/-- A slot's binding or bit changed. -/
def onSlotK (k : KReg) (f : Slot → Slot) (s : State) : State :=
  s.onMe fun c => { c with slots := c.slots.set k.val (f (c.slots.get k)) k.isLt }

/-- BARSLOT for a slot with no binding (R366). -/
def bound (k : KReg) (s : State) (act : State → State) : State :=
  if (s.me.slots.get k).bound then act s else raise 0x0D k.val 0 s

/-- A barrier update of the control stream: held in an unpinned task when the object lies in memory (R115). -/
def postBar (k : KReg) (op : BarOp) (s : State) : State :=
  let r := s.slotRef k
  if !r.spad && !s.isPinned then
    s.onTask s.myTid (Task.hold (.bar r op.code.1 op.code.2 [] (stampOf s.cycle .ctl) .ctl s.pos 0))
  else
    let u := barFrom s.cur.core s.myTid r op [] s
    match u.2 with
    | some (c, i, j) => raise c i j u.1
    | none => u.1

/-- BSLOT: binds a slot and copies the object's PH into it (R116, R201). -/
def execBslot (k : KReg) (h : HReg) (a : XReg) (s : State) : Host.Outcome State Fault Refusal :=
  let hd := s.me.h.get h
  let off := mOff hd (s.me.xr a) 0
  let off := off - off % 16
  .next <|
    if hd.spc then
      if off < 0 || !s.me.inSpad off.toNat 16 then raise 0x09 (s.me.spadBad off) s.me.spadSize s
      else
        poolRead off.toNat 16 s fun s =>
          let s := onSlotK k (fun _ => ⟨true, true, off.toNat, false⟩) s
          advance (postLater (.slot k (barPh (s.barRead (s.slotRef k)))) 1 s)
    else request hd.buf.toNat off 16 .read 0 s fun ks _ integ ls =>
      let s := ls.foldl (fun s l => markLeaf (dieOf s.cur.core) l false 1 s) (acquireMoved s.cur.core ls (meetAtomic ls ks s))
      readPoison (reqInfo hd.buf.toNat off.toNat) integ (if integ = 1 then s.homeAt ls ks else none) s <|
        match s.myCtx with
        | none => s
        | some x =>
          let va := (s.buffer x hd.buf.toNat).vbase + off.toNat
          let w := s.barRead ⟨false, s.cur.core, s.myCtxN, va⟩
          match barSpare ⟨false, s.cur.core, s.myCtxN, va⟩ w with
          | some b => raise 0x02 (spareInfo w b).1 b s
          | none => advance (postLater (.slot k (barPh w)) 1 (onSlotK k (fun _ => ⟨true, false, va, false⟩) s))

/-- A posted update moves on, and `done` follows it, unless it faulted: a faulting instruction has no effect (R372). -/
def postAdvance (k : KReg) (op : BarOp) (s : State) (done : State → State) : State :=
  let t := postBar k op s
  if t.me.faultAt == s.me.faultAt then advance (done t) else t

/-- BINIT (R113, R201, R202). -/
def execBinit (k : KReg) (a : XReg) (sc : Scope) (s : State) : Host.Outcome State Fault Refusal :=
  .next (bound k s fun s =>
    if (s.me.slots.get k).spad && sc != .core then raise 0x02 sc.code 0 s
    else postAdvance k (.init ((s.me.xr a).toNat % 65536) sc.code) s (onSlotK k fun b => { b with phase := false }))

/-- BEXPECT (R113, R201). -/
def execBexpect (k : KReg) (a : XReg) (s : State) : Host.Outcome State Fault Refusal :=
  .next (bound k s fun s => postAdvance k (.expect (s.me.xr a).toNat) s id)
/-- BARRIVE (R113, R201). -/
def execBarrive (k : KReg) (s : State) : Host.Outcome State Fault Refusal := .next (bound k s fun s => postAdvance k .arrive s id)

/-- The object's PH differs from the slot's bit. -/
def State.flipped (s : State) (k : KReg) : Bool := barPh (s.barRead (s.slotRef k)) != (s.me.slots.get k).phase

/-- A read of an object: of one in the scratchpad, POOLSRAM where the pool cannot deliver it (R391); of one in memory, LINK where
its path has failed (R417), RESERVED for a reserved bit that is set (R6, R112), and its page is marked (R67, R80). -/
def sound (k : KReg) (s : State) (act : State → State) : State :=
  let r := s.slotRef k
  if r.spad then poolRead r.addr 16 s act
  else
  match s.barLink s.cur.core r with
  | some (i, j) => raise 0x40 i j s
  | none =>
    let w := s.barRead r
    match barSpare r w with
    | some b => raise 0x02 (spareInfo w b).1 b s
    | none => act (markBar s.cur.core r false s)

/-- The flip is seen: the slot's bit toggles, and the lines counted in the phase are acquired at SCP (R116). -/
def seeFlip (k : KReg) (s : State) : State :=
  let r := s.slotRef k
  let ls := ((s.counted.find? fun c => c.1 == s.barId r).map (·.2.2)).getD []
  let s := acquireAt s.cur.core (barScp (s.barRead r)) (fun x => ls.contains (x / 64)) s
  onSlotK k (fun b => { b with phase := !b.phase }) s

/-- BWAIT (R116, R201). -/
def execBwait (k : KReg) (s : State) : Host.Outcome State Fault Refusal :=
  .next (bound k s fun s => sound k s fun s =>
    if s.flipped k then advance (seeFlip k s)
    else stall .barrier 0 ((advance (addWaiter s.cur.core k true s)).onMe fun c => c.onSeq .ctl fun q =>
      { q with acting := some (.barrier k) }))

/-- BTEST (R116, R201). DEDUCED (log 92): a result of true acquires the counted lines at SCP, as BWAIT does. -/
def execBtest (f : FReg) (k : KReg) (s : State) : Host.Outcome State Fault Refusal :=
  .next (bound k s fun s => sound k s fun s =>
    let v := s.flipped k
    advance (postLater (.f f v) 1 (if v then seeFlip k s else s)))

/-- The head entry of the leaf of a virtual address, where only its own line cannot be read (R65, R381, R390): an upper-level
entry, or an indexed one that is not the head, that cannot be read makes the walk find no leaf. -/
def State.chartPoison (s : State) (va : Nat) : Except (Nat × Nat × Nat) Leaf → Option Nat
  | .ok _ => none
  | .error (r, lvl, e) =>
    let w := rdNat s.mem (t1 e) 16
    let c := fld w 2 3
    let i := fld va (12 + 11 * lvl) 11
    let n := if c ≤ 5 then 4 ^ c else 2 * 4 ^ (c - 6)
    let hd := e - 16 * (i % n)
    if r = 3 && bitAt w 0 && bitAt w 1 && ((c ≤ 5 && lvl = 0) || (6 ≤ c && lvl = 1))
        && (hd == e || !s.unreadable (t1 e / 64)) then some hd
    else none

/-- The entry at which a walk ended, whose home die serves it (R70). -/
def walkEnd : Except (Nat × Nat × Nat) Leaf → Nat
  | .ok l => l.head
  | .error (_, _, e) => e

/-- CHRD (R216): the head leaf, FRAME and KEYID zero for a non-secure task, zeros where no valid leaf translates; POISON
where the head entry lies in a line that cannot be read (R390), LINK where its home die cannot be reached (R417). -/
def execChrd (d : XReg) (h : HReg) (a : XReg) (s : State) : Host.Outcome State Fault Refusal :=
  let hd := s.me.h.get h
  let off := mOff hd (s.me.xr a) 0
  .next <| match s.myCtx with
    | none => s
    | some x =>
      if hd.spc then raise 0x0A h.val 0 s
      else
        match s.checkEntry x s.myCtxN hd.buf.toNat off 1 none with
        | .error (c, i, j) => raise c i j s
        | .ok b =>
          let va := (b.vbase + off.toNat) % 2 ^ 56
          let leaf := s.walk x va
          let i0 := reqInfo hd.buf.toNat off.toNat
          let w := match leaf with
            | .error _ => 0
            | .ok l => if x.world then l.bits else l.bits - l.frame * 2 ^ 32 - l.keyid * 2 ^ 16
          if !s.ringPath (dieOf s.cur.core) (Config.homeDie (walkEnd leaf)) then
            raise 0x40 i0 ((Config.homeDie (walkEnd leaf)).val * 256) s
          else
          match s.chartPoison va leaf with
          | some e => raise 0x2A i0 (e / 64 * 64) s
          | none =>
            advance (postLater (.x (d + 1) (BitVec.ofNat 64 (w / 2 ^ 64)))
              1 (postLater (.x d (BitVec.ofNat 64 w)) 1 s))

end Sys2Proof.Machine
end

