-- ==== Sys2Proof/Machine/Records.lean ====
section
/-! DEFINITION. Task records as 128 bytes (R26, R27), the checks of a record (R204, R403 SUB 2), the fill of a
LAUNCH from its image (R148). -/

namespace Sys2Proof.Machine

/-- A lease field (R27). -/
def leaseOf (w : Nat) : Lease := ⟨bitAt w 0, Fin.ofNat 32 (fld w 1 5), fld w 6 25, fld w 31 25⟩

/-- The record of 1,024 bits (R26), with the class, the context and the team given. -/
def recordOf (w ctx team cls : Nat) (gang : Bool) : TaskRec where
  ctx := ctx
  team := team
  depth := 0
  cls := cls
  gang := gang
  resume := false
  ndim := fld w 50 2
  hord := fld w 52 6
  img := fld w 64 56
  rimg := fld w 128 56
  lo := #v[fld w 192 32, fld w 256 32, fld w 320 32]
  hi := #v[fld w 224 32, fld w 288 32, fld w 352 32]
  gr := #v[fld w 384 16, fld w 400 16, fld w 416 16]
  areg := fld w 432 7
  aspd := fld w 439 7
  part := fld w 448 32
  awr := fld w 480 24
  atime := fld w 512 48
  leases := (List.range 8).map fun i => leaseOf (fld w (576 + 56 * i) 56)

/-- The lowest set bit of a field that must be zero, if any. -/
def lowBit (w lo len : Nat) : Option Nat :=
  if fld w lo len = 0 then none else some (lo + trailZeros (fld w lo len) 0 len)

/-- The least of some bit numbers. -/
def leastBit : List (Option Nat) → Option Nat
  | [] => none
  | none :: t => leastBit t
  | some n :: t => some ((leastBit t).elim n (Nat.min n))

/-- The offending bit of an axis of a record written as `w` and filled to `v`: its fields as written must be zero at
NDIM or above; below it the grain is 1 or more and HI exceeds LO after the fill (R26, R204, R403). DESIGN CHOICE (log 92): of an axis
with HI not above LO, HI is the field named. -/
def axisBit (w v i : Nat) : Option Nat :=
  if fld v 50 2 ≤ i then leastBit [lowBit w (192 + 64 * i) 64, lowBit w (384 + 16 * i) 16]
  else leastBit [if fld v (384 + 16 * i) 16 = 0 then some (384 + 16 * i) else none,
    if fld v (224 + 64 * i) 32 ≤ fld v (192 + 64 * i) 32 then some (224 + 64 * i) else none]

/-- The first offending bit of a record (R204, R403). -/
def recordBit (w v : Nat) : Option Nat :=
  leastBit ([lowBit w 58 6, lowBit w 120 8, lowBit w 184 8, lowBit w 446 2, lowBit w 504 8, lowBit w 560 16,
    if fld v 50 2 = 0 then some 50 else none] ++ (List.range 3).map (axisBit w v))

/-- A field of `len` bits at `lo` replaced when it is zero. -/
def fillField (w lo len v : Nat) : Nat := if fld w lo len = 0 then w + v % 2 ^ len * 2 ^ lo else w

/-- The fill of R148 from an image: partition word, allowances, dimensions, halving order, grains and leases. -/
def fillRecord (g : Image) (w : Nat) : Nat :=
  let a := g.num 0x13 0 16
  let d := g.num 0x14 0 8
  let w := fillField w 448 32 (g.num 0x12 0 4)
  let w := fillField w 432 7 (fld a 0 7)
  let w := fillField w 439 7 (fld a 8 7)
  let w := fillField w 480 24 (fld a 16 24)
  let w := fillField w 512 48 (fld a 64 48)
  let w := fillField w 50 2 (fld d 0 2)
  let w := fillField w 52 6 (fld d 2 6)
  let w := (List.range 3).foldl (fun w i => fillField w (384 + 16 * i) 16 (fld d (16 + 16 * i) 16)) w
  (List.range 8).foldl (fun w i => fillField w (576 + 56 * i) 56 (fld (g.num 0x15 (8 * i) 8) 0 56)) w

end Sys2Proof.Machine
end

