-- ==== Sys2Proof/Machine/TaskInstr.lean ====
section
/-! DEFINITION. Allocation, tasks, switches, waking, pool objects and REPART (R59, R83 to R85, R200, R203 to R211,
R394). -/

namespace Sys2Proof.Machine

/-! ## Allocation (R200) -/

/-- ALLOC: a request over the limit meets the allowance (R44, R58, R363); otherwise xd takes the next free position. -/
def alloc (spad : Bool) (d a : XReg) (imm : BitVec 14) (s : State) : State :=
  let k := s.me
  let n := (k.xr a + imm.signExtend 64).toNat
  let size := if spad then k.bndb - k.bnda else k.bnda
  let allowance := (s.myTask.map fun t => if spad then t.record.aspd else t.record.areg).getD 0
  let alc := if spad then k.allocS else k.allocV
  if Nat.min size allowance < alc + n then
    exhaust s.cur.core s.myTid (if spad then 0 else 1) n (fun c i j s => raise c i j s) s
  else
    let s := s.onMe fun k => if spad then { k with allocS := alc + n } else { k with allocV := alc + n }
    advance (post (.x d (BitVec.ofNat 64 (if spad then 65536 * alc else 256 * alc))) 1 s)

/-- ALLOC.S (R200). -/
def execAllocS (d a : XReg) (imm : BitVec 14) (s : State) : Host.Outcome State Fault Refusal := .next (alloc true d a imm s)
/-- ALLOC.V (R200). -/
def execAllocV (d a : XReg) (imm : BitVec 14) (s : State) : Host.Outcome State Fault Refusal :=
  .next (alloc false d a imm s)

/-! ## SPAWN, END, DMRW, WAKE, SEV -/

/-- SPAWN (R28, R204): a record that passes makes a task of the spawner's team and context; one that fails raises
RESERVED. -/
def execSpawn (a : XReg) (s : State) : Host.Outcome State Fault Refusal :=
  let off := (s.me.xr a).toNat / 128 * 128
  .next <| match s.myTask with
    | none => s
    | some t =>
      if !s.me.inSpad off 128 then raise 0x09 (s.me.spadBad off) s.me.spadSize s
      else poolRead off 128 s fun s =>
        let w := s.me.spadRd off 128
        match recordBit w w with
        | some b => raise 0x02 (fld w (b / 64 * 64) 64) b s
        | none =>
          let r := recordOf w t.record.ctx t.record.team (Nat.max t.record.cls (fld w 45 3)) false
          let s := makeTask r s.timeUs 0 (pin s)
          let s := s.onTeam t.record.team fun m => { m with live := m.live + 1 }
          (advance (refresh t.record.ctx 0 s)).onMe fun k => k.onSeq .ctl fun q =>
            { q with hold := s.cycle + 4, holdCause := .issue }

/-- END (R41, R205): the control stream issues nothing more; the swap is OVERLAY_SWAP. -/
def execEndT (s : State) : Host.Outcome State Fault Refusal :=
  .next (s.onMe fun k => { k.onSeq .ctl fun q => { q with stopped := true } with ended := true })

/-- DMRW (R36, R208): DOMAIN after the task's first PHASE; the DMR changes as the cycle ends, and its reserved bits stay zero. -/
def execDmrw (a : XReg) (s : State) : Host.Outcome State Fault Refusal :=
  .next <| match s.myTask with
    | none => s
    | some t =>
      if t.phased then raise 0x13 t.dmr.toNat 7 s
      else advance (s.onTask s.myTid fun t => { t with dmrNext := some (s.me.xr a &&& 0x0000FFFFFFFFFF0F) })

/-- WAKE: held with the provisional effects of an unpinned task (R53, R207). -/
def execWake (a : XReg) (s : State) : Host.Outcome State Fault Refusal :=
  let n := (s.me.xr a).toNat % 65536
  .next <| advance <|
    if s.isPinned then wakeCtx n ((s.myCtx.map (·.world)).getD false) s
    else s.onTask s.myTid (Task.hold (.wake n (stampOf s.cycle .ctl)))

/-- SEV: held with the provisional effects of an unpinned task (R54, R207). -/
def execSev (s : State) : Host.Outcome State Fault Refusal :=
  .next <| advance <|
    if s.isPinned then sevCtx s.myCtxN s else s.onTask s.myTid (Task.hold (.sev (stampOf s.cycle .ctl)))

/-! ## Leaving through the context engine -/

/-- An act that records the control position waits until every exposed write has landed (R174); then the task's
queues drain before its save (R47, R49). -/
def leaveBy (why : Leave) (s : State) : State :=
  stall .switch 0 ((advance (pin s)).onMe fun k => { k with mode := .drain why })

/-- YIELD (R51). -/
def execYield (s : State) : Host.Outcome State Fault Refusal :=
  .next (if s.me.settled then leaveBy .yield s else stall .switch 0 s)

/-- What PARK does when it is performed with WPEND set: it publishes and clears WPEND, and the task goes on (R52). -/
def parkEffect (s : State) : State :=
  let s := publishAll s.cur.core s.myTid 15 .pkg s
  let s := s.onCtx s.myCtxN fun x => { x with wpend := false }
  (holdOn s).onMe fun k => k.onSeq .ctl fun q => { q with holdCause := .switch }

/-- PARK (R52, R206), once every exposed write has landed (R174): a reserved park word raises RESERVED; with WPEND set the
task publishes and goes on. -/
def execPark (a : XReg) (s : State) : Host.Outcome State Fault Refusal :=
  let w := (s.me.xr a).toNat
  let reason := fld w 32 4
  .next <|
    if !s.me.settled then stall .switch 0 s
    else if reason < 1 || 3 < reason then raise 0x02 w 32 s
    else if fld w 36 28 != 0 then raise 0x02 w ((lowBit w 36 28).getD 0) s
    else if (s.myCtx.map (·.wpend)).getD false then stall .switch 0 (ordered .park true true parkEffect s)
    else leaveBy (.park (w % 2 ^ 32) reason) s

/-- The queued record whose saved run CSW names (R209). -/
def State.savedTask (s : State) (n run : Nat) : Option Nat :=
  (s.tasks.find? fun t =>
    t.2.record.ctx == n && t.2.standing == .queued && t.2.record.resume && t.2.record.rimg == 4096 * run).map (·.1)

/-- CSW (R50, R209, R366): PRIV in a non-secure task, RESERVED for its operand; the named record is taken with its leases and the
issuing task drains. DESIGN CHOICE (log 90): while the leases of the record cannot be granted (R71), CSW does not issue. -/
def switchTo (reg : Bool) (a : XReg) (s : State) : State :=
  let w := (s.me.xr a).toNat
  let n := w % 65536
  if !((s.myCtx.map (·.world)).getD false) then raise 0x04 s.cur.word 0 s
  else if !s.me.settled then stall .switch 0 s
  else
    match lowBit w 48 16 with
    | some b => raise 0x02 w b s
    | none =>
      if n = 0 || ((mget n s.contexts).map (·.state)).getD 0 = 0 then raise 0x02 w 0 s
      else
        match s.savedTask n (fld w 16 32) with
        | none => raise 0x02 w 0 s
        | some t =>
          if !((mget t s.tasks).map s.grantable).getD false then stall .switch 0 s
          else leaveBy (.csw reg t) (grantLeases t (s.onTask t fun u => { u with standing := .staged s.cur.core }))

/-- CSW, full mode (R209). -/
def execCsw (a : XReg) (s : State) : Host.Outcome State Fault Refusal := .next (switchTo false a s)
/-- CSW.reg (R209). -/
def execCswReg (a : XReg) (s : State) : Host.Outcome State Fault Refusal := .next (switchTo true a s)

/-- The task's standing after its save, and its parking (R47, R50 to R52, R206). DESIGN CHOICE (log 90): park time is the end of the
save. A task that gave up its core in PHASE and
whose phase has flipped since is queued (R38). -/
def standAfter (why : Leave) (arrived : Bool) (s : State) : Standing :=
  match why with
  | .park hint reason => .parked reason (s.timeUs + hint)
  | .phase => if arrived then .phaseHeld else .queued
  | .faulted => .faultHeld
  | .yield | .preempt _ | .csw _ _ => .queued

/-- A control stream that waits in BWAIT is saved at the BWAIT, which waits again (R87, R116); where a transfer has taken
it past its BWAIT, the task keeps the slot that it waits for (log 80). -/
def saveWaiter (c : CoreId) (tid : Nat) (s : State) : State :=
  match ((s.core c).seq .ctl).acting with
  | some (.barrier b) =>
    let p := ((s.core c).seq .ctl).pos
    let here := decide (0 < p) && ((s.core c).plane.ctl[p - 1]?.map fun w => decodeCtl w.toNat) == some (.ok (.bwait b))
    let s := unwait c s
    if here then s.onCore c fun k => k.onSeq .ctl fun q => { q with pos := q.pos - 1 }
    else s.onTask tid fun t => { t with phaseBar := some b }
  | _ => s

/-- A run is loaded on a core that a CSW has saved (R50, R209): register mode leaves the pool as it stands. -/
def loadRun (c : CoreId) (tid till : Nat) (reg : Bool) (old : Core) (s : State) : State :=
  let s := startTask c tid till true s
  if !reg then s
  else
    s.onCore c fun k => { k with
      bnda := old.bnda, bndb := old.bndb, bndc := old.bndc, pool := old.pool, poison := old.poison, o := old.o
      latch := old.latch, tok := old.tok, guards := old.guards, fq := old.fq, slots := old.slots, spb := old.spb
      spl := old.spl, sp := old.sp, tdep := old.tdep, allocV := old.allocV, allocS := old.allocS }

/-- A save that finds no free run in the save area (R86, R397). -/
def State.noRun (s : State) (c : CoreId) (tid : Nat) (reg : Bool) : Bool :=
  match (mget tid s.tasks).bind fun t => mget t.record.ctx s.contexts with
  | none => true
  | some x => (s.findRun x (runBlocks reg (s.core c)) x.savel 1).isNone

/-- The end of a save (R49 to R52, R86, R397): the task publishes at package scope, its core state is written, and it
leaves the core with RESUME = 1. Where there is no free run, a pre-emption of an unpinned task discards it, and any other save
raises SAVEFULL. -/
def finishSave (c : CoreId) (why : Leave) (s : State) : State :=
  match (s.core c).task with
  | none => s
  | some tid =>
    let reg := match why with
      | .csw r _ => r
      | _ => false
    if why == .preempt true && s.noRun c tid reg then discardTask c .queued s
    else
    let s := endStop c 4 (saveWaiter c tid s)
    let old := s.core c
    let s := publishAll c tid 15 .pkg (s.onTask tid fun t => { t with pinned := true })
    if (s.core c).mode = .fault then s
    else
      match saveTask c tid reg s with
      | (none, s) =>
        let x := (mget tid s.tasks).bind fun t => mget t.record.ctx s.contexts
        let at' := match why with
          | .preempt _ | .faulted => (old.seq .ctl).pos
          | _ => (old.seq .ctl).pos - 1
        raiseOn c ⟨0x2E, .ctl, 15, at', 0, runBlocks reg old, (x.map (·.savel)).getD 0, false⟩ s
      | (some b, s) =>
        let n := ((mget tid s.tasks).map (·.record.ctx)).getD 0
        let s := s.onTask tid fun t => { t with
          record := { t.record with resume := true, rimg := 4096 * b }, standing := standAfter why t.arrived.isSome s, charged := 0
          ready := match why with
            | .yield | .csw _ _ => s.timeUs
            | _ => t.ready
          aged := match why with
            | .yield | .csw _ _ => 0
            | _ => t.aged }
        let s := vacate c s
        match why with
        | .park hint reason =>
          takeShadow c (leaveCtx n reason (s.onCtx n fun x => { x with hint := hint, prsn := reason }))
        | .csw r next =>
          refresh ((mget next s.tasks).elim 0 (·.record.ctx)) 0
            (leaveCtx n 4 (loadRun c next (s.cycle + 1 + (if r then 1 else saveCycles old)) r old s))
        | _ => takeShadow c (leaveCtx n 4 s)

/-! ## Pool objects (R83 to R85, R387) -/

/-- A buffer-table entry's binding rewritten: POOL, PWR, VER, OBJ and, where one is given, VBASE (R63, R83). -/
def bindEntry (x : Context) (i : Nat) (pool pwr : Bool) (ver obj : Nat) (base : Option Nat) (s : State) : State :=
  let a := t1 (x.btbase + 32 * i)
  let w := rdNat s.mem a 32
  let w := w % 2 ^ 160 + b2n pool * 2 ^ 160 + b2n pwr * 2 ^ 161 + ver * 2 ^ 192 + obj * 2 ^ 224
  let w := base.elim w fun v => w - w % 2 ^ 56 + v
  { s with mem := wrNat s.mem a 32 w }

/-- A version's pages mapped where the context's Chart has leaves for them: its frames in T2, and for a reader MASK
bits 1, 3 and 6 clear (R83, R387). -/
def mapVersion (x : Context) (reader : Bool) (base : Nat) (pages : List (Nat × Nat)) (s : State) : State :=
  pages.foldl (fun s p =>
    match s.walk x (base + 4096 * p.1) with
    | .error _ => s
    | .ok l =>
      let m := if reader then l.mask &&& 0xB5 else l.mask
      let s := setFrame l.head 2 p.2 s
      (List.range (entriesOf (fld l.bits 2 3))).foldl (fun s i =>
        { s with mem := wrByte s.mem (t1 (l.head + 16 * i + 1)) (BitVec.ofNat 8 m) }) s) s

/-- The entry is covered by a lease of a task of the context (R83). -/
def State.entryLeased (s : State) (n i : Nat) : Bool := (s.tasksOf n).any fun t => t.2.grants.any fun g => g.1 == i

/-- The control sequencer is held until the entry has been rewritten (R210). -/
def snapDone (s : State) : State := holdOn (advance s)

/-- SNAPO binds an entry to an object's current version, or to a new one (R83); sub-codes of SNAP by R387. -/
def snapOpen (writer : Bool) (a b : XReg) (s : State) : State :=
  let i := (s.me.xr a).toNat % 2 ^ 20
  let o := (s.me.xr b).toNat % 2 ^ 32
  match s.myCtx with
  | none => s
  | some x =>
    let fail (n : Nat) : State := raise 0x2C i n s
    if s.entryBad x i then raise 0x20 i x.btlen s
    else if s.entryLeased s.myCtxN i then fail 1
    else if (s.buffer x i).pool then fail 3
    else
      match mget o s.objects with
      | none => fail 5
      | some p =>
        if writer && p.writer.isSome then fail 2
        else if writer && p.current = 2 ^ 32 - 1 then fail 6
        else
          let v := (mget p.current p.versions).getD (0, [])
          let ver := if writer then p.current + 1 else p.current
          let versions := if writer then mput ver (1, v.2) p.versions else mput ver (v.1 + 1, v.2) p.versions
          let p' := { p with versions := versions, writer := if writer then some ver else p.writer }
          let s := { s with objects := mput o p' s.objects }
          snapDone (mapVersion x (!writer) (p'.baseOf ver) v.2 (bindEntry x i true writer ver o (some (p'.baseOf ver % 2 ^ 56)) s))

/-- SNAPO.rd (R83, R210). -/
def execSnapoRd (a b : XReg) (s : State) : Host.Outcome State Fault Refusal := .next (snapOpen false a b s)
/-- SNAPO.wr (R83, R210). -/
def execSnapoWr (a b : XReg) (s : State) : Host.Outcome State Fault Refusal := .next (snapOpen true a b s)

/-- A version that is not current and has no open binding is reclaimed: its pages that no other version shares are
free frames of the pool (R85). -/
def reclaim (o ver : Nat) (s : State) : State :=
  match mget o s.objects with
  | none => s
  | some p =>
    match mget ver p.versions with
    | none => s
    | some v =>
      if p.current = ver || v.1 != 0 then s
      else
        let rest := mdel ver p.versions
        let mine := (v.2.map (·.2)).filter fun f => !rest.any fun w => w.2.2.any fun q => q.2 == f
        { s with objects := mput o { p with versions := rest } s.objects
                 freeFrames := mput 2 (((mget 2 s.freeFrames).getD []) ++ mine) s.freeFrames }

/-- The failed path to a page of a version in the pool, as the INFO1 of a LINK fault (R416, R419). -/
def State.poolCut (s : State) (d : DieId) (e : Buffer) : Option Nat :=
  match (mget e.obj s.objects).bind fun p => mget e.ver p.versions with
  | none => none
  | some v => v.2.findSome? fun q => s.pathFail d (tierKey 2 (4096 * q.2)) 4096

/-- A binding ends: a writer's version becomes current, and a version that no binding keeps is reclaimed (R83, R85).
DESIGN CHOICE (log 81): PWR, VER and OBJ of the entry become 0 with POOL, as in an entry that was never bound. -/
def endBinding (i : Nat) (s : State) : State :=
  match s.myCtx with
  | none => s
  | some x =>
    let e := s.buffer x i
    let s := bindEntry x i false false 0 0 none s
    let s := match mget e.obj s.objects with
      | none => s
      | some p =>
        let p := { p with versions := mmod e.ver (fun v => (v.1 - 1, v.2)) p.versions }
        let p' := if e.pwr then { p with current := e.ver, writer := none } else p
        let s := { s with objects := mput e.obj p' s.objects }
        reclaim e.obj p.current (reclaim e.obj e.ver s)
    holdOn s

/-- What a writer's SNAPC does when it is performed: a release at system scope, then the end of its binding (R83, R210). -/
def snapEffect (i : Nat) (s : State) : State := endBinding i (publishAll s.cur.core s.myTid 15 .sys s)

/-- SNAPC ends a binding; a writer's is a release at system scope first and makes its version current (R83, R85,
R210, R419). -/
def execSnapc (a : XReg) (s : State) : Host.Outcome State Fault Refusal :=
  let i := (s.me.xr a).toNat % 2 ^ 20
  .next <| match s.myCtx with
    | none => s
    | some x =>
      let e := s.buffer x i
      if s.entryBad x i then raise 0x20 i x.btlen s
      else if s.entryLeased s.myCtxN i then raise 0x2C i 1 s
      else if !e.pool then raise 0x2C i 4 s
      else if e.pwr then
        match s.poolCut (dieOf s.cur.core) e with
        | some i1 => raise 0x40 (reqInfo i 0) i1 s
        | none => ordered (.snapc i) true true (snapEffect i) s
      else endBinding i (advance s)

/-- An ordered act that has issued has its effect (R105, R109, R171). -/
def lateEffect : Late → State → State
  | .atomic fn n ks kid ls d v v2 ord sc => atomicEffect fn n ks kid ls d v v2 ord sc
  | .fence acquires sc => fenceEffect true acquires sc
  | .flush sc lo hi ilv => flushEffect sc lo hi ilv
  | .commit => commitEffect
  | .phase l => phaseEffect l
  | .park => parkEffect
  | .snapc i => snapEffect i

/-! ## REPART (R59, R211, R368, R394) -/

/-- The region of a granule and its offset there. -/
def regionOf (a b c g : Nat) : Nat × Nat :=
  if g < a then (0, g) else if g < b then (1, g - a) else if g < c then (2, g - b) else (3, 0)

/-- The granule keeps its contents over a change of boundaries (R59). -/
def keepsGranule (k : Core) (a b c g : Nat) : Bool :=
  let r := regionOf k.bnda k.bndb k.bndc g
  r.1 != 3 && r == regionOf a b c g

/-- An unretired command of the task touches a granule that changes region (R59). -/
def Core.touchesChange (k : Core) (a b c : Nat) : Bool :=
  k.engines.toList.any fun e => e.cmds.any fun m => some m.task == k.task && m.ranges.any fun r =>
    (List.range 64).any fun g => (regionOf k.bnda k.bndb k.bndc g).1 != (regionOf a b c g).1
      && decide (r.lo < (g + 1) * granule) && decide (g * granule < r.hi)

/-- Step 1 of R59: published dirty lines of granules that leave the cache region go to the cluster cache; which lines they
hold is open (log 8). -/
def leaveCache (nc : Nat) (s : State) : State := if s.me.bndc < nc then evictCore s.cur.core s else s

/-- A miss may be outstanding into the cache region: a result of the control stream that has not landed, or a command that has
started and not retired (R394). -/
def Core.missing (k : Core) : Bool :=
  k.pending.any (·.interlocked) || k.engines.toList.any fun e => e.cmds.any (·.started)

/-- REPART (R59, R211): PARTITION for a word that breaks R56; it waits for the commands that touch a changed granule and, where
granules leave the cache region, for every miss and for the provisional lines to spill, as long as a free value says that the cluster
cache cannot take them (R394; log 94). -/
def execRepart (a : XReg) (s : State) : Host.Outcome State Fault Refusal :=
  let w := (s.me.xr a).toNat % 2 ^ 32
  let na := fld w 0 7
  let nb := fld w 8 7
  let nc := fld w 16 7
  .next <|
    if !partOk w then raise 0x15 w 1 s
    else if s.me.touchesChange na nb nc || (decide (s.me.bndc < nc) && s.me.missing) then stall .repart 0 s
    else if s.me.bndc < nc && (s.myTask.map fun t => t.epochs.any fun e => !e.cells.isEmpty).getD false
        && Config.spillBlocked s.free then stall .repart 0 s.tick
    else
      stall .repart 0 (advance ((leaveCache nc s).onMe fun k => { k with
        pool := k.pool.filter fun c => keepsGranule k na nb nc (c.1 / granule)
        poison := k.poison.filter fun u => decide (65536 ≤ u) || keepsGranule k na nb nc (u * 64 / granule)
        bnda := na, bndb := nb, bndc := nc
        allocV := Nat.min k.allocV na, allocS := Nat.min k.allocS (nb - na) }))

end Sys2Proof.Machine
end

