-- ==== Sys2Proof/Machine/Dispatcher.lean ====
section
/-! DEFINITION. The dispatchers and Sextant: effective classes and inheritance (R301, R303, R406), the choice of a task
for a free core (R302), gang placement (R46, R304), pre-empting requests (R47, R48, R305, R408, R409), the end of a
save (R49) and of a TIME park (R206), ageing (R55). -/

namespace Sys2Proof.Machine

/-! ## Classes -/

/-- The effective class of a task (R301). -/
def Task.effClass (t : Task) : Nat := Nat.min t.inherited (t.record.cls - t.aged)

/-- The class of a queue (R288). -/
def State.queueClass (s : State) (q : Nat) : Nat := fld (rdNat s.mem (s.qcbKey q + 4) 1) 0 3

/-- The physical location that a WAIT at a slot's head watches (R303). -/
def State.watched (s : State) (x : QSlot) : Option Nat :=
  let p := s.packetKey x
  s.vaKey (rdNat s.mem (p + 2) 2) (rdNat s.mem (p + 8) 8)

/-- A slot whose queue waits raises a team to its queue's class: a WAITING slot by the team's signal, an ORDWAIT slot by
its launches (R303, R406). -/
def State.raises (s : State) (x : QSlot) (n : Nat) (m : Team) : Bool :=
  if x.state = 3 then m.csig != 0 && (s.watched x).isSome && s.watched x == s.vaKey m.ctx m.csig
  else x.state == 2 && m.queue == some x.queue && (mget n s.teams).isSome

/-- The class that a team's tasks inherit: the highest of its waiters', 7 for none. -/
def State.inheritedBy (s : State) (n : Nat) (m : Team) : Nat :=
  (s.dies.toList.flatMap fun d => d.slots.toList.filter fun x => x.state == 2 || x.state == 3).foldl
    (fun c x => if s.raises x n m then Nat.min c (s.queueClass x.queue) else c) 7

/-- The home die of a context. -/
def State.homeOf (s : State) (n : Nat) : DieId := ((mget n s.contexts).map (·.home)).getD 0

/-- A task's class changes, in the journal first (R300). -/
def changeClass (tid : Nat) (f : Task → Task) (s : State) : State :=
  match mget tid s.tasks with
  | none => s
  | some t =>
    let t' := f t
    let s := if t'.effClass = t.effClass then s
      else journal (s.homeOf t.record.ctx) 4 tid (t.effClass + t'.effClass * 2 ^ 64) s
    s.onTask tid f

/-- Every team's queued tasks take the class that it inherits now (R303). -/
def inheritClasses (s : State) : State :=
  s.teams.foldl (fun s m =>
    let c := s.inheritedBy m.1 m.2
    s.tasks.foldl (fun s t =>
      if t.2.record.team = m.1 && t.2.inherited != c then changeClass t.1 (fun t => { t with inherited := c }) s else s) s) s

/-- AGEING_STEP: the waiting task `a` has waited a further 2^16 µs; the first Helm core applies it (R55, R301, R413). -/
def execAgeingStep (s : State) : Host.Outcome State Fault Refusal :=
  .next <| match mget s.cur.a s.tasks with
    | none => s
    | some t =>
      let n := (s.timeUs - t.ready) / 65536
      if t.standing == .queued && t.aged < n && s.helmServes (s.homeOf t.record.ctx) 0 then
        changeClass s.cur.a (fun t => { t with aged := n }) s
      else s

/-! ## Scopes -/

/-- A gang team that has not been placed (R46). -/
def Team.unplaced (m : Team) : Bool := m.gang && m.seat.isNone

/-- Two cores are in one place of a scope (R46). -/
def sameSeat (sc : Scope) (a b : CoreId) : Bool :=
  match sc with
  | .cl => clusterOf a == clusterOf b
  | .die => dieOf a == dieOf b
  | .core | .pkg | .pod | .sys => true

/-- A team's placement scope admits a core (R46, R302). -/
def Team.admits (m : Team) (c : CoreId) : Bool :=
  !m.gang || match m.seat with
    | none => true
    | some b => sameSeat m.scope b c

/-- A core that a dispatcher may give a task: it has none, or its task has issued END and its shadow plane is empty
(R302). -/
def Core.isFree (k : Core) : Bool :=
  match k.mode with
  | .idle => k.task.isNone && k.shadow.isNone
  | .run => k.ended && k.shadow.isNone
  | _ => false

/-- The free cores of the package, in order. -/
def State.freeCores (s : State) : List CoreId :=
  if s.railsOff then [] else (List.finRange 288).filter fun c => (s.core c).isFree

/-! ## Placing a task -/

/-- A task is placed on a core: it takes its leases and starts, or is staged in the shadow plane of a task that has
issued END (R39, R71, R302). The time of the load is a free value (log 2). -/
def place (c : CoreId) (tid : Nat) (s : State) : State :=
  match mget tid s.tasks with
  | none => s
  | some t =>
    let s := journal (dieOf c) 5 tid (c.val + t.record.team * 2 ^ 64) s
    let s := grantLeases tid (s.onTeam t.record.team fun m => { m with seat := m.seat.orElse (fun _ => some c),
                                                                       placedAt := s.cycle })
    let s := if (s.core c).task.isNone then
        (startTask c tid (s.cycle + 1 + Config.latency s.free) false s).tick
      else
        let r := stageTask c tid s
        (r.2.onTask tid fun t => { t with standing := .staged c }).onCore c fun k => { k with shadow := some (tid, r.1) }
    refresh t.record.ctx 0 s

/-- A task in its place among others by R302 steps 1 and 2, behind its equals. -/
def insertTask (e : Nat × Task) : List (Nat × Task) → List (Nat × Task)
  | [] => [e]
  | f :: t =>
    if e.2.effClass < f.2.effClass || (e.2.effClass == f.2.effClass && decide (e.2.ready < f.2.ready)) then e :: f :: t
    else f :: insertTask e t

/-- Queued tasks whose leases can be granted, of contexts that no fault and no recall holds (R23, R374), by effective class,
ready time and creation number (R55, R302). -/
def State.candidates (s : State) : List (Nat × Task) :=
  (s.tasks.filter fun t => t.2.standing == .queued
    && !((mget t.2.record.ctx s.contexts).map fun x => x.fault || x.recalled s.cycle).getD true
    && !((mget t.2.record.team s.teams).map (·.drain)).getD true && s.grantable t.2).foldl (fun l t => insertTask t l) []

/-- The task's team is a gang that has not been placed. -/
def State.waitsForGang (s : State) (t : Task) : Bool := ((mget t.record.team s.teams).map Team.unplaced).getD false

/-- How many pages leased by tasks of a context have frames on a die (R302). -/
def State.pagesNear (s : State) (n : Nat) (d : DieId) : Nat :=
  (((s.tasksOf n).flatMap fun t => s.leaseHeads t.2).eraseDups.filter fun h =>
    let w := rdNat s.mem (t1 h) 16
    frameDie (tierKey (fld w 5 2) (fld w 32 40 * 4096)) == some d).length

/-- The cores that requests have freed or are freeing, with the teams that they go to first (R305). -/
abbrev Reserved := List (CoreId × Nat)

/-- The candidates that may take a core: only the waiting team's, while it has some and the core is freed for it
(R305). -/
def allowedOn (rs : Reserved) (c : CoreId) (cs : List (Nat × Task)) : List (Nat × Task) :=
  match rs.find? fun r => r.1 == c && cs.any (·.2.record.team == r.2) with
  | some r => cs.filter (·.2.record.team == r.2)
  | none => cs

/-- The best task for a core among candidates, with whether step 3 gave an affinity (R302). -/
def State.bestFor (s : State) (c : CoreId) (cs : List (Nat × Task)) : Option (Nat × Bool) :=
  match cs.filter fun t => ((mget t.2.record.team s.teams).map fun m => m.admits c && !m.unplaced).getD false with
  | [] => none
  | f :: rest =>
    let tied := (f :: rest).filter fun t => t.2.effClass == f.2.effClass && t.2.ready == f.2.ready
    match tied.find? fun t => (s.core c).lastImages.contains t.2.record.img with
    | some t => some (t.1, true)
    | none =>
      let near (t : Nat × Task) : Nat := s.pagesNear t.2.record.ctx (dieOf c)
      let most := tied.foldl (fun m t => Nat.max m (near t)) 0
      if most = 0 then some (f.1, false) else (tied.find? fun t => near t == most).map fun t => (t.1, true)

/-! ## Gangs (R46, R304) -/

/-- The groups of a scope: the cores of each cluster or die, or all. -/
def groupsOf (sc : Scope) (cs : List CoreId) : List (List CoreId) :=
  match sc with
  | .cl => (List.finRange 36).map fun i => cs.filter fun c => clusterOf c == i
  | .die => (List.finRange 4).map fun i => cs.filter fun c => dieOf c == i
  | .core | .pkg | .pod | .sys => [cs]

/-- The cores that hold no task and are free: those that a gang can take (R304). -/
def State.idleCores (s : State) : List CoreId := s.freeCores.filter fun c => (s.core c).task.isNone

/-- The cores that a gang takes: the free cores of the lowest-numbered group that has enough (R304). -/
def gangSeats (sc : Scope) (n : Nat) (free : List CoreId) : Option (List CoreId) :=
  ((groupsOf sc free).find? fun g => decide (n ≤ g.length)).map (·.take n)

/-- The cores that a waiting gang holds: those of the group with the most free cores, the lowest-numbered on a tie
(R304). -/
def heldCores (sc : Scope) (free : List CoreId) : List CoreId :=
  match (groupsOf sc free).zip (groupsOf sc (List.finRange 288)) with
  | [] => []
  | g :: gs => (gs.foldl (fun b g => if b.1.length < g.1.length then g else b) g).2

/-- The initial tasks of a gang, all of which can be granted. -/
def State.gangTasks (s : State) (n : Nat) : List (Nat × Task) := s.tasks.filter fun t => t.2.record.team == n

/-- All the tasks of a gang are placed in one cycle (R46). -/
def placeGang (n : Nat) (free : List CoreId) (s : State) : Option State :=
  match mget n s.teams with
  | none => none
  | some m =>
    let ts := s.gangTasks n
    if ts.all fun t => t.2.standing == .queued && s.grantable t.2 then
      (gangSeats m.scope ts.length free).map fun cs => (ts.zip cs).foldl (fun s p => place p.2 p.1.1 s) s
    else none

/-! ## Pre-empting requests -/

/-- The class with which a running team counts in R305: the greatest of its running tasks'. -/
def State.runClass (s : State) (n : Nat) : Option Nat :=
  (s.tasks.filter fun t => t.2.record.team == n && match t.2.standing with
    | .running _ => true
    | _ => false).foldl (fun b t => some (Nat.max (b.getD 0) (Nat.min t.2.inherited t.2.record.cls))) none

/-- The running team that a request names: of numerically greatest class, the most recently placed on a tie (R305). -/
def State.victim (s : State) (waiter : Nat) : Option (Nat × Nat) :=
  s.teams.foldl (fun b m =>
    if m.1 = waiter then b
    else match s.runClass m.1 with
      | none => b
      | some c => match b with
        | none => some (m.1, c)
        | some (n, c') =>
          let older := ((mget n s.teams).map (·.placedAt)).getD 0
          if c' < c || (c' == c && decide (older < m.2.placedAt)) then some (m.1, c) else b) none

/-- A class-0 task that is first in its class and finds no free core in its scope sends one request (R305, R407); it reaches
Sextant in the next cycle. A gang's tasks must all be placeable but for the cores, and a gang takes no core that holds a task
(R304). -/
def sendRequest (t : Task) (s : State) : State :=
  let w := t.record.team
  let admits (c : CoreId) : Bool := ((mget w s.teams).map (·.admits c)).getD false
  let whole := !s.waitsForGang t || (s.gangTasks w).all fun u => u.2.standing == .queued && s.grantable u.2
  if (if s.waitsForGang t then s.idleCores else s.freeCores).any admits || !whole then s
  else if t.effClass != 0 || s.preempts.any (·.waiter == w) || s.inputs.any (fun x => x.2.instr == .preemptingRequest && x.2.b == w)
  then s
  else
    match s.victim w, mget w s.teams with
    | some (v, c), some m =>
      if c < 2 then s
      else
        let dl := if m.deadline = 0 then 0 else Nat.max 1 (m.deadline - (s.timeUs - t.ready))
        { s with inputs := s.inputs ++ [(s.cycle + 1,
          { s.cur with kind := .act, instr := .preemptingRequest, num := v, a := dl, b := w })] }
    | _, _ => s

/-! ## DISPATCH -/

/-- The choices of one round: each die that has not lost chooses for the lowest of its free cores that some candidate
fits (R302). -/
def State.picks (s : State) (rs : Reserved) (lost : List DieId) (free : List CoreId) (cs : List (Nat × Task)) :
    List (DieId × CoreId × Nat × Bool) :=
  (List.finRange 4).filterMap fun d =>
    if lost.contains d then none
    else (free.filter fun c => dieOf c == d).findSome? fun c =>
      (s.bestFor c (allowedOn rs c cs)).map fun p => (d, c, p.1, p.2)

/-- A choice loses to that of another die for the same task with an affinity, or else of a lower number (R302). -/
def losesTo (p : DieId × CoreId × Nat × Bool) (q : DieId × CoreId × Nat × Bool) : Bool :=
  p.1 != q.1 && p.2.2.1 == q.2.2.1 && ((q.2.2.2 && !p.2.2.2) || (q.2.2.2 == p.2.2.2 && decide (q.1.val < p.1.val)))

/-- The cores that a gang whose first task is at the top of the lists holds while it cannot be placed (R304). -/
def State.heldFor (s : State) (top : Task) : List CoreId :=
  if s.waitsForGang top then heldCores (((mget top.record.team s.teams).map (·.scope)).getD .pkg) s.idleCores else []

/-- The first gang among candidates that can be placed whole on some cores: the candidates before it, and the state with
it placed (R304). -/
def State.firstGang (s : State) (rs : Reserved) (avail : List CoreId) (cs : List (Nat × Task)) :
    List (Nat × Task) → Option (List (Nat × Task) × State)
  | [] => none
  | t :: rest =>
    let mine := avail.filter fun c => (s.core c).task.isNone && (allowedOn rs c cs).any (·.1 == t.1)
    match (if s.waitsForGang t.2 then placeGang t.2.record.team mine s else none) with
    | some s => some ([], s)
    | none => (s.firstGang rs avail cs rest).map fun r => (t :: r.1, r.2)

/-- The rounds of a cycle: the dispatchers place tasks until none can be placed, in the order of the lists, a gang that
fits as a whole (R302, R304, R305). A gang at the top that does not fit keeps the others off the cores that it holds. -/
def dispatchRounds (rs : Reserved) : Nat → List DieId → State → State
  | 0, _, s => s
  | n + 1, lost, s =>
    let cs := s.candidates
    match cs with
    | [] => s
    | top :: rest =>
      let s := sendRequest top.2 s
      let alone (l : List (Nat × Task)) : List (Nat × Task) := l.filter fun t => !s.waitsForGang t.2
      let go (avail : List CoreId) (gang : Option (List (Nat × Task) × State)) : State :=
        let ps := s.picks rs lost avail (alone ((gang.map (·.1)).getD cs))
        if ps.isEmpty then (gang.map fun g => dispatchRounds rs n lost g.2).getD s
        else
          let won := ps.filter fun p => !ps.any (losesTo p)
          let lost := lost ++ ((ps.filter fun p => ps.any (losesTo p)).map (·.1))
          dispatchRounds rs n lost (won.foldl (fun s p => place p.2.1 p.2.2.1 s) s)
      match s.firstGang rs s.freeCores cs [top] with
      | some g => dispatchRounds rs n lost g.2
      | none =>
        let held := s.heldFor top.2
        let avail := s.freeCores.filter fun c => !held.contains c
        go avail (s.firstGang rs avail cs rest |>.map fun g => (top :: g.1, g.2))

/-- The cores on which a task of a team still runs, within a waiting team's scope. -/
def State.heldBy (s : State) (n waiter : Nat) : List CoreId :=
  s.tasks.filterMap fun t => match t.2.standing with
    | .running c =>
      if t.2.record.team = n && ((mget waiter s.teams).map (·.admits c)).getD true then some c else none
    | _ => none

/-- A request is served when no task of its team holds a core in the requester's scope: PREOVER if it overran
(R47, R408). -/
def serveRequests (s : State) : State :=
  let done := s.preempts.filter fun p => (s.heldBy p.team p.waiter).isEmpty
  let s := done.foldl (fun s p =>
    let n := ((mget p.team s.teams).map (·.ctx)).getD 0
    overrun n p (s.onTeam p.team fun m => { m with drain := false })) s
  { s with preempts := s.preempts.filter fun p => !done.contains p }

/-- DISPATCH: the four dispatchers choose, all at once, for the free cores of this cycle (R302 to R305). -/
def execDispatch (s : State) : Host.Outcome State Fault Refusal :=
  .next (dispatchRounds (s.preempts.flatMap fun p => p.cores.map fun c => (c, p.waiter)) 289 []
    (inheritClasses (serveRequests s)))

/-! ## Sextant (R47, R48) -/

/-- The save time of a task in cycles (R48). -/
def saveTime (t : Task) : Nat := fld t.record.part 16 7 * 65536 / 256 + 64

/-- A save for pre-emption begins: the task issues nothing further and its queues drain; an unpinned task whose save
area has no free run is discarded instead, now or as the save would end (R47, R49, R397). -/
def beginSave (c : CoreId) (tid : Nat) (why : Leave) (s : State) : State :=
  match mget tid s.tasks with
  | none => s
  | some t =>
    match (s.core c).mode with
    | .drain _ | .save _ _ | .fault => s
    | .idle | .load _ _ | .run | .debug _ _ _ =>
      let room := ((mget t.record.ctx s.contexts).bind fun x =>
        s.findRun x (runBlocks false (s.core c)) x.savel 1).isSome
      if !t.pinned && !room then
        discardTask c (match why with
          | .faulted => .faultHeld
          | _ => .queued) s
      else s.onCore c fun k => { k with mode := .drain (match why with
        | .preempt _ => .preempt (!t.pinned)
        | w => w) }

/-- A running task is discarded, if it is unpinned, or saved (R43, R47). -/
def stopRunning (c : CoreId) (tid : Nat) (why : Leave) (s : State) : State :=
  match mget tid s.tasks with
  | none => s
  | some t =>
    if t.pinned then beginSave c tid why s
    else if (s.core c).mode = .fault then s
    else discardTask c (match why with
      | .faulted => .faultHeld
      | _ => .queued) s

/-- The running tasks of a team with their cores. -/
def State.runningOf (s : State) (n : Nat) : List (Nat × Task × CoreId) :=
  s.tasks.filterMap fun t => match t.2.standing with
    | .running c => if t.2.record.team = n then some (t.1, t.2, c) else none
    | _ => none

/-- Sextant's choice (R48): 0 drain, 1 discard, 2 save. -/
def sextant (ts : List Task) (deadline : Nat) : Nat :=
  let within (n : Nat) : Bool := deadline == 0 || decide (n ≤ deadline * Config.cyclesPerUs)
  let d := ts.foldl (fun m t => Nat.max m t.tleft) 0
  let sv := ts.foldl (fun m t => Nat.max m (saveTime t)) 0
  let un := ts.filter fun t => !t.pinned
  let u := (un.map fun t => t.record.atime - t.tleft).sum
  let c := (un.map saveTime).sum
  if within d then 0 else if within sv && decide (c < u) then 2 else 1

/-- A request naming team `n` with a deadline of `us` µs for team `waiter`, served by die `d`, unless the team is complete or one
is outstanding (R47, R48, R409). Its journal entry names deadline, action and waiting team (log 97). -/
def startPreempt (d : DieId) (n us waiter : Nat) (s : State) : State :=
  let ts := s.runningOf n
  if (mget n s.teams).isNone || s.preempts.any (·.team == n) then s
  else
    let act := sextant (ts.map (·.2.1)) us
    let s := journal d 6 n (us % 2 ^ 56 + act * 2 ^ 56 + waiter * 2 ^ 64) s
    let p : Preempt := ⟨n, s.cycle, if us = 0 then none else some (s.cycle + us * Config.cyclesPerUs), act, waiter, false,
      ts.map (·.2.2)⟩
    let s := { s with preempts := s.preempts ++ [p] }
    let ctx := ((mget n s.teams).map (·.ctx)).getD 0
    refresh ctx 4 <|
      if act = 0 then s.onTeam n fun m => { m with drain := true }
      else ts.foldl (fun s t =>
        if act = 1 then stopRunning t.2.2 t.1 (.preempt false) s else beginSave t.2.2 t.1 (.preempt false) s) s

/-- PREEMPTING_REQUEST: a request naming team `num` with deadline `a` µs for team `b`, which the second Helm core of the waiter's
home die serves (R47, R48, R299). -/
def execPreemptingRequest (s : State) : Host.Outcome State Fault Refusal :=
  let d := s.homeOf (((mget s.cur.b s.teams).map (·.ctx)).getD 0)
  .next (if s.helmServes d 1 then startPreempt d s.cur.num s.cur.a s.cur.b s else s)

/-- PREEMPT_OVERRUN: the deadline of the request on team `num` passes while a task of it holds a core in scope
(R408). -/
def execPreemptOverrun (s : State) : Host.Outcome State Fault Refusal :=
  .next <| match s.preempts.find? fun p => p.team == s.cur.num with
    | none => s
    | some p =>
      if p.ovfl || decide (s.cycle < p.deadline.getD (s.cycle + 1)) || (s.heldBy p.team p.waiter).isEmpty then s
      else
        let s := { s with preempts := s.preempts.map fun (q : Preempt) => if q.team = p.team then { q with ovfl := true } else q }
        (s.runningOf p.team).foldl (fun s (t : Nat × Task × CoreId) => stopRunning t.2.2 t.1 (.preempt false) s) s

/-! ## The end of a save, and of a TIME park -/

/-- CONTEXT_SAVE_COMPLETE: the context engine has written the state of the core's task (R49 to R52). -/
def execContextSaveComplete (s : State) : Host.Outcome State Fault Refusal :=
  .next <| match s.me.mode with
    | .save why till => if till ≤ s.cycle then finishSave s.cur.core why s else s
    | _ => s

/-- TIME_PARK_EXPIRY: the time of task `a`, held by a TIME park, has passed (R206). -/
def execTimeParkExpiry (s : State) : Host.Outcome State Fault Refusal :=
  .next <| match mget s.cur.a s.tasks with
    | none => s
    | some t => match t.standing with
      | .parked 2 time =>
        if time ≤ s.timeUs then
          refresh t.record.ctx 0 (startRecall t.record.ctx (releaseParked s.cur.a s))
        else s
      | _ => s

/-- Tasks held by a RESIDENCY park whose leases can all be granted are released (R53, R206). -/
def releaseResident (s : State) : State :=
  s.tasks.foldl (fun s t => match t.2.standing with
    | .parked 3 _ => if s.grantable t.2 then startRecall t.2.record.ctx (releaseParked t.1 s) else s
    | _ => s) s

end Sys2Proof.Machine
end

