-- ==== Sys2Proof/Machine/Queue.lean ====
section
/-! DEFINITION. Engine queues: issue of a command (R29, R60, R235, R236), its operands and their elements (R61, R220,
R222), the checks of handles and elements before it starts (R366, R383), reading and writing its elements with their
poison (R389). -/

namespace Sys2Proof.Machine

/-! ## Issue -/

/-- The cursor with which a sequencer's commands name a handle, and whether a ring replaces CUR (R235). -/
def Core.cursor (k : Core) (q : Seq) (h : HReg) : Int × Bool :=
  let hd := k.h.get h
  match k.tok.toList.find? fun t => t.used && t.bound && t.ring == h && (t.prod == q || t.cons == q) with
  | some t => (hd.cur.toInt + (if t.prod == q then t.p else t.hs : Nat) * hd.s2.toInt, true)
  | none => (hd.cur.toInt, false)

/-- A handle as a command of a sequencer captures it (R60, R235). -/
def Core.capture (k : Core) (q : Seq) (h : HReg) : HReg × Handle × Int :=
  let c := k.cursor q h
  let hd := k.h.get h
  (h, if c.2 then { hd with n2 := 1 } else hd, c.1)

/-- The ring slots that are not free among the bytes of some write ranges, for the queues that a sequencer produces: the
filled ones, those that RADVs ahead in its queue will fill, and the held one (R31, R32, R236, R237). -/
def Core.busySlots (k : Core) (q : Seq) (rs : List Range) : List (QReg × Nat) :=
  (List.finRange 16).flatMap fun i =>
    let t := k.tok.get i
    if !(t.used && t.bound && t.prod == q) then []
    else
      let hd := k.h.get t.ring
      let w : Int := ((fmtOf hd.fmt.toNat).map Fmt.width).getD 8
      let full := (List.range (t.count + t.radvs)).map fun n => (t.oldest + n) % t.depth
      let busy := if t.held then t.hs :: full else full
      (busy.filter fun (n : Nat) =>
        let a : Int := 8 * hd.off.toNat + (hd.cur.toInt + n * hd.s2.toInt) * w
        let lo := k.spadBase + a / 8
        let hi := k.spadBase + (a + hd.s2.toInt * w + 7) / 8
        rs.any fun r => r.write && decide ((r.lo : Int) < hi) && decide (lo < r.hi)).map fun n => (i, n)

/-- The acting sequencer issues a command into an engine's queue, unless the queue is full (R29). -/
def enqueue (e : Engine) (hs : List HReg) (bar : Option KReg) (ranges : List Range) (units : Nat) (s : State) : State :=
  let k := s.me
  if Config.queueDepth ≤ (k.engine e).cmds.length then stall .queueFull (engIdx e).val s
  else
    let m : Cmd := {
      instr := s.cur.instr, word := s.cur.word, num := (k.engine e).next, task := s.myTid, seq := s.cur.seq, pos := s.pos
      issued := s.cycle, handles := hs.map (k.capture s.cur.seq), vl := k.vl, ranges := ranges
      slots := k.busySlots s.cur.seq ranges, entered := s.cycle
      bar := bar.bind fun b => if (k.slots.get b).bound then some (s.slotRef b) else none
      barSlot := bar, fmtWord := none, guarded := false, started := false, till := 0, busy := 0, lands := [], puts := [], writes := [], poison := []
      lines := [], counted := 0, reads := [], got := [], tainted := false, stop := none }
    advanceBy units (s.onMe fun k => k.onEngine e fun q => ⟨q.cmds ++ [m], (q.next + 1) % 65536⟩)

/-- The command of a task with a number in an engine's queue. -/
def Core.cmdOf (k : Core) (e : Engine) (tid num : Nat) : Option Cmd :=
  (k.engine e).cmds.find? fun m => m.task == tid && m.num == num

/-- A command changed. -/
def onCmd (e : Engine) (tid num : Nat) (f : Cmd → Cmd) (s : State) : State :=
  s.onMe fun k => k.onEngine e fun q =>
    { q with cmds := q.cmds.map fun m => if m.task == tid && m.num == num then f m else m }

/-- The command that a perform turn names: engine, task `a`, queue number. -/
def performing (s : State) (act : Cmd → Task → State) : State :=
  match s.me.cmdOf s.cur.eng s.cur.a s.cur.num with
  | none => s
  | some m => match mget m.task s.tasks with
    | none => s
    | some t => act m t

/-- An engine instruction: a turn of its sequencer issues it, a turn of its engine performs the command. -/
def engineInstr (issue perform : State → State) (s : State) : State :=
  if s.cur.kind == .perform then beneath s.cur.core s.cur.a perform s else issue s

/-- The performed command starts; it retires `least` cycles later or after, at a time of the device's choice (R29,
R240; log 2). -/
def begin' (least : Nat) (f : Cmd → Cmd) (s : State) : State :=
  (onCmd s.cur.eng s.cur.a s.cur.num (fun m =>
    f { m with started := true, till := s.cycle + Nat.max 1 least + Config.latency s.free }) s).tick

/-- The performed command raises a fault and does not start. -/
def fail (m : Cmd) (f : Nat × Nat × Nat) (s : State) : State := raiseCmd s.cur.eng m f.1 f.2.1 f.2.2 s

/-! ## Operands and elements (R61, R220) -/

/-- An operand: its handle register, its captured handle and cursor. -/
structure Opd where
  h : HReg
  hd : Handle
  cur : Int
deriving DecidableEq, Repr

/-- The captured operand of a command that a handle field names. -/
def Cmd.opd (m : Cmd) (h : HReg) : Opd :=
  match m.handles.find? (·.1 == h) with
  | some c => ⟨h, c.2.1, c.2.2⟩
  | none => ⟨h, Handle.zero, 0⟩

/-- An operand as it would be captured now. -/
def Core.opd (k : Core) (q : Seq) (h : HReg) : Opd :=
  let c := k.capture q h
  ⟨h, c.2.1, c.2.2⟩

def Opd.fmt (o : Opd) : Fmt := (fmtOf o.hd.fmt.toNat).getD .n8
def Opd.width (o : Opd) : Nat := o.fmt.width

/-- The bit address of an element (R61). -/
def Opd.bit (o : Opd) (d i0 i1 i2 : Int) : Int :=
  8 * o.hd.off.toNat + (o.cur + d + i0 + i1 * o.hd.s1.toInt + i2 * o.hd.s2.toInt) * o.width

/-- The first byte of an element at a bit address, and the byte after its last. -/
def byteLo (a : Int) : Int := a / 8
def byteHi (a : Int) (w : Nat) : Int := (a + w - 1) / 8 + 1

/-- A shape (R220) and its indices in iteration order. -/
abbrev Shape := Nat × Nat × Nat
def indices (n : Shape) : List (Int × Int × Int) :=
  (List.range n.2.2).flatMap fun i2 => (List.range n.2.1).flatMap fun i1 => (List.range n.1).map fun i0 =>
    (Int.ofNat i0, Int.ofNat i1, Int.ofNat i2)
def Shape.size (n : Shape) : Nat := n.1 * n.2.1 * n.2.2

/-- The handle's own shape, an extent of 0 read as 1 (R60, R220). -/
def Opd.shape (o : Opd) : Shape := (ext o.hd.n0.toNat, ext o.hd.n1.toNat, ext o.hd.n2.toNat)

/-- The bit address of an element read in another width than its handle's (R245). -/
def Opd.bitW (o : Opd) (w : Nat) (d i0 i1 : Int) : Int :=
  8 * o.hd.off.toNat + (o.cur + d + i0 + i1 * o.hd.s1.toInt) * w

/-- The pool range from the lowest to the highest byte that a box of elements touches (R33, R222). -/
def Core.rangeOf (k : Core) (o : Opd) (d : Int) (n : Shape) (write : Bool) : List Range :=
  if !o.hd.spc then []
  else
    let ends (m : Nat) : List Int := [0, (m : Int) - 1]
    let as := (ends n.1).flatMap fun i0 => (ends n.2.1).flatMap fun i1 => (ends n.2.2).map fun i2 => o.bit d i0 i1 i2
    let lo := as.foldl min (o.bit d 0 0 0)
    let hi := as.foldl max (o.bit d 0 0 0)
    [⟨(k.spadBase + byteLo lo).toNat, (k.spadBase + byteHi hi o.width).toNat, write⟩]

/-- The whole scratchpad region as an operand range (R222). -/
def Core.spadRange (k : Core) (write : Bool) : Range := ⟨k.spadBase, k.spadBase + k.spadSize, write⟩

/-! ## Checks of a command's own fields -/

/-- A reserved code or bit of a handle that a command uses (R60, R122, R366, R395). -/
def Opd.reserved (o : Opd) : Option (Nat × Nat × Nat) :=
  let info (v b : Nat) : Option (Nat × Nat × Nat) := some (0x02, v, 256 * o.h.val + b)
  if o.hd.spc && fld o.hd.off.toNat 22 22 != 0 then
    info o.hd.off.toNat (20 + (lowBit o.hd.off.toNat 22 22).getD 0)
  else if 6 ≤ o.hd.hint.toNat then info o.hd.hint.toNat 65
  else if (fmtOf o.hd.fmt.toNat).isNone then info o.hd.fmt.toNat 68
  else none

/-- The same for a command that does not read the handle's FMT (R245, R275). -/
def Opd.reservedButFmt (o : Opd) : Option (Nat × Nat × Nat) := Opd.reserved { o with hd := { o.hd with fmt := 1 } }

/-- The first of some faults. -/
def firstOf : List (Option (Nat × Nat × Nat)) → Option (Nat × Nat × Nat)
  | [] => none
  | some f :: _ => some f
  | none :: t => firstOf t

/-- BARSLOT for a counted command whose slot had no binding when it issued (R366). -/
def Cmd.barBad (m : Cmd) : Option (Nat × Nat × Nat) :=
  match m.barSlot, m.bar with
  | some k, none => some (0x0D, k.val, 0)
  | _, _ => none

/-- OPSPACE for a handle of the wrong space (R218, R366). -/
def Opd.spaceBad (o : Opd) (spc : Bool) : Option (Nat × Nat × Nat) :=
  if o.hd.spc == spc then none else some (0x0A, o.h.val, 0)

/-! ## Where elements lie -/

/-- The outcome of the checks of an operand's elements. -/
inductive Loc where
  | ok (ps : List Place) (kid integ : Nat) (ls : List Leaf)
  | wait
  | bad (f : Nat × Nat × Nat)
deriving DecidableEq, Repr

/-- The checks of R380 for every element of a memory operand, in order (R383). -/
def locateMem (s : State) (d : DieId) (t : Task) (buf w : Nat) (a : Acts) (mask : Nat) : List Int → Loc
  | [] => .ok [] 0 0 []
  | x :: xs =>
    match s.check d t buf (byteLo x) (byteHi x w - byteLo x).toNat a mask false with
    | .wait => .wait
    | .bad c i j => .bad (c, i, j)
    | .ok ks kid integ ls =>
      match locateMem s d t buf w a mask xs with
      | .ok ps _ _ ms => .ok (⟨ks, (x % 8).toNat⟩ :: ps) kid integ (ls ++ ms.filter fun m => !ls.any (·.head == m.head))
      | r => r

/-- Where the elements at some bit addresses lie; OPRANGE outside the scratchpad region (R220, R366). -/
def State.locate (s : State) (t : Task) (o : Opd) (w : Nat) (as : List Int) (a : Acts) (mask : Nat) : Loc :=
  let k := s.me
  if o.hd.spc then
    match as.find? fun x => decide (byteLo x < 0) || decide ((k.spadSize : Int) < byteHi x w) with
    | some x =>
      let b := if byteLo x < 0 then byteLo x else max (byteLo x) k.spadSize
      .bad (0x09, codeN 64 b, k.spadSize)
    | none => .ok (as.map fun x =>
        ⟨keysFrom (k.spadBase + (byteLo x).toNat) (byteHi x w - byteLo x).toNat, (x % 8).toNat⟩) 0 0 []
  else locateMem s (dieOf s.cur.core) t o.hd.buf.toNat w a mask as

/-! ## Reading and writing elements -/

/-- Lists of `n` bytes cut from a list. -/
def cut : List Nat → List Byte → List (List Byte)
  | [], _ => []
  | n :: t, bs => bs.take n :: cut t (bs.drop n)

/-- The values of an operand's elements in the pages `ls` with their poison (R97, R389). -/
def fetchElems (c : CoreId) (tid : Nat) (t : Task) (o : Opd) (w : Nat) (ls : List Leaf) (ps : List Place) (s : State) :
    List (Nat × Bool) × State :=
  let ks := ps.flatMap (·.keys)
  let r := if o.hd.spc then (ks.map (rdByte (s.core c).pool), meetPool c t.record.ctx ks s) else
    let r := readMem c tid t o.hd.hint.toNat ls ks s
    (r.1, r.2.2)
  let s := r.2
  let t := (mget tid s.tasks).getD t
  let bad (p : Place) : Bool :=
    if o.hd.spc then (linesOf p.keys).any (s.core c).poison.contains
    else (linesOf p.keys).any fun l => s.seenBad c t (tagLine ls l)
  (((cut (ps.map (·.keys.length)) r.1).zip ps).map fun b => (fld (leNat b.1) b.2.sh w, bad b.2), s)

/-- A number of `w` bits at bit `sh` of a byte (for elements narrower than a byte). -/
def putBits (old : Byte) (sh w v : Nat) : Byte :=
  BitVec.ofNat 8 (old.toNat - fld old.toNat sh w * 2 ^ sh + v % 2 ^ w * 2 ^ sh)

/-- The cells of one element, over those written before it. -/
def layElem (old : Nat → Byte) (w : Nat) (p : Place) (v : Nat) (m : Cells) : Cells :=
  if 8 ≤ w then overCells (p.keys.zip (leBytes (w / 8) v)) m
  else
    match p.keys with
    | [] => m
    | k :: _ => mput k (putBits ((mget k m).getD (old k)) p.sh w v) m

/-- The cells of some elements, in order. -/
def layElems (old : Nat → Byte) (w : Nat) : List (Place × Nat) → Cells → Cells
  | [], m => m
  | e :: t, m => layElems old w t (layElem old w e.1 e.2 m)

/-- The lines that poisoned elements are written to. -/
def poisonOf (es : List (Place × Nat × Bool)) : List Nat :=
  linesOf ((es.filter (·.2.2)).flatMap (·.1.keys))

/-- Elements written to the pool, with their poison (R389). -/
def poolPut (c : CoreId) (w : Nat) (es : List (Place × Nat × Bool)) (s : State) : State :=
  s.onCore c fun k =>
    let cells := layElems (rdByte k.pool) w (es.map fun e => (e.1, e.2.1)) []
    let bad := poisonOf es
    let whole := (linesOf (cells.map (·.1))).filter fun l => (lineCells l cells).length == 64
    { k with pool := wrCells k.pool cells, poison := bad ++ k.poison.filter fun l => !whole.contains l && !bad.contains l }

/-- The first element that CHECK stops at (R383, R390). -/
def checkStop (integ : Nat) (vs : List (Nat × Bool)) : Option Nat := if integ = 1 then vs.findIdx? (·.2) else none

/-- The physical address of the first poisoned line of an element. -/
def State.badLine (s : State) (c : CoreId) (t : Task) (ls : List Leaf) (p : Place) : Nat :=
  (((linesOf p.keys).find? fun l => s.seenBad c t (tagLine ls l)).getD 0) * 64 % 2 ^ 52

/-- The first element that an uncorrectable SRAM error keeps from being read, with its pool byte offset, which of a provisional line
is a free value (R382, R391; log 93). -/
def State.sramStop (s : State) (c : CoreId) (t : Task) (o : Opd) (ls : List Leaf) (ps : List Place) : Option (Nat × Nat) :=
  if s.flaws.isEmpty then none
  else ps.zipIdx.findSome? fun e =>
    if o.hd.spc then (s.poolFlaw c e.1.keys).map (e.2, ·)
    else if (linesOf e.1.keys).any fun l => s.sramLine c t (tagLine ls l) then some (e.2, Config.value s.free) else none

/-- The buffer and byte offset of the element at a bit address, as INFO0 (R382). -/
def Opd.request (o : Opd) (x : Int) : Nat := reqInfo o.hd.buf.toNat (codeN 44 (byteLo x))

/-- The element at which a command that has started stops, and the fault it raises there: POOLSRAM or CHECK (R382, R383).
`s` is the state before the elements were read, and `r` what reading them gave. -/
def stopOf (s : State) (c : CoreId) (t : Task) (o : Opd) (integ : Nat) (ls : List Leaf) (as : List Int) (ps : List Place)
    (r : List (Nat × Bool) × State) : Option (Nat × Nat × Nat × Nat) :=
  let sram := (s.sramStop c t o ls ps).map fun e => (e.1, 0x2B, e.2, e.1 % 2 ^ 32 * 2 ^ 32)
  let chk := (if o.hd.spc then none else checkStop integ r.1).map fun n =>
    (n, 0x29, o.request (as.getD n 0), r.2.badLine c t ls (ps.getD n ⟨[], 0⟩))
  match sram, chk with
  | some a, some b => some (if b.1 < a.1 then b else a)
  | a, b => a.or b

end Sys2Proof.Machine
end

