-- ==== Sys2Proof/Machine/Transfer.lean ====
section
/-! DEFINITION. The transfer commands of LD and ST (R218 to R238): issue into the load and store queues, and what each
does when its engine starts it. -/

namespace Sys2Proof.Machine

/-! ## Issue -/

/-- The engine that a transfer sequencer feeds (R29). -/
def engineOf : Seq → Engine
  | .st => .store
  | _ => .load

/-- The shape of a transfer that takes it from a handle or from CNT (R220). -/
def countShape (cnt : BitVec 12) (o : Opd) : Shape := if cnt = 0 then o.shape else (cnt.toNat, 1, 1)

/-- The rows of a GATHER or SCATTER (R220). -/
def rowShape (cnt : BitVec 12) (o : Opd) : Shape :=
  (ext o.hd.n0.toNat, if cnt = 0 then ext o.hd.n1.toNat else cnt.toNat, 1)

/-- Issue of a transfer word with its ranges (R222). -/
def issueXfer (w : Xfer) (hs : List HReg) (ranges : Opd → Opd → Core → List Range) (s : State) : State :=
  let k := s.me
  let q := s.cur.seq
  enqueue (engineOf q) hs w.bar (ranges (k.opd q w.dh) (k.opd q w.sh) k) 1 s

/-- The ranges of COPY, COPYC, FILL and REDADD, and those of COPYT, whose source dimensions 0 and 1 are swapped. -/
def copyRanges (w : Xfer) (one swap : Bool) (dst src : Opd) (k : Core) : List Range :=
  let n := countShape w.cnt dst
  let m : Shape := if one then (1, 1, 1) else if swap then (n.2.1, n.1, n.2.2) else n
  k.rangeOf dst w.doff.toInt n true ++ k.rangeOf src w.soff.toInt m false

/-! ## Starting -/

/-- The rate of a copy in bytes per cycle (R240). -/
def copyRate (dst src : Opd) : Nat := if dst.hd.spc && src.hd.spc then 256 else 128

/-- A place in the pages `ls`, its bytes under their tags (R91). -/
def Place.tag (ls : List Leaf) (p : Place) : Place := { p with keys := p.keys.map (tagKey ls) }

/-- The rows of a GATHER that the base dies pack: every line that they read in T1 is counted and meets its check, also where
the core holds a copy (R89, R227). -/
def baseRows (c : CoreId) (t : Task) (ls : List Leaf) (ps : List Place) (s : State) : State :=
  let lines := (linesOf (ps.flatMap (·.keys))).filter fun l => keyTier (64 * l) == 1 && !s.fetches c (tagLine ls l)
  let s := ls.foldl (fun s l => markLeaf (dieOf c) l false (lines.filter fun i => l.covers (64 * i)).length s) s
  lines.foldl (fun s l => reachHome (dieOf c) t.record.ctx ((leafOf ls l).vaOf l) (tagLine ls l) s) s

/-- Elements that have been read reach their places: the pool at once, memory at retirement (R93, R232). CHECK and POOLSRAM
stop the command at their element (R383). -/
def deliver (m : Cmd) (t : Task) (src dst : Opd) (sa : List Int) (ps qs : List Place) (integ : Nat)
    (ls ms : List Leaf) (pick : List (Nat × Bool) → List (Nat × Bool)) (conv : Nat → Nat) (least : Nat) (s : State) :
    State :=
  let c := s.cur.core
  let r := fetchElems c m.task t src src.width ls ps s
  let stop := stopOf s c t src integ ls sa ps r
  let s := r.2
  let vs := pick (stop.elim r.1 fun e => r.1.take e.1)
  let es := ((if dst.hd.spc then qs else qs.map (Place.tag ms)).zip vs).map fun e => (e.1, conv e.2.1, e.2.2)
  let bytes := ceilDiv (es.length * dst.width) 8
  let s :=
    if dst.hd.spc then begin' least (fun m => { m with counted := bytes }) (poolPut c dst.width es s)
    else
      let cells := layElems (fun k => s.seenByte c t k) dst.width (es.map fun e => (e.1, e.2.1)) []
      let s := markWrite c dst.hd.hint.toNat ms ((t.newLines (cells.map (·.1))).map bareLine) s
      begin' least (fun m => { m with counted := bytes, writes := cells, poison := poisonOf es }) s
  match stop with
  | none => s
  | some e => raiseCmd s.cur.eng m e.2.1 e.2.2.1 e.2.2.2 s

/-- A command that moves the elements at some bit addresses of its source to those of its destination, once every
check has passed (R383); `least` gives its cycles from the places of its source (R240), and `base` says that the base dies
gather its rows (R227). -/
def moveElems (m : Cmd) (t : Task) (src dst : Opd) (sa da : List Int) (pick : List (Nat × Bool) → List (Nat × Bool))
    (conv : Nat → Nat) (least : List Place → Nat) (base : Bool) (s : State) : State :=
  match s.locate t src src.width sa .read 2 with
  | .wait => s
  | .bad f => fail m f s
  | .ok ps _ integ ls =>
    match s.locate t dst dst.width da .write 3 with
    | .wait => s
    | .bad f => fail m f s
    | .ok qs _ _ ms =>
      deliver m t src dst sa ps qs integ ls ms pick conv (least ps) (if base then baseRows s.cur.core t ls ps s else s)

/-- The own fields of a transfer: barrier slot, handles, spaces and formats, in this order (R365, R366). LD writes only
the scratchpad and ST reads only the scratchpad (R218). -/
def xferBad (m : Cmd) (dst src : Opd) (formats : Bool) : Option (Nat × Nat × Nat) :=
  firstOf [m.barBad, dst.reserved, src.reserved,
    if m.seq == .st then src.spaceBad true else dst.spaceBad true,
    if formats then none else some (0x08, dst.hd.fmt.toNat * 256 + src.hd.fmt.toNat, 0)]

/-- COPY, COPYT, COPYC and FILL when their engine starts them (R223, R224). -/
def startCopy (w : Xfer) (formats : Fmt → Fmt → Bool) (one swap : Bool) (conv : Opd → Opd → Nat → Nat)
    (rate : Opd → Opd → Nat → Nat) (s : State) : State :=
  performing s fun m t =>
    let dst := m.opd w.dh
    let src := m.opd w.sh
    match xferBad m dst src (formats dst.fmt src.fmt) with
    | some f => fail m f s
    | none =>
      let n := countShape w.cnt dst
      let ix := indices n
      let sa := if one then [src.bit w.soff.toInt 0 0 0]
        else ix.map fun i => if swap then src.bit w.soff.toInt i.2.1 i.1 i.2.2 else src.bit w.soff.toInt i.1 i.2.1 i.2.2
      let da := ix.map fun i => dst.bit w.doff.toInt i.1 i.2.1 i.2.2
      let pick (vs : List (Nat × Bool)) : List (Nat × Bool) :=
        if one then (match vs with | v :: _ => List.replicate n.size v | [] => []) else vs
      moveElems m t src dst sa da pick (conv dst src) (fun _ => rate dst src n.size) false s

/-- Equal element widths (R223, R226). -/
def sameWidth (a b : Fmt) : Bool := a.width == b.width

/-- Cycles of a raw copy, and of one that works element by element (R240). -/
def rateBytes (dst src : Opd) (n : Nat) : Nat := ceilDiv (n * dst.width) (8 * copyRate dst src)
def rateElems (_ _ : Opd) (n : Nat) : Nat := ceilDiv n 64

/-- COPY (R223). -/
def execCopy (w : Xfer) (s : State) : Host.Outcome State Fault Refusal :=
  .next (engineInstr (issueXfer w [w.dh, w.sh] (copyRanges w false false))
    (startCopy w sameWidth false false (fun _ _ v => v) rateBytes) s)

/-- COPYT (R223). -/
def execCopyt (w : Xfer) (s : State) : Host.Outcome State Fault Refusal :=
  .next (engineInstr (issueXfer w [w.dh, w.sh] (copyRanges w false true))
    (startCopy w sameWidth false true (fun _ _ v => v) rateElems) s)

/-- The conversion of COPYC: SH's extra value for an F4 source; −0 of an F4 target written 0b0000 (R126, R127,
R224). -/
def convElem (mode : Rnd) (prop : Bool) (dst src : Opd) (v : Nat) : Nat :=
  convert src.fmt dst.fmt mode prop (some src.hd.xv.toNat) true 0 v |>.1

/-- COPYC (R223, R224). -/
def execCopyc (w : Xfer) (mode : Rnd) (prop : Bool) (s : State) : Host.Outcome State Fault Refusal :=
  .next (engineInstr (issueXfer w [w.dh, w.sh] (copyRanges w false false))
    (startCopy w (fun a b => a != .b1 && b != .b1) false false (convElem mode prop) rateElems) s)

/-- FILL (R223). -/
def execFill (w : Xfer) (s : State) : Host.Outcome State Fault Refusal :=
  .next (engineInstr (issueXfer w [w.dh, w.sh] (copyRanges w true false))
    (startCopy w sameWidth true false (fun _ _ v => v) rateBytes) s)

/-! ## GATHER and SCATTER (R226, R227) -/

/-- The ranges of GATHER and SCATTER: the operand whose rows the indices choose covers the whole region (R222). -/
def rowRanges (w : Xfer) (xh : HReg) (gather : Bool) (q : Seq) (dst src : Opd) (k : Core) : List Range :=
  let n := rowShape w.cnt (if gather then dst else src)
  let all (o : Opd) (write : Bool) : List Range := if o.hd.spc then [k.spadRange write] else []
  (if gather then k.rangeOf dst w.doff.toInt n true ++ all src false
   else all dst true ++ k.rangeOf src w.soff.toInt n false)
    ++ k.rangeOf (k.opd q xh) 0 (n.2.1, 1, 1) false

/-- Index formats (R226). -/
def Fmt.isIndex : Fmt → Bool
  | .s32 | .n32 | .s16 | .n16 => true
  | _ => false

/-- Cycles of rows that a core reads or writes: one row per cycle, up to 128 bytes (R240). -/
def rowCycles (n0 w rows : Nat) : Nat := rows * Nat.max 1 (ceilDiv (n0 * w) 1024)

/-- Cycles of a GATHER of more than 64 rows from memory: each stack's base die packs one burst of 64 bytes a cycle, and
the core reads the rows that do not lie in T1 (R89, R227, R240). -/
def baseCycles (n0 w : Nat) (ps : List Place) : Nat :=
  let stack (p : Place) : Nat := fld (p.keys.headD 0) 36 16
  let (near, far) := ps.partition fun p => keyTier (p.keys.headD 0) == 1
  let bursts := (near.map stack).eraseDups.map fun k => ceilDiv ((near.filter (stack · == k)).length * w) 512
  bursts.foldl Nat.max (rowCycles n0 w (ceilDiv far.length n0))

/-- GATHER and SCATTER when their engine starts them: the whole index list is read first (R383). -/
def startRows (w : Xfer) (xh : HReg) (gather : Bool) (s : State) : State :=
  performing s fun m t =>
    let dst := m.opd w.dh
    let src := m.opd w.sh
    let x := m.opd xh
    let bad := firstOf [xferBad m dst src (sameWidth dst.fmt src.fmt), x.reserved,
      if Fmt.isIndex x.fmt then none else some (0x08, x.hd.fmt.toNat, xh.val)]
    match bad with
    | some f => fail m f s
    | none =>
      let n := rowShape w.cnt (if gather then dst else src)
      let xa := (List.range n.2.1).map fun (j : Nat) => x.bit 0 j 0 0
      match s.locate t x x.width xa .read 2 with
      | .wait => s
      | .bad f => fail m f s
      | .ok xs _ xinteg xls =>
        let c := s.cur.core
        let r := fetchElems c m.task t x x.width xls xs s
        match stopOf s c t x xinteg xls xa xs r with
        | some e => raiseCmd s.cur.eng m e.2.1 e.2.2.1 e.2.2.2 (begin' 1 (fun m => m) r.2)
        | none =>
          let s := r.2
          let idx := r.1.map fun v => (if x.fmt.isSigned then sextN x.width v.1 else v.1, v.2)
          let cells := idx.zipIdx.flatMap fun v => (List.range n.1).map fun i => (Int.ofNat i, v.1.1, Int.ofNat v.2, v.1.2)
          let sa := cells.map fun e =>
            if gather then src.bit w.soff.toInt e.1 e.2.1 0 else src.bit w.soff.toInt e.1 e.2.2.1 0
          let da := cells.map fun e =>
            if gather then dst.bit w.doff.toInt e.1 e.2.2.1 0 else dst.bit w.doff.toInt e.1 e.2.1 0
          let pick (vs : List (Nat × Bool)) : List (Nat × Bool) :=
            (vs.zip cells).map fun e => (e.1.1, e.1.2 || e.2.2.2.2)
          moveElems m t src dst sa da pick (fun v => v)
            (if gather && !src.hd.spc && 64 < n.2.1 then baseCycles n.1 src.width
             else fun _ => rowCycles n.1 src.width n.2.1) (gather && !src.hd.spc && 64 < n.2.1) s

/-- GATHER (R226, R227). -/
def execGather (w : Xfer) (xh : HReg) (s : State) : Host.Outcome State Fault Refusal :=
  .next (engineInstr (issueXfer w [w.dh, w.sh, xh] (rowRanges w xh true s.cur.seq)) (startRows w xh true) s)

/-- SCATTER (R226). -/
def execScatter (w : Xfer) (xh : HReg) (s : State) : Host.Outcome State Fault Refusal :=
  .next (engineInstr (issueXfer w [w.dh, w.sh, xh] (rowRanges w xh false s.cur.seq)) (startRows w xh false) s)

/-! ## REDADD (R228) -/

/-- The formats of REDADD. -/
def Fmt.isRedadd : Fmt → Bool
  | .f64 | .f32 | .f16 | .bf16 | .s64 | .s32 | .n64 | .n32 => true
  | _ => false

/-- The lines of a REDADD's elements are read under their pages' key and their check before they are added to (R388, R396); a
doorbell's are not. -/
def meetElems (c : CoreId) (t : Task) (ls : List Leaf) (qs : List Place) (s : State) : State :=
  (linesOf ((qs.flatMap (·.keys)).filter (!isAperture ·))).foldl
    (fun s l => reachHome (dieOf c) t.record.ctx ((leafOf ls l).vaOf l) (tagLine ls l) s) s

/-- The first poisoned destination line of a REDADD, as CHECK or POISON by INTEG (R390). -/
def redPoison (s : State) (t : Task) (integ : Nat) (dst : Opd) (ls : List Leaf) (da : List Int) (qs : List Place) :
    Option (Nat × Nat × Nat) :=
  let bad (l : Nat) : Bool := s.homeBad s.cur.core t (tagLine ls l)
  ((da.zip qs).find? fun e => (linesOf (e.2.keys.filter (!isAperture ·))).any bad).map fun e =>
    (if integ = 1 then 0x29 else 0x2A, dst.request e.1, ((linesOf e.2.keys).find? bad).getD 0 * 64 % 2 ^ 52)

/-- REDADD when the store engine starts it: performed at once in a pinned task, held in an unpinned one (R44, R228). -/
def startRedadd (w : Xfer) (s : State) : State :=
  performing s fun m t =>
    let dst := m.opd w.dh
    let src := m.opd w.sh
    let bad := firstOf [m.barBad, dst.reserved, src.reserved, dst.spaceBad false, src.spaceBad true,
      if dst.fmt == src.fmt && Fmt.isRedadd dst.fmt then none else some (0x08, dst.hd.fmt.toNat * 256 + src.hd.fmt.toNat, 0)]
    match bad with
    | some f => fail m f s
    | none =>
      let c := s.cur.core
      let n := countShape w.cnt dst
      let ix := indices n
      let sa := ix.map fun i => src.bit w.soff.toInt i.1 i.2.1 i.2.2
      let da := ix.map fun i => dst.bit w.doff.toInt i.1 i.2.1 i.2.2
      match s.locate t src src.width sa .read 2 with
      | .wait => s
      | .bad f => fail m f s
      | .ok ps _ _ _ =>
        match s.locate t dst dst.width da .redadd 3 with
        | .wait => s
        | .bad f => fail m f s
        | .ok qs _ integ ms =>
          let s := meetElems c t ms qs s
          match redPoison s t integ dst ms da qs with
          | some f => fail m f s
          | none =>
            let r := fetchElems c m.task t src src.width [] ps s
            let stop := stopOf s c t src 0 [] sa ps r
            let vs := stop.elim r.1 fun e => r.1.take e.1
            let es := (qs.map (Place.tag ms)).zip vs
            let lines := linesOf ((qs.take vs.length).flatMap (·.keys))
            let s1 := markWrite c dst.hd.hint.toNat ms lines r.2
            let bytes := ceilDiv (es.length * dst.width) 8
            let ends (s : State) : State := match stop with
              | none => s
              | some e => raiseCmd .store m e.2.1 e.2.2.1 e.2.2.2 s
            let go (s : State) : State :=
              ends (begin' (ceilDiv bytes 64) (fun m => { m with counted := bytes, lines := lines }) s)
            if t.pinned then go (es.foldl (fun s e => redaddAt c m.task dst.fmt e.1.keys e.2.1 e.2.2 s) s1)
            else
              let held := (es.zip da).map fun e =>
                Held.redadd e.1.1.keys dst.hd.fmt.toNat e.1.2.1 (stampOf m.issued m.seq) m.seq m.pos m.num
                  (dst.request e.2) e.1.2.2
              withinWrites c m.task (fun a i j s => raiseCmd .store m a i j s) s
                (go (s1.onTask m.task fun t => held.foldl (fun t h => t.hold h) t))

/-- REDADD (R228). -/
def execRedadd (w : Xfer) (s : State) : Host.Outcome State Fault Refusal :=
  .next (engineInstr (issueXfer w [w.dh, w.sh] (copyRanges w false false)) (startRedadd w) s)

/-! ## PREF (R229, R393) -/

/-- One byte offset for each memory line that a run of elements of a buffer touches, where the buffer's virtual base need
not begin a line (R63). -/
def offsetLines (vbase : Nat) (as : List Int) (w : Nat) : List Int :=
  (as.flatMap fun a => [byteLo a, byteHi a w - 1]).foldl (fun r x =>
    if r.any fun y => (vbase + y) / 64 == (vbase + x) / 64 then r else r ++ [x]) []

/-- A line that would fail its check were it read under a key ID: it is listed, or was written under a key that is gone
(R388, R396). -/
def State.failsCheck (s : State) (kid l : Nat) : Bool :=
  (((staleLine (some kid) l s).failure l).map (· != 0)).getD false

/-- A speculative read of a byte of a buffer is dropped: step 1 or one of steps 6 to 9 of R380 fails, its page is in
motion, or its line fails its check (R393). -/
def State.drops (s : State) (d : DieId) (t : Task) (buf : Nat) (off : Int) : Bool :=
  match mget t.record.ctx s.contexts with
  | none => true
  | some x =>
    match s.checkEntry x t.record.ctx buf 0 0 none with
    | .error (0x20, _, _) => true
    | _ =>
      let b := s.buffer x buf
      match s.translate x d b 0 2 true 1 ((b.vbase + off) % 2 ^ 56).toNat none [] [] with
      | .ok ks kid _ _ => (linesOf ks).any (s.failsCheck kid)
      | .wait => true
      | .bad c _ _ => 0x25 ≤ c && c ≤ 0x28

/-- PREF when the load engine starts it: it brings lines nearer, which no read can tell (R229), and counts those that are
dropped. -/
def startPref (sh : HReg) (soff : BitVec 24) (cnt : BitVec 12) (s : State) : State :=
  performing s fun m t =>
    let src := m.opd sh
    match src.reserved with
    | some f => fail m f s
    | none =>
      let d := dieOf s.cur.core
      let vbase := ((mget t.record.ctx s.contexts).map fun x => (s.buffer x src.hd.buf.toNat).vbase).getD 0
      let dropped :=
        if src.hd.spc then 0
        else
          let as := (indices (countShape cnt src)).map fun i => src.bit soff.toInt i.1 i.2.1 i.2.2
          ((offsetLines vbase as src.width).filter (s.drops d t src.hd.buf.toNat)).length
      begin' 1 (fun m => m) (if dropped = 0 then s else ringCount d 12 6 dropped s)

/-- PREF (R229). -/
def execPref (_ : Option Guard) (sh : HReg) (soff : BitVec 24) (cnt : BitVec 12) (s : State) :
    Host.Outcome State Fault Refusal :=
  .next (engineInstr (enqueue .load [sh] none [] 1) (startPref sh soff cnt) s)

/-! ## BCOPY (R230, R231) -/

/-- The length of a BCOPY in bytes. -/
def bulkLen (cnt : BitVec 12) (src : Opd) : Nat :=
  if cnt = 0 then ceilDiv (Shape.size src.shape * src.width) 8 else 4096 * cnt.toNat

/-- A BCOPY run: its first byte offset, its checks in one request. -/
def bulkLoc (s : State) (t : Task) (o : Opd) (off : Int) (len : Nat) (a : Acts) (mask : Nat) : Req :=
  s.check (dieOf s.cur.core) t o.hd.buf.toNat off len a mask false

/-- What an element of a BCOPY meets: its source read is checked before its destination write, and both before the next
element (R424). -/
def bulkFirst (s : State) (t : Task) (src dst : Opd) (a b : Int) (len : Nat) : Option Req :=
  let w := Nat.max 1 (src.width / 8)
  (List.range (ceilDiv len w)).findSome? fun i =>
    let n := Nat.min w (len - w * i)
    match bulkLoc s t src (a + (w * i : Nat)) n .read 5 with
    | .ok _ _ _ _ => (match bulkLoc s t dst (b + (w * i : Nat)) n .write 6 with
      | .ok _ _ _ _ => none
      | r => some r)
    | r => some r

/-- BCOPY at the load queue head: it waits for every store command issued before it and for a BTE, publishes the task's
lines of both runs, and hands the copy to the BTE (R231). -/
def startBulk (w : Xfer) (s : State) : State :=
  performing s fun m t =>
    let dst := m.opd w.dh
    let src := m.opd w.sh
    let at' (o : Opd) (d : BitVec 24) : Int := byteLo (o.bit d.toInt 0 0 0)
    let align (o : Opd) (d : BitVec 24) : Option (Nat × Nat × Nat) :=
      if at' o d % 64 = 0 && o.bit d.toInt 0 0 0 % 8 = 0 then none else some (0x0A, o.h.val, codeN 64 (at' o d))
    let bad := firstOf [m.barBad, dst.reserved, src.reserved, dst.spaceBad false, src.spaceBad false,
      align src w.soff, align dst w.doff]
    match bad with
    | some f => fail m f s
    | none =>
      let c := s.cur.core
      if (s.me.engine .store).cmds.any fun e => decide (e.issued < m.issued) then s
      else if let some bte := s.freeBte (dieOf c) then
        let len := bulkLen w.cnt src
        match bulkLoc s t src (at' src w.soff) len .read 5, bulkLoc s t dst (at' dst w.doff) len .write 6 with
        | .ok ks _ integ ls, .ok qs _ _ ms =>
            let lines := linesOf (ks ++ qs)
            let mine (k : Nat) : Bool := lines.contains (k / 64)
            let s := cumulate c 3 mine (publishWhere c m.task (fun _ => 3) mine s)
            let s := s.onTask m.task fun t => { t with bcopies := t.bcopies + 1 }
            let s := ls.foldl (fun s l =>
              markLeaf (dieOf c) l false ((linesOf ks).filter fun i => l.covers (64 * i)).length s) (acquireMoved c ls s)
            let s := markWrite c dst.hd.hint.toNat ms (linesOf qs) s
            let cost := (ks.zip qs).foldl (fun n e => Nat.max n (bteCost e.1 e.2)) 1
            let till := s.cycle + bteCycles len cost + 1 + Config.latency s.free
            let b : Bulk := ⟨m.task, c, m.num, ks.map (tagKey ls), qs.map (tagKey ms), m.bar, len, till, integ = 1,
              src.hd.buf.toNat, (at' src w.soff).toNat, m.pos, bte⟩
            let s := { s with bulks := mput (m.task * 65536 + m.num) b s.bulks }
            (onCmd s.cur.eng s.cur.a s.cur.num (fun m => { m with started := true, till := 2 ^ 64 }) s).tick
        | _, _ =>
          match bulkFirst s t src dst (at' src w.soff) (at' dst w.doff) len with
          | some (.bad a i j) => fail m (a, i, j) s
          | _ => s
      else s

/-- BCOPY, which pins its task when it issues (R43, R230). -/
def execBcopy (w : Xfer) (s : State) : Host.Outcome State Fault Refusal :=
  .next (engineInstr (fun s =>
    let t := enqueue .load [w.dh, w.sh] w.bar [] 1 s
    if t.pos = s.pos then t else pin t) (startBulk w) s)

/-! ## RADV (R237) -/

/-- RADV: TOKEN unless the sequencer produces the bound queue; it advances P when it issues and fills its slot at its
queue head. -/
def execRadv (_ : Option Guard) (q : QReg) (s : State) : Host.Outcome State Fault Refusal :=
  .next (engineInstr (fun s =>
    let t := s.me.tok.get q
    let e := engineOf s.cur.seq
    if !t.used || !t.bound || t.prod != s.cur.seq then raise 0x0B q.val (seqIdx s.cur.seq).val s
    else if t.depth ≤ t.was + t.wasRadvs + b2n t.wasHeld then stall .token q.val s
    else if Config.queueDepth ≤ (s.me.engine e).cmds.length then stall .queueFull (engIdx e).val s
    else
      (enqueue e [] none [] 1 s).onMe fun k => k.onTok q fun t =>
        { t with p := (t.p + 1) % t.depth, radvs := t.radvs + 1 })
    (fun s => performing s fun m _ =>
      let e := s.cur.eng
      if (s.me.engine e).cmds.head?.any fun x => x.task != m.task || x.num != m.num then s
      else
        let s := if s.me.task == some m.task then
            s.onMe fun k => k.onTok q fun t => { t with count := t.count + 1, radvs := t.radvs - 1 }
          else s
        s.onMe fun k => k.onEngine e fun x =>
          { x with cmds := x.cmds.filter fun y => !(y.task == m.task && y.num == m.num) }) s)

end Sys2Proof.Machine
end

