-- ==== Sys2Proof/Machine/Matrix.lean ====
section
/-! DEFINITION. The matrix engine (R134 to R140, R269 to R286): format words, tiles and their counters, ranges, timing,
and one meaning per matrix word. -/

namespace Sys2Proof.Machine

/-! ## Format words (R269 to R271) -/

/-- The matrix operations (R276). -/
inductive MatOp where
  | mma | mmab | mmag | mzero | mld | mst | mstat | mclr
deriving DecidableEq, Repr

/-- The fields of a format word (R269). -/
structure FormatWord where
  a : Option Fmt
  b : Option Fmt
  c : Option Fmt
  gsz : Nat
  zpa : Bool
  zpb : Bool
  xve : Bool
  e4p : Bool
  rnd : Nat
  o : Option Fmt
  sce : Bool
  bie : Bool
deriving DecidableEq, Repr

/-- A format word's fields (R269). -/
def formatFields (w : Nat) : FormatWord :=
  ⟨fmtOf (fld w 0 6), fmtOf (fld w 8 6), fmtOf (fld w 16 6), fld w 22 2, bitAt w 24, bitAt w 25, bitAt w 26, bitAt w 27,
    fld w 28 3, fmtOf (fld w 32 6), bitAt w 38, bitAt w 39⟩

/-- The lowest non-zero reserved bit of a format word (R269). -/
def formatSpare (w : Nat) : Option Nat := leastBit [lowBit w 6 2, lowBit w 14 2, lowBit w 31 1, lowBit w 40 24]

/-- How products are summed into an accumulator (R135). -/
inductive SumRule where
  | each
  | blocks (n : Nat)
  | wrap
deriving DecidableEq, Repr

/-- The floating inputs of R137 and the integers of R139 and R134. -/
def isNarrow : Fmt → Bool
  | .bf16 | .f16 | .e5m2 | .e4m3 | .f4 => true
  | _ => false
def isSmallInt : Fmt → Bool
  | .s8 | .n8 | .s4 | .n4 => true
  | _ => false
def isGrouped : Fmt → Bool
  | .n4 | .n8 => true
  | _ => false

/-- The accumulator and the summation of a pair of ungrouped inputs (R135). -/
def pairRule (a b : Fmt) : Option (Fmt × SumRule) :=
  if a = .f64 && b = .f64 then some (.f64, .each)
  else if a = .f32 && b = .f32 then some (.f32, .each)
  else if isNarrow a && isNarrow b then some (.f32, .blocks (if a.width = 16 && b.width = 16 then 16 else 32))
  else if isSmallInt a && isSmallInt b then some (.s32, .wrap)
  else none

/-- The accumulator formats of R269. -/
def isAcc : Option Fmt → Bool
  | some .f64 | some .f32 | some .s32 => true
  | _ => false

/-- Output formats of MST: every floating or integer code (R269). -/
def isOut : Option Fmt → Bool
  | none | some .b1 => false
  | _ => true

/-- The combination is valid for the command (R271). -/
def FormatWord.valid (f : FormatWord) : MatOp → Bool
  | .mma | .mmab => f.gsz == 0 && !f.zpa && !f.zpb && (match f.a, f.b with
      | some a, some b => ((pairRule a b).map (·.1)).isSome && (pairRule a b).map (·.1) == f.c
      | _, _ => false)
  | .mmag => f.gsz != 0 && f.c == some .f32 && (match f.a, f.b with
      | some a, some b => (isGrouped a && isNarrow b && !f.zpb) || (isGrouped b && isNarrow a && !f.zpa)
      | _, _ => false)
  | .mzero => isAcc f.c
  | .mld => isAcc f.c && f.a == f.c
  | .mst => isAcc f.c && isOut f.o && decide (f.rnd ≤ 3)
  | .mstat | .mclr => true

/-- The A operand is the grouped one (R134). -/
def FormatWord.groupedA (f : FormatWord) : Bool := (f.a.map isGrouped).getD false

/-- Bytes of an accumulator element (R272). -/
def FormatWord.wc (f : FormatWord) : Nat := if f.c = some .f64 then 8 else 4

/-- The word reads a scale; it reads a zero point or a bias (R276). -/
def FormatWord.scaled (f : FormatWord) (op : MatOp) : Bool := op == .mmag || (op == .mst && f.sce)
def FormatWord.shifted (f : FormatWord) (op : MatOp) : Bool :=
  (op == .mmag && (if f.groupedA then f.zpa else f.zpb)) || (op == .mst && f.bie)

/-- Elements of a group (R134, R269). -/
def FormatWord.group (f : FormatWord) : Nat := 16 * 2 ^ f.gsz

/-! ## Tiles (R272, R273) -/

/-- M and N (R165, R276). -/
def matCount (n : BitVec 6) : Nat := if n = 0 then 64 else n.toNat

/-- The blocks of a word. -/
def matBlocks (w : Mat) : Nat := if w.bat then 16 else 1

/-- The elements (block, row, column) that a word names. -/
def matElems (w : Mat) : List (Nat × Nat × Nat) :=
  (List.range (matBlocks w)).flatMap fun b => (List.range (matCount w.m)).flatMap fun i =>
    (List.range (matCount w.n)).map fun j => (b, i, j)

/-- The byte offset of an element in the accumulator region (R272). -/
def tileOff (w : Mat) (wc : Nat) (e : Nat × Nat × Nat) : Nat :=
  1024 * w.ct.toNat + (if w.bat then 256 * wc * e.1 + 16 * wc * e.2.1 else 64 * wc * e.2.1) + wc * e.2.2

/-- OPRANGE for a tile that is not aligned or reaches the counter unit (R272, R283). -/
def tileBad (k : Core) (w : Mat) (wc : Nat) : Option (Nat × Nat × Nat) :=
  if w.ct.toNat % (4 * wc) = 0 && w.ct.toNat + 4 * wc + 1 ≤ k.accUnits then none else some (0x09, w.ct.toNat, k.accUnits)

/-- The pool byte of a tile's counter word (R273). -/
def counterAt (k : Core) (w : Mat) : Nat := k.accBase + 1024 * (k.accUnits - 1) + 4 * (w.ct.toNat / 16)

/-- The 4-byte granules of the region that a word's tile elements cover. -/
def tileGranules (w : Mat) (wc : Nat) : List Nat :=
  (matElems w).flatMap fun e => (List.range (wc / 4)).map fun i => tileOff w wc e / 4 + i

/-! ## Operands and ranges (R275, R281, R284) -/

/-- The bit address of an element of width `w` (R220, R275). -/
def Opd.bitM (o : Opd) (w : Nat) (d : Int) (i : Int × Int × Int) : Int :=
  8 * o.hd.off.toNat + (o.cur + d + i.1 + i.2.1 * o.hd.s1.toInt + i.2.2 * o.hd.s2.toInt) * w

/-- The index boxes of A, of B and of the source or destination of MLD and MST. -/
def boxA (w : Mat) : Shape :=
  if w.ta then (matCount w.m, w.k.toNat, matBlocks w) else (w.k.toNat, matCount w.m, matBlocks w)
def boxB (w : Mat) : Shape :=
  if w.tb then (w.k.toNat, matCount w.n, matBlocks w) else (matCount w.n, w.k.toNat, matBlocks w)
def boxT (w : Mat) : Shape :=
  if w.ta then (matCount w.m, matCount w.n, matBlocks w) else (matCount w.n, matCount w.m, matBlocks w)

/-- The index box of a scale or zero point with `g` groups and `n` columns, by GLAY (R134). -/
def boxG (o : Opd) (g n : Nat) : Shape := if o.hd.glay then (n, g, 1) else (g, n, 1)

/-- The columns that MST scales (R282). -/
def matColumns (w : Mat) : Nat := if w.bat then 16 * 15 + matCount w.n else matCount w.n

/-- One range from the lowest to the highest byte of some boxes of elements (R284). -/
def hull (k : Core) (write : Bool) (l : List (Opd × Nat × Int × Shape)) : List Range :=
  let ends (m : Nat) : List Int := [0, (m : Int) - 1]
  let as := (l.filter fun b => b.1.hd.spc).flatMap fun b =>
    (ends b.2.2.2.1).flatMap fun i0 => (ends b.2.2.2.2.1).flatMap fun i1 => (ends b.2.2.2.2.2).map fun i2 =>
      (byteLo (b.1.bitM b.2.1 b.2.2.1 (i0, i1, i2)), byteHi (b.1.bitM b.2.1 b.2.2.1 (i0, i1, i2)) b.2.1)
  match as with
  | [] => []
  | a :: _ =>
    let lo := as.foldl (fun m x => min m x.1) a.1
    let hi := as.foldl (fun m x => max m x.2) a.2
    [⟨(k.spadBase + lo).toNat, (k.spadBase + hi).toNat, write⟩]

/-- The range of a word's tile elements. -/
def tileRange (k : Core) (w : Mat) (wc : Nat) (write : Bool) : Range :=
  ⟨k.accBase + tileOff w wc (0, 0, 0),
    k.accBase + tileOff w wc (matBlocks w - 1, matCount w.m - 1, matCount w.n - 1) + wc, write⟩

/-- A box of elements whose width is not known yet: 8 bytes, or any width down to 4 bits (log 82). -/
def anyWidth (o : Opd) (d : Int) (n : Shape) : List (Opd × Nat × Int × Shape) := [(o, 64, d, n), (o, 4, d, n)]

/-- The ranges of a word when it issues, as if every element were 8 bytes wide (R284). DEDUCED (log 82): since the exact
ranges lie within them, they also reach to where narrower elements lie. The group size and the grouped operand are
then unknown: groups of 32 and the larger of M and N are taken, and one range over both operands and what may scale them
(log 37). -/
def issueRanges (k : Core) (opd : HReg → Opd) (op : MatOp) (w : Mat) : List Range :=
  let a := anyWidth (opd w.ah) w.aoff.toInt (boxA w)
  let b := anyWidth (opd w.bh) w.boff.toInt (boxB w)
  let t := anyWidth (opd w.ah) w.aoff.toInt (boxT w)
  let aux := ([w.sh, w.zh].filter (· != 0)).flatMap fun h =>
    anyWidth (opd h) 0 (if op = .mmag then boxG (opd h) (ceilDiv w.k.toNat 32) (Nat.max (matCount w.m) (matCount w.n))
      else (matColumns w, 1, 1))
  let tile := tileRange k w 8
  match op with
  | .mma | .mmab => hull k false a ++ hull k false b ++ [tile true]
  | .mmag => hull k false (a ++ b ++ aux) ++ [tile true]
  | .mzero => [tile true]
  | .mld => hull k false t ++ [tile true]
  | .mst => [tile false] ++ hull k true t ++ hull k false aux
  | .mstat => hull k true [(opd w.ah, 32, w.aoff.toInt, (1, 1, 1))]
  | .mclr => []

/-- The width of an optional format. -/
def widthOf (f : Option Fmt) : Nat := (f.map Fmt.width).getD 8

/-- The exact ranges of a word with its format word (R284). -/
def exactRanges (k : Core) (opd : HReg → Opd) (op : MatOp) (w : Mat) (f : FormatWord) : List Range :=
  let a := (opd w.ah, widthOf f.a, w.aoff.toInt, boxA w)
  let b := (opd w.bh, widthOf f.b, w.boff.toInt, boxB w)
  let groups := ceilDiv w.k.toNat f.group
  let cols := if f.groupedA then matCount w.m else matCount w.n
  let aux (h : HReg) : Opd × Nat × Int × Shape :=
    (opd h, (opd h).width, 0, if op = .mmag then boxG (opd h) groups cols else (matColumns w, 1, 1))
  let used := (if f.scaled op then [aux w.sh] else []) ++ if f.shifted op then [aux w.zh] else []
  let tile := tileRange k w f.wc
  match op with
  | .mma | .mmab => hull k false [a] ++ hull k false [b] ++ [tile true]
  | .mmag =>
    if f.groupedA then hull k false [b] ++ hull k false (a :: used) ++ [tile true]
    else hull k false [a] ++ hull k false (b :: used) ++ [tile true]
  | .mzero => [tile true]
  | .mld => hull k false [(opd w.ah, widthOf f.a, w.aoff.toInt, boxT w)] ++ [tile true]
  | .mst => [tile false] ++ hull k true [(opd w.ah, widthOf f.o, w.aoff.toInt, boxT w)] ++ hull k false used
  | .mstat => hull k true [(opd w.ah, 32, w.aoff.toInt, (1, 1, 1))]
  | .mclr => []

/-- The operation and the fields of a matrix instruction; MCLR's stand in its word (log 15). -/
def matFields (i : Instr) (word : Nat) : Option (MatOp × Mat) :=
  match i with
  | .mma w => some (.mma, w)
  | .mmab w => some (.mmab, w)
  | .mmag w => some (.mmag, w)
  | .mzero w => some (.mzero, w)
  | .mld w => some (.mld, w)
  | .mst w => some (.mst, w)
  | .mstat w => some (.mstat, w)
  | .mclr => some (.mclr, matOf word)
  | _ => none

/-- A tile command pops its format word: its ranges become exact, unless the word is invalid (R270, R284). -/
def Cmd.popped (k : Core) (m : Cmd) (v : Dword) : Cmd :=
  let m := { m with fmtWord := some v }
  match matFields m.instr m.word with
  | none => m
  | some (op, w) =>
    let f := formatFields v.toNat
    if (formatSpare v.toNat).isNone && f.valid op then { m with ranges := exactRanges k m.opd op w f } else m

/-! ## Starting (R286) -/

/-- K elements per cycle; F64 takes two cycles per element. -/
def matSteps (f : FormatWord) (k : Nat) : Nat :=
  let wide := Nat.max (widthOf f.a) (widthOf f.b)
  if wide = 64 then 2 * k
  else ceilDiv k (if wide = 32 then 1 else if wide = 16 then 4 else if wide = 8 then 8 else 16)

/-- The busy cycles of a word. -/
def matBusy (op : MatOp) (w : Mat) (f : FormatWord) : Nat :=
  match op with
  | .mma | .mmag => matSteps f w.k.toNat
  | .mmab => 4 * matSteps f w.k.toNat
  | .mld | .mst => if w.bat then 16 * matCount w.m else matCount w.m
  | .mzero | .mstat | .mclr => 1

/-- The multiplying commands, whose writes land eight cycles after their last busy cycle. -/
def MatOp.multiplies : MatOp → Bool
  | .mma | .mmab | .mmag => true
  | _ => false

/-- The format fields that a command popped. -/
def Cmd.format (m : Cmd) : FormatWord := formatFields ((m.fmtWord.map (·.toNat)).getD 0)

/-- The later command goes on with the array's accumulator: the chaining of R286. -/
def chained (x m : Cmd) : Bool :=
  match matFields x.instr x.word, matFields m.instr m.word with
  | some (p, v), some (q, w) => p.multiplies && q.multiplies && m.task == x.task && m.num == (x.num + 1) % 65536
      && v.ct == w.ct && x.format.c == m.format.c && v.m == w.m && v.n == w.n && v.bat == w.bat
  | _, _ => false

/-- The writes of an earlier command that has not landed meet what a later one reads or writes. -/
def unlanded (x m : Cmd) : Bool :=
  match matFields x.instr x.word, matFields m.instr m.word with
  | some (p, v), some (q, w) =>
    p.multiplies && (match q with
      | .mstat | .mclr => v.ct.toNat / 16 == w.ct.toNat / 16
      | _ => !chained x m
          && (let ys := tileGranules w m.format.wc; (tileGranules v x.format.wc).any ys.contains))
  | _, _ => false

/-- The timing conditions of a matrix command at its queue head (R286); the ranges are the checker's. -/
def matReady (k : Core) (m : Cmd) (now : Nat) : Bool :=
  decide (m.issued < now) && (k.engine .matrix).cmds.all fun x =>
    !x.started || (decide (x.busy < now) && (decide (x.till ≤ now) || !unlanded x m))

/-! ## Summation (R136 to R140) -/

/-- A product of −1 where ACC = 2. -/
def signed (neg : Bool) (x : Num) : Num := if neg then negNum x else x

/-- A value that is infinite or a NaN. -/
def Num.special (x : Num) : Bool := x.isNan || x.isInf

/-- The events of one update (R140): overflow, NaN. -/
def updateEvents (c : Fmt) (entered : Bool) (code : Nat) : Nat × Nat :=
  match decodeF c code with
  | .nan => (0, 1)
  | .inf _ => (b2n !entered, 0)
  | .fin _ _ _ => (0, 0)

/-- The exact sum of truncated products (R137). -/
def truncSum (ps : List Num) : Num :=
  let logs := ps.filterMap fun p => match p with
    | .fin _ m e => if m = 0 then none else some ((m.log2 : Int) + e)
    | _ => none
  match logs with
  | [] => .fin (ps.all fun p => match p with
      | .fin neg _ _ => neg
      | _ => false) 0 0
  | l :: t =>
    let q := t.foldl max l - 60
    let v : Int := (ps.map fun (p : Num) => (match p with
      | .fin neg m e => sgn neg (if q ≤ e then m * 2 ^ (e - q).toNat else m / 2 ^ (q - e).toNat : Nat)
      | _ => 0 : Int)).sum
    .fin (v < 0) v.natAbs q

/-- block_sum of R137, as an F32 code. -/
def blockSum (ps : List Num) : Nat :=
  let up := ps.any (· == .inf false)
  let down := ps.any (· == .inf true)
  if ps.any (·.isNan) || (up && down) then canonNan .f32
  else if up then rne .f32 (.inf false)
  else if down then rne .f32 (.inf true)
  else rne .f32 (truncSum ps)

/-- A list cut into blocks of `n`: `fuel` blocks at most. -/
def blocksOf {α : Type} (n : Nat) : Nat → List α → List (List α)
  | 0, _ => []
  | fuel + 1, l => if l.isEmpty then [] else l.take n :: blocksOf n fuel (l.drop n)

/-- An accumulator with the events counted so far. -/
abbrev Acc3 := Nat × Nat × Nat

/-- One update of an accumulator. -/
def update (c : Fmt) (entered : Bool) (new : Nat) (r : Acc3) : Acc3 :=
  let e := updateEvents c entered new
  (new, r.2.1 + e.1, r.2.2 + e.2)

/-- R136. -/
def sumEach (c : Fmt) (neg : Bool) (ps : List (Num × Num)) (acc : Nat) : Acc3 :=
  ps.foldl (fun r p =>
    let a := decodeF c r.1
    update c (p.1.special || p.2.special || a.special) (rne c (fmaNum (signed neg p.1) p.2 a)) r) (acc, 0, 0)

/-- R137. -/
def sumBlocks (n : Nat) (neg : Bool) (ps : List (Num × Num)) (acc : Nat) : Acc3 :=
  (blocksOf n ps.length ps).foldl (fun r b =>
    let a := decodeF .f32 r.1
    let t := blockSum (b.map fun p => signed neg (mulNum p.1 p.2))
    update .f32 (a.special || b.any fun p => p.1.special || p.2.special)
      (rne .f32 (addNum .rne a (decodeF .f32 t))) r) (acc, 0, 0)

/-- R138: each block with the scale of its group. -/
def sumGroups (neg : Bool) (ps : List (Num × Num)) (scale : Nat → Num) (group acc : Nat) : Acc3 :=
  ((blocksOf 32 ps.length ps).zipIdx).foldl (fun r b =>
    let a := decodeF .f32 r.1
    let sc := scale (32 * b.2 / group)
    let t := blockSum (b.1.map fun p => signed neg (mulNum p.1 p.2))
    update .f32 (a.special || sc.special || b.1.any fun p => p.1.special || p.2.special)
      (rne .f32 (fmaNum (decodeF .f32 t) sc a)) r) (acc, 0, 0)

/-- R139: each addition wraps and is counted. -/
def sumWrap (neg : Bool) (ps : List (Int × Int)) (acc : Nat) : Acc3 :=
  ps.foldl (fun r p =>
    let t := sextN 32 r.1 + (if neg then -(p.1 * p.2) else p.1 * p.2)
    (codeN 32 t, r.2.1 + b2n (decide (t < -(2 ^ 31)) || decide (2 ^ 31 ≤ t)), r.2.2)) (acc, 0, 0)

/-- An integer element. -/
def elemInt (f : Fmt) (c : Nat) : Int := if Fmt.signed f then sextN f.width c else c

/-! ## Reading and writing the pool -/

/-- Cells of the pool written with their poison (R389). -/
def putPool (cs : Cells) (bad : Bool) (k : Core) : Core :=
  let ls := linesOf (cs.map (·.1))
  let whole := ls.filter fun l => (lineCells l cs).length == 64
  { k with pool := wrCells k.pool cs, poison := setPoison' ls whole bad k.poison }
where
  /-- The poisoned units after a write of some lines, whole or in part. -/
  setPoison' (ls whole : List Nat) (bad : Bool) (ps : List Nat) : List Nat :=
    if bad then ls ++ ps.filter fun u => !ls.contains u else ps.filter fun u => !whole.contains u

/-- The elements of a box in the scratchpad (R220, R275), or OPRANGE or POOLSRAM. -/
def readBox (s : State) (t : Task) (o : Opd) (w : Nat) (d : Int) (n : Shape) :
    Except (Nat × Nat × Nat) (Array (Nat × Bool)) :=
  match s.locate t o w ((indices n).map (o.bitM w d)) .read 2 with
  | .bad f => .error f
  | .wait => .ok #[]
  | .ok ps _ _ ls =>
    match s.sramStop s.cur.core t o ls ps with
    | some e => .error (0x2B, e.2, e.1 % 2 ^ 32 * 2 ^ 32)
    | none => .ok (fetchElems s.cur.core s.cur.a t o w ls ps s).1.toArray

/-- The element of a box at indices. -/
def boxAt (n : Shape) (a : Array (Nat × Bool)) (i0 i1 i2 : Nat) : Nat := (a.getD (i0 + n.1 * (i1 + n.2.1 * i2)) (0, false)).1

/-- A box holds poison. -/
def boxBad (a : Array (Nat × Bool)) : Bool := a.any (·.2)

/-- Events added to a tile's counter word, each counter stopping at 65,535 (R140, R273). -/
def countEvents (w : Mat) (ovf nanc : Nat) (bad : Bool) (k : Core) : Core :=
  let a := counterAt k w
  let v := rdNat k.pool a 4
  putPool (cellsFrom a (leBytes 4 (Nat.min 65535 (fld v 0 16 + ovf) + Nat.min 65535 (fld v 16 16 + nanc) * 65536))) bad k

/-- A matrix command starts: its timing and its effect on the core (R286). -/
def beginMat (op : MatOp) (w : Mat) (f : FormatWord) (m : Cmd) (effect : Core → Core) (s : State) : State :=
  let n := matBusy op w f
  onCmd .matrix m.task m.num (fun m => { m with
    started := true, busy := s.cycle + n - 1, till := s.cycle + n + (if op.multiplies then 8 else 0) }) (s.onMe effect)

/-- The started command's writes of the scratchpad, which land at the ends of their cycles (R286). -/
def putLater (m : Cmd) (ps : List Put) (s : State) : State := onCmd .matrix m.task m.num (fun m => { m with puts := ps }) s

/-- A command does not run for a fault; POOLSRAM stops one that has started (R383). -/
def matFail (m : Cmd) (x : Nat × Nat × Nat) (s : State) : State :=
  if x.1 = 0x2B then raiseCmd .matrix m x.1 x.2.1 x.2.2 (begin' 1 (fun m => m) s) else fail m x s

/-- The first tile element or counter word that a command reads and an SRAM error keeps from it (R391). -/
def tileFlaw (s : State) (op : MatOp) (w : Mat) (f : FormatWord) : Option (Nat × Nat × Nat) :=
  let k := s.me
  let es := if op == .mst || (op.multiplies && w.acc != .ovw) then
      (matElems w).map fun e => keysFrom (k.accBase + tileOff w f.wc e) f.wc
    else if op == .mstat then [keysFrom (counterAt k w) 4] else []
  es.zipIdx.findSome? fun e => (s.poolFlaw s.cur.core e.1).map fun a => (0x2B, a, e.2 * 2 ^ 32)

/-- A command's reads of the pool meet the errors of the lines that its ranges hold (R391). -/
def meetReads (m : Cmd) (t : Task) (s : State) : State :=
  let c := s.cur.core
  (s.flaws.filter fun f => f.spot == .pool c && m.ranges.any fun r => decide (r.lo < 64 * f.line + 64) && decide (64 * f.line < r.hi)).foldl
    (fun s f => (meetFlaw (.pool c) 4 (dieOf c) t.record.ctx 0 f.line s).2) s

/-- A scratchpad operand: OPSPACE and its reserved codes. -/
def padBad (o : Opd) : Option (Nat × Nat × Nat) := firstOf [o.spaceBad true, o.reservedButFmt]

/-- A scale, zero-point or bias handle: its space, its codes, its FMT and its GSZ (R134, R282). -/
def auxBad (fmtWord : Nat) (o : Opd) (f : Fmt) (gsz : Option Nat) : Option (Nat × Nat × Nat) :=
  firstOf [o.spaceBad true, o.reserved,
    if o.fmt == f && gsz.all (· == o.hd.gsz.toNat) then none else some (0x08, fmtWord, o.h.val)]

/-- SH or ZH that is not zero where the popped word does not read it (R276). -/
def unreadBad (h : HReg) (lo : Nat) (read : Bool) : Option (Nat × Nat × Nat) :=
  if read then none else (lowBit (h.val * 2 ^ lo) lo 5).map fun b => (0x02, h.val, b)

/-- The conditions of a command's own fields and its popped word, in order (R365, R366). -/
def matBadWord (k : Core) (m : Cmd) (op : MatOp) (w : Mat) : Option (Nat × Nat × Nat) :=
  let v := (m.fmtWord.map (·.toNat)).getD 0
  let f := formatFields v
  let sh := m.opd w.sh
  let zh := m.opd w.zh
  let tile := tileBad k w f.wc
  let word (l : List (Option (Nat × Nat × Nat))) : Option (Nat × Nat × Nat) :=
    match formatSpare v with
    | some b => some (0x02, v, b)
    | none => if f.valid op then firstOf l else some (0x08, v, 0)
  match op with
  | .mma | .mmab => word [padBad (m.opd w.ah), padBad (m.opd w.bh), tile]
  | .mmag => word [unreadBad w.zh 86 (f.shifted .mmag), padBad (m.opd w.ah), padBad (m.opd w.bh),
      auxBad v sh .f16 (some f.gsz), if f.shifted .mmag then auxBad v zh .n8 none else none, tile]
  | .mzero => word [tile]
  | .mld => word [padBad (m.opd w.ah), tile]
  | .mst => word [unreadBad w.sh 91 f.sce, unreadBad w.zh 86 f.bie, padBad (m.opd w.ah),
      if f.sce then auxBad v sh .f32 none else none, if f.bie then auxBad v zh .f32 none else none, tile]
  | .mstat => firstOf [padBad (m.opd w.ah), tileBad k w 4]
  | .mclr => tileBad k w 4

/-- A matrix command when its engine starts it. -/
def startMat (op : MatOp) (w : Mat) (act : Cmd → Task → FormatWord → State → State) (s : State) : State :=
  performing s fun m t =>
    match matBadWord s.me m op w with
    | some f => fail m f s
    | none =>
      match tileFlaw s op w m.format with
      | some x => meetReads m t (matFail m x s)
      | none => meetReads m t (act m t m.format s)

/-- Issue of a matrix word, two parcels long (R165, R284). -/
def issueMat (op : MatOp) (w : Mat) (s : State) : State :=
  enqueue .matrix [w.ah, w.bh, w.sh, w.zh] none (issueRanges s.me (s.me.opd .cmp) op w) 2 s

/-- A matrix instruction: issue by CMP, start by the matrix engine. -/
def matrix (op : MatOp) (w : Mat) (act : Cmd → Task → FormatWord → State → State) (s : State) : State :=
  engineInstr (issueMat op w) (startMat op w act) s

/-! ## MMA, MMAB and MMAG (R278, R279) -/

/-- The value of an element of A or B (R126, R275). -/
def matNum (o : Opd) (f : FormatWord) (fmt : Fmt) (c : Nat) : Num :=
  decodeAny fmt (if f.xve then some o.hd.xv.toNat else none) c

/-- The tile elements after a multiplying command, with its events. -/
def multiplied (w : Mat) (f : FormatWord) (k : Core) (sums : Nat × Nat × Nat → Nat → Acc3) : Cells × Nat × Nat :=
  (matElems w).foldl (fun r e =>
    let a := k.accBase + tileOff w f.wc e
    let x := sums e (if w.acc = .ovw then 0 else rdNat k.pool a f.wc)
    (r.1 ++ cellsFrom a (leBytes f.wc x.1), r.2.1 + x.2.1, r.2.2 + x.2.2)) ([], 0, 0)

/-- The tile elements of a word carry poison. -/
def tilePoisoned (w : Mat) (f : FormatWord) (k : Core) : Bool :=
  (matElems w).any fun e => k.poisoned (k.accBase + tileOff w f.wc e) f.wc

/-- A multiplying command takes effect (R278, R279, R389). -/
def multiply (op : MatOp) (w : Mat) (m : Cmd) (f : FormatWord) (bad : Bool) (sums : Nat × Nat × Nat → Nat → Acc3)
    (s : State) : State :=
  beginMat op w f m (fun k =>
    let bad := bad || (w.acc != .ovw && tilePoisoned w f k)
    let r := multiplied w f k sums
    countEvents w r.2.1 r.2.2 bad (putPool r.1 bad k)) s

/-- The factors of an element of the tile, along K. -/
def factors (w : Mat) (a b : Array (Nat × Bool)) (e : Nat × Nat × Nat) : List (Nat × Nat) :=
  (List.range w.k.toNat).map fun k =>
    (if w.ta then boxAt (boxA w) a e.2.1 k e.1 else boxAt (boxA w) a k e.2.1 e.1,
      if w.tb then boxAt (boxB w) b k e.2.2 e.1 else boxAt (boxB w) b e.2.2 k e.1)

/-- MMA and MMAB when they start (R278, R279). -/
def startMma (op : MatOp) (w : Mat) (m : Cmd) (t : Task) (f : FormatWord) (s : State) : State :=
  let ao := m.opd w.ah
  let bo := m.opd w.bh
  let af := f.a.getD .f32
  let bf := f.b.getD .f32
  match readBox s t ao af.width w.aoff.toInt (boxA w) with
  | .error x => matFail m x s
  | .ok a =>
    match readBox s t bo bf.width w.boff.toInt (boxB w) with
    | .error x => matFail m x s
    | .ok b =>
      let neg := w.acc == .neg
      let nums (e : Nat × Nat × Nat) : List (Num × Num) :=
        (factors w a b e).map fun p => (matNum ao f af p.1, matNum bo f bf p.2)
      multiply op w m f (boxBad a || boxBad b) (fun e acc =>
        match pairRule af bf with
        | some (c, .each) => sumEach c neg (nums e) acc
        | some (_, .blocks n) => sumBlocks n neg (nums e) acc
        | some (_, .wrap) => sumWrap neg ((factors w a b e).map fun p => (elemInt af p.1, elemInt bf p.2)) acc
        | none => (acc, 0, 0)) s

/-- MMA (R278). -/
def execMma (w : Mat) (s : State) : Host.Outcome State Fault Refusal := .next (matrix .mma w (startMma .mma w) s)

/-- MMAB (R279). -/
def execMmab (w : Mat) (s : State) : Host.Outcome State Fault Refusal := .next (matrix .mmab w (startMma .mmab w) s)

/-- MMAG when it starts (R134, R138, R278). -/
def startMmag (w : Mat) (m : Cmd) (t : Task) (f : FormatWord) (s : State) : State :=
  let ao := m.opd w.ah
  let bo := m.opd w.bh
  let so := m.opd w.sh
  let zo := m.opd w.zh
  let af := f.a.getD .f32
  let bf := f.b.getD .f32
  let groups := ceilDiv w.k.toNat f.group
  let cols := if f.groupedA then matCount w.m else matCount w.n
  let zp := f.shifted .mmag
  match readBox s t ao af.width w.aoff.toInt (boxA w) with
  | .error x => matFail m x s
  | .ok a =>
    match readBox s t bo bf.width w.boff.toInt (boxB w) with
    | .error x => matFail m x s
    | .ok b =>
      match readBox s t so 16 0 (boxG so groups cols) with
      | .error x => matFail m x s
      | .ok sc =>
        match (if zp then readBox s t zo 8 0 (boxG zo groups cols) else .ok #[]) with
        | .error x => matFail m x s
        | .ok zs =>
          let at' (o : Opd) (arr : Array (Nat × Bool)) (g j : Nat) : Nat :=
            if o.hd.glay then boxAt (boxG o groups cols) arr j g 0 else boxAt (boxG o groups cols) arr g j 0
          let col (e : Nat × Nat × Nat) : Nat := if f.groupedA then e.2.1 else e.2.2
          let q (e : Nat × Nat × Nat) (k v : Nat) : Num :=
            numOfInt ((v : Int) - (if zp then at' zo zs (k / f.group) (col e) else 0 : Nat))
          multiply .mmag w m f (boxBad a || boxBad b || boxBad sc || boxBad zs) (fun e acc =>
            let ps := (factors w a b e).zipIdx.map fun p =>
              if f.groupedA then (q e p.2 p.1.1, matNum bo f bf p.1.2) else (matNum ao f af p.1.1, q e p.2 p.1.2)
            sumGroups (w.acc == .neg) ps (fun g => decodeF .f16 (at' so sc g (col e))) f.group acc) s

/-- MMAG (R278). -/
def execMmag (w : Mat) (s : State) : Host.Outcome State Fault Refusal := .next (matrix .mmag w (startMmag w) s)

/-! ## MZERO, MLD, MST (R280 to R282) -/

/-- MZERO (R280). -/
def execMzero (w : Mat) (s : State) : Host.Outcome State Fault Refusal :=
  .next (matrix .mzero w (fun m _ f s => beginMat .mzero w f m (fun k =>
    putPool ((matElems w).flatMap fun e => cellsFrom (k.accBase + tileOff w f.wc e) (leBytes f.wc 0)) false k) s) s)

/-- The indices of an element's partner in the scratchpad (R281). -/
def partner (w : Mat) (e : Nat × Nat × Nat) : Int × Int × Int := if w.ta then (e.2.1, e.2.2, e.1) else (e.2.2, e.2.1, e.1)

/-- MLD (R281). -/
def execMld (w : Mat) (s : State) : Host.Outcome State Fault Refusal :=
  .next (matrix .mld w (fun m t f s =>
    let o := m.opd w.ah
    match readBox s t o (8 * f.wc) w.aoff.toInt (boxT w) with
    | .error x => matFail m x s
    | .ok a => beginMat .mld w f m (fun k =>
        putPool ((matElems w).flatMap fun e =>
          let p := partner w e
          cellsFrom (k.accBase + tileOff w f.wc e)
            (leBytes f.wc (boxAt (boxT w) a p.1.toNat p.2.1.toNat p.2.2.toNat))) (boxBad a) k) s) s)

/-- A value in the output format of MST and whether it overflowed (R131, R133, R282). -/
def outCode (f : FormatWord) (o : Fmt) (mode : Rnd) (x : Num) : Nat × Bool :=
  if Fmt.floating o then encodeF o mode f.e4p f.xve 0 x
  else
    match x with
    | .nan => (0, false)
    | .inf neg => (saturate o (if neg then intMin o else intMax o), true)
    | .fin neg m e =>
      let v := intOf mode 0 neg m e
      (saturate o v, decide (v < intMin o) || decide (intMax o < v))

/-- The element of a column operand. -/
def columnAt (w : Mat) (e : Nat × Nat × Nat) : Nat := if w.bat then 16 * e.1 + e.2.2 else e.2.2

/-- MST when it starts (R282). -/
def startMst (w : Mat) (m : Cmd) (t : Task) (f : FormatWord) (s : State) : State :=
  let k := s.me
  let o := m.opd w.ah
  let c := f.c.getD .f32
  let out := f.o.getD .f32
  let mode := rndOf f.rnd
  let es := matElems w
  let cols (used : Bool) (h : HReg) : Except (Nat × Nat × Nat) (Array (Nat × Bool)) :=
    if used then readBox s t (m.opd h) 32 0 (matColumns w, 1, 1) else .ok #[]
  match s.locate t o out.width (es.map fun e => o.bitM out.width w.aoff.toInt (partner w e)) .write 3 with
  | .wait => s
  | .bad x => fail m x s
  | .ok qs _ _ _ =>
    match cols f.sce w.sh with
    | .error x => matFail m x s
    | .ok sc =>
      match cols f.bie w.zh with
      | .error x => matFail m x s
      | .ok bi =>
        let ys := es.map fun e =>
          let x := decodeAny c none (rdNat k.pool (k.accBase + tileOff w f.wc e) f.wc)
          let x := if f.sce then mulNum x (decodeF .f32 (sc.getD (columnAt w e) (0, false)).1) else x
          let x := if f.bie then addNum mode x (decodeF .f32 (bi.getD (columnAt w e) (0, false)).1) else x
          outCode f out mode x
        let bad := boxBad sc || boxBad bi || tilePoisoned w f k
        let ovf := (ys.filter (·.2)).length
        let nanc := (ys.filter fun y => Fmt.floating out && (decodeF out y.1).isNan).length
        let out' := es.zip (qs.zip (ys.map fun y => (y.1, bad)))
        let rows := (List.range (matBusy .mst w f)).map fun i => (⟨s.cycle + i, out.width,
          (out'.filter fun x => x.1.1 * matCount w.m + x.1.2.1 == i).map (·.2)⟩ : Put)
        putLater m rows (beginMat .mst w f m (countEvents w ovf nanc bad) s)

/-- MST (R282). -/
def execMst (w : Mat) (s : State) : Host.Outcome State Fault Refusal := .next (matrix .mst w (startMst w) s)

/-! ## MSTAT and MCLR (R283) -/

/-- MSTAT (R283). -/
def execMstat (w : Mat) (s : State) : Host.Outcome State Fault Refusal :=
  .next (matrix .mstat w (fun m t f s =>
    let o := m.opd w.ah
    match s.locate t o 32 [o.bitM 32 w.aoff.toInt (0, 0, 0)] .write 3 with
    | .wait => s
    | .bad x => fail m x s
    | .ok qs _ _ _ =>
      let k := s.me
      let a := counterAt k w
      putLater m [⟨s.cycle, 32, qs.map fun q => (q, rdNat k.pool a 4, k.poisoned a 4)⟩]
        (beginMat .mstat w f m id s)) s)

/-- MCLR, its fields read from its word (R283, log 15). -/
def execMclr (s : State) : Host.Outcome State Fault Refusal :=
  let w := matOf (if s.cur.kind == .perform then ((s.me.cmdOf s.cur.eng s.cur.a s.cur.num).map (·.word)).getD 0 else s.cur.word)
  .next (matrix .mclr w (fun m _ f s =>
    beginMat .mclr w f m (fun k => putPool (cellsFrom (counterAt k w) (leBytes 4 0)) false k) s) s)

end Sys2Proof.Machine
end

