-- ==== Sys2Proof/Machine/Transcend.lean ====
section
/-! DEFINITION. Reciprocal root, exponentials, logarithm and hyperbolic tangent (R249, R250), computed to 400 bits
with the last bit set below every bit that a rounding keeps (log 9). -/

namespace Sys2Proof.Machine

/-- Fixed-point numbers of 400 fraction bits. -/
def fixBits : Nat := 400
def fixOne : Nat := 2 ^ fixBits

/-- t + t·y/3 + t·y²/5 + …, with y the square of the argument. -/
def atanhSum (y : Nat) : Nat → Nat → Nat → Nat
  | 0, _, _ => 0
  | n + 1, k, t => t / (2 * k + 1) + atanhSum y n (k + 1) (t * y / fixOne)

/-- The natural logarithm of a fixed-point number from 1 to 2. -/
def fixLn (z : Nat) : Nat :=
  let y := (z - fixOne) * fixOne / (z + fixOne)
  2 * atanhSum (y * y / fixOne) 140 0 y

/-- The natural logarithm of 2. -/
def fixLn2 : Nat := 2 * atanhSum (fixOne / 9) 140 0 (fixOne / 3)

/-- t + t·r/k + t·r²/(k(k+1)) + …: with t and k at 1, e^r for r from 0 to 1. -/
def expSum (r : Nat) : Nat → Nat → Nat → Nat
  | 0, _, _ => 0
  | n + 1, k, t => t + expSum r n (k + 1) (t * r / fixOne / k)
def fixExp (r : Nat) : Nat := expSum r 120 1 fixOne

/-- A finite value as a fixed-point integer, cut toward zero. -/
def fixOf (neg : Bool) (m : Nat) (e : Int) : Int :=
  sgn neg (if 0 ≤ e + fixBits then (m * 2 ^ (e + fixBits).toNat : Nat) else (m / 2 ^ (-(e + fixBits)).toNat : Nat))

/-- The magnitude of a value exceeds 2^11. -/
def isHuge (m : Nat) (e : Int) : Bool := decide (11 < (m.log2 : Int) + e)

/-- A value beyond every format, upward or toward zero. -/
def extreme (up : Bool) : Num := .fin false 1 (if up then 5000 else -5000)

/-- 2^A: exact for an integer A. -/
def exp2Num : Num → Num
  | .nan => .nan
  | .inf neg => if neg then .fin false 0 0 else .inf false
  | .fin neg m e =>
    if m ≠ 0 && isHuge m e then extreme (!neg)
    else
      let v := fixOf neg m e
      let k := v / (fixOne : Int)
      let f := (v % (fixOne : Int)).toNat
      if f = 0 then .fin false 1 k
      else .fin false (2 * fixExp (f * fixLn2 / fixOne) + 1) (k - fixBits - 1)

/-- e^A. -/
def expNum : Num → Num
  | .nan => .nan
  | .inf neg => if neg then .fin false 0 0 else .inf false
  | .fin neg m e =>
    if m = 0 then .fin false 1 0
    else if isHuge m e then extreme (!neg)
    else
      let v := fixOf neg m e
      let k := v / (fixLn2 : Int)
      .fin false (2 * fixExp (v % (fixLn2 : Int)).toNat + 1) (k - fixBits - 1)

/-- log2 A: exact for a power of two. -/
def log2Num : Num → Num
  | .nan => .nan
  | .inf neg => if neg then .nan else .inf false
  | .fin neg m e =>
    if m = 0 then .inf true
    else if neg then .nan
    else
      let z := m * 2 ^ (fixBits - m.log2)
      let k := e + m.log2
      if z = fixOne then numOfInt k
      else
        let v := k * (fixOne : Int) + (fixLn z * fixOne / fixLn2 : Nat)
        .fin (v < 0) (2 * v.natAbs + 1) (-(fixBits : Int) - 1)

/-- tanh A: next to A for a small A, next to 1 for a large one. -/
def tanhNum : Num → Num
  | .nan => .nan
  | .inf neg => .fin neg 1 0
  | .fin neg m e =>
    if m = 0 then .fin neg 0 0
    else
      let top := (m.log2 : Int) + e
      if top < -40 then .fin neg (m * 2 ^ 80 - 1) (e - 80)
      else if 7 < top then .fin neg (2 ^ 200 - 1) (-200)
      else
        match expNum (.fin false m (e + 1)) with
        | .fin _ n g =>
          let t := fixOf false n g
          .fin neg (2 * ((t - fixOne) * fixOne / (t + fixOne)).toNat + 1) (-(fixBits : Int) - 1)
        | x => x

/-- 1 / √A. -/
def rsqrtNum : Num → Num
  | .nan => .nan
  | .inf neg => if neg then .nan else .fin false 0 0
  | .fin neg m e =>
    if m = 0 then .inf neg
    else if neg then .nan
    else
      let (m, e) := if e % 2 = 0 then (m, e) else (2 * m, e - 1)
      let n := 2 ^ 640 / m
      let r := isqrt (n.log2 / 2 + 1) 0 n
      .fin false (2 * r + b2n (r * r * m != 2 ^ 640)) (-320 - e / 2 - 1)

/-- 1 / A. -/
def rcpNum (x : Num) : Num := divNum (.fin false 1 0) x

/-- The smaller and the larger of two values, −0 below +0 (R250). -/
def minNum (a b : Num) : Num :=
  if a.isNan || b.isNan then .nan
  else if ltNum a b then a
  else if ltNum b a then b
  else match a with
    | .fin true _ _ => a
    | _ => b
def maxNum (a b : Num) : Num :=
  if a.isNan || b.isNan then .nan
  else if ltNum a b then b
  else if ltNum b a then a
  else match a with
    | .fin true _ _ => b
    | _ => a

end Sys2Proof.Machine
end

