-- ==== Sys2Proof/Machine/Vector.lean ====
section
/-! DEFINITION. The vector engine (R242 to R266): operands, poison, timing, and one meaning per vector word. -/

namespace Sys2Proof.Machine

/-! ## Elements of a vector (R242) -/

/-- Lane `l` of a vector. -/
def lane (v : Lanes) (l : Nat) : Nat := ((v[l]?).getD 0).toNat

/-- Element `i` of width `w`. -/
def el (v : Lanes) (w i : Nat) : Nat :=
  if w = 64 then lane v (2 * i) + lane v (2 * i + 1) * 2 ^ 32 else fld (lane v (i * w / 32)) (i * w % 32) w

/-- The vector whose elements of width `w` are given. -/
def ofEls (w : Nat) (f : Nat → Nat) : Lanes :=
  Vector.ofFn fun l => BitVec.ofNat 32 <|
    if w = 64 then f (l.val / 2) / 2 ^ (32 * (l.val % 2))
    else ((List.range (32 / w)).map fun j => f (l.val * (32 / w) + j) % 2 ^ w * 2 ^ (w * j)).sum

/-- Elements of width `w` in a vector. -/
def perVec (w : Nat) : Nat := 2048 / w

/-- A vector of zeros. -/
def noLanes : Lanes := Vector.replicate 64 0

/-! ## What a vector command reads and writes -/

/-- A vector command: its sources with the width that each is read in, the vectors it reads, its destination and the
vectors it writes, its predicate and whether that masks the destination, its base busy cycles per vector or, for a
reduction, in all, and its results from L, the mask and the sources (R244 to R247, R265). -/
structure VPlan where
  srcs : List (Operand × Nat)
  nvec : Nat
  dst : Operand
  dn : Nat
  pred : Option PReg
  masked : Bool
  base : Nat
  total : Option Nat
  out : Lanes → Dword → List (List Lanes) → List Lanes

/-- The handles that a plan's streams name. -/
def streamsOf (l : List (Operand × Nat)) : List HReg :=
  l.filterMap fun o => match o.1 with
    | .stream h _ => some h
    | _ => none

/-- The ranges of a vector command (R266): its main-file destination, as many entries as it reads vectors even where a
reduction writes one, its main-file sources and its scratchpad streams. -/
def vecRanges (k : Core) (p : VPlan) : List Range :=
  let d := match p.dst with
    | .main v => if p.dn = 0 then [] else [⟨256 * v.val, 256 * (v.val + Nat.max p.dn p.nvec), true⟩]
    | _ => []
  d ++ p.srcs.flatMap fun o =>
    match o.1 with
    | .main v => [⟨256 * v.val, 256 * (v.val + p.nvec), false⟩]
    | .stream h off =>
      let x := k.opd .cmp h
      if !x.hd.spc then []
      else
        let a (v : Nat) : Int := x.bitW o.2 off.toInt 0 v
        let e : Int := (perVec o.2 - 1 : Nat) * o.2
        let lo := min (a 0) (a (p.nvec - 1))
        let hi := max (a 0) (a (p.nvec - 1)) + e
        [⟨(k.spadBase + byteLo lo).toNat, (k.spadBase + byteHi hi o.2).toNat, false⟩]
    | _ => []

/-- Issue of a vector command (R244, R266). -/
def issueVec (plan : Nat → VPlan) (s : State) : State :=
  let p := plan s.me.vl
  enqueue .vector (streamsOf p.srcs) none (vecRanges s.me p) 1 s

/-- OPRANGE for entries of a file beyond its end (R244). -/
def fileBad (o : Operand) (n : Nat) (k : Core) : Option (Nat × Nat × Nat) :=
  match o with
  | .file e => if 16 < e.val + n then some (0x09, 16, 16) else none
  | .main e => if k.mainSize < e.val + n then some (0x09, Nat.max e.val k.mainSize, k.mainSize) else none
  | _ => none

/-- A source after its checks. -/
inductive VSrc where
  | held (o : Operand) (w : Nat)
  | strm (h : Opd) (w : Nat) (as : List Int) (ps : List Place) (integ : Nat) (ls : List Leaf)
deriving DecidableEq, Repr

/-- The checks of every source (R245, R383): the sources, or what the first stream that fails meets. -/
def vecPlaces (s : State) (m : Cmd) (t : Task) (n : Nat) :
    List (Operand × Nat) → Except (Option (Nat × Nat × Nat)) (List VSrc)
  | [] => .ok []
  | (o, w) :: rest =>
    match o with
    | .stream h off =>
      let x := m.opd h
      let as := (List.range n).flatMap fun (v : Nat) => (List.range (perVec w)).map fun (i : Nat) =>
        x.bitW w off.toInt i v
      match s.locate t x w as .read 4 with
      | .wait => .error none
      | .bad f => .error (some f)
      | .ok ps _ integ ls =>
        match vecPlaces s m t n rest with
        | .ok r => .ok (.strm x w as ps integ ls :: r)
        | .error e => .error e
    | o =>
      match vecPlaces s m t n rest with
      | .ok r => .ok (.held o w :: r)
      | .error e => .error e

/-- What the first element meets that fails a check, where every source of an element is checked before the next element
(R424). -/
def vecFirst (s : State) (m : Cmd) (t : Task) (n : Nat) (srcs : List (Operand × Nat)) : Option (Option (Nat × Nat × Nat)) :=
  (List.range n).findSome? fun (v : Nat) => (List.range 2048).findSome? fun (i : Nat) => srcs.findSome? fun (o, w) =>
    match o with
    | .stream h off =>
      if perVec w ≤ i then none
      else match s.locate t (m.opd h) w [(m.opd h).bitW w off.toInt i v] .read 4 with
        | .wait => some none
        | .bad f => some (some f)
        | .ok _ _ _ _ => none
    | _ => none

/-- The checks of a vector command's sources: the sources, a page in motion, or the fault of the first element that fails
(R245, R383, R424). -/
def vecLocate (s : State) (m : Cmd) (t : Task) (n : Nat) (srcs : List (Operand × Nat)) :
    Except (Option (Nat × Nat × Nat)) (List VSrc) :=
  match vecPlaces s m t n srcs with
  | .ok xs => .ok xs
  | .error e => .error ((vecFirst s m t n srcs).getD e)

/-- The vectors of an entry range of the main file. -/
def Core.mainRd (k : Core) (e : Nat) : Lanes := lanesOf (rdBytes k.pool (256 * e) 256)

/-- The stop of the lower vector, and of one vector that of the first source (R383, R424). -/
def lowerStop (a b : Option (Nat × Nat × Nat × Nat × Nat)) : Option (Nat × Nat × Nat × Nat × Nat) :=
  match a, b with
  | some x, some y => if y.2.1 / perVec y.1 < x.2.1 / perVec x.1 then some y else some x
  | a, b => a.or b

/-- The vectors of one source, its poison, and where CHECK or POOLSRAM stops it, as the width of its elements, the element and
the fault (R244, R383, R389, R390). -/
def vecFetch (c : CoreId) (tid : Nat) (t : Task) (n : Nat) (src : VSrc) (s : State) :
    List Lanes × Bool × Option (Nat × Nat × Nat × Nat × Nat) × State :=
  let k := s.core c
  match src with
  | .held o w =>
    let vs := (List.range n).map fun v => match o with
      | .latch => k.latch
      | .file e => (k.o[e.val + v]?).getD noLanes
      | .main e => k.mainRd (e.val + v)
      | .stream _ _ => noLanes
    let bad := match o with
      | .latch => k.poison.contains latchUnit
      | .file e => (List.range n).any fun v => k.poison.contains (fileUnit (e.val + v))
      | .main e => k.poisoned (256 * e.val) (256 * n)
      | .stream _ _ => false
    match o with
    | .main e =>
      let ks := keysFrom (256 * e.val) (256 * n)
      (vs, bad, (s.poolFlaw c ks).map fun a =>
        let i := 8 * (a - 256 * e.val) / w
        (w, i, 0x2B, a, i % 2 ^ 32 * 2 ^ 32), meetPool c t.record.ctx ks s)
    | _ => (vs, bad, none, s)
  | .strm x w as ps integ ls =>
    let r := fetchElems c tid t x w ls ps s
    let a := (r.1.map (·.1)).toArray
    let vs := (List.range n).map fun v => ofEls w fun i => a.getD (v * perVec w + i) 0
    (vs, r.1.any (·.2), (stopOf s c t x integ ls as ps r).map (w, ·), r.2)

/-- Every source fetched. -/
def vecFetchAll (c : CoreId) (tid : Nat) (t : Task) (n : Nat) : List VSrc → State →
    List (List Lanes) × Bool × Option (Nat × Nat × Nat × Nat × Nat) × State
  | [], s => ([], false, none, s)
  | x :: xs, s =>
    let r := vecFetch c tid t n x s
    let q := vecFetchAll c tid t n xs r.2.2.2
    (r.1 :: q.1, r.2.1 || q.2.1, lowerStop r.2.2.1 q.2.2.1, q.2.2.2)

/-! ## Timing (R265) -/

/-- The main-file entries that vector `v` reads. -/
def mainReads (l : List (Operand × Nat)) (v : Nat) : List Nat :=
  l.filterMap fun o => match o.1 with
    | .main e => some (e.val + v)
    | _ => none

/-- The largest number of reads that fall in one of the six banks. -/
def bankLoad (es : List Nat) : Nat := (List.range 6).foldl (fun m b => Nat.max m (es.filter fun e => e % 6 == b).length) 0

/-- The first cycle after the pending writes of some entries have landed. -/
def landedBy (k : Core) (es : List Nat) : Nat :=
  (k.engine .vector).cmds.foldl (fun m c => c.lands.foldl (fun m l => if es.contains l.1 then Nat.max m (l.2 + 1) else m) m) 0

/-- The busy cycles of vector `v` of a command (R265). DEDUCED (log 95): where the rule's sum is 0, a base of 1 without a read of the
main file, the vector has the one cycle in which it reads its sources. -/
def busyCycles (base : Nat) (es : List Nat) : Nat := Nat.max 1 (base + bankLoad es - 1)

/-- The last busy cycle of a command that starts now, its landings, and the first busy cycle of each vector, in which it reads its
sources. -/
def vecTimes (k : Core) (now : Nat) (p : VPlan) : Nat × List (Nat × Nat) × List Nat :=
  let extra : Nat := match p.dst with
    | .main d => if p.srcs.any (fun o => match o.1 with
        | .main e => e != d && decide (e.val < d.val + p.dn) && decide (d.val < e.val + p.nvec)
        | _ => false) then 2 else 0
    | _ => 0
  let entry (v : Nat) : List Nat := match p.dst with
    | .main d => [d.val + v]
    | _ => []
  match p.total with
  | some n =>
    let read := (List.range p.nvec).foldl (fun (r : Nat × List Nat) v =>
      let first := Nat.max r.1 (landedBy k (mainReads p.srcs v))
      (first + extra + 1, r.2 ++ [first])) (now, [])
    let last := read.1 + (n - p.nvec) - 1
    (last, (entry 0).map fun e => (e, last + 2), read.2)
  | none =>
    let r := (List.range p.nvec).foldl (fun (r : Nat × List (Nat × Nat) × List Nat) v =>
      let es := mainReads p.srcs v
      let first := Nat.max r.1 (landedBy k es)
      let next := first + busyCycles p.base es + extra
      (next, r.2.1 ++ (entry v).map fun e => (e, next + 1), r.2.2 ++ [first])) (now, [], [])
    (r.1 - 1, r.2.1, r.2.2)

/-! ## Writing the results -/

/-- Lane `l` takes the new value where the mask lets it. -/
def mergeLanes (mask : Dword) (old new : Lanes) : Lanes :=
  Vector.ofFn fun l => if mask.getLsbD l.val then new.get l else old.get l

/-- Poison of a written unit (R389): set by a poisoned source, cleared by a whole clean write. -/
def setPoison (units : List Nat) (bad whole : Bool) (ps : List Nat) : List Nat :=
  if bad then units ++ ps.filter fun u => !units.contains u
  else if whole then ps.filter fun u => !units.contains u
  else ps

/-- One destination vector and L (R244, R247). -/
def putVec (o : Operand) (v : Nat) (mask : Dword) (bad : Bool) (new : Lanes) (k : Core) : Core :=
  let whole := mask == BitVec.allOnes 64
  let old := match o with
    | .file e => (k.o[e.val + v]?).getD noLanes
    | .main e => k.mainRd (e.val + v)
    | _ => k.latch
  let units := match o with
    | .file e => [fileUnit (e.val + v)]
    | .main e => (List.range 4).map fun i => 4 * (e.val + v) + i
    | _ => [latchUnit]
  let out := mergeLanes mask old new
  let tainted := bad || (!whole && units.any k.poison.contains)
  let k := { k with poison := setPoison [latchUnit] tainted true (setPoison units bad whole k.poison), latch := out }
  match o with
  | .file e => { k with o := k.o.setIfInBounds (e.val + v) out }
  | .main e => { k with pool := wrBytes k.pool (256 * (e.val + v)) (laneBytes out) }
  | _ => k

/-- The vectors in ascending order. -/
def putVecs (o : Operand) (mask : Dword) (bad : Bool) : List Lanes → Nat → Core → Core
  | [], _, k => k
  | x :: xs, v, k => putVecs o mask bad xs (v + 1) (putVec o v mask bad x k)

/-- The predicate of a plan: every lane without one. -/
def Core.maskOf (k : Core) (p : Option PReg) : Dword := p.elim (BitVec.allOnes 64) k.p.get

/-- The lanes below a limit. -/
def lanesBelow (n : Nat) : Dword := BitVec.ofNat 64 (2 ^ Nat.min n 64 - 1)

/-- The cycles that a vector command waits for the data of its memory streams (R265; log 2). -/
def dataWait (xs : List VSrc) (s : State) : Nat :=
  if xs.any fun x => match x with
      | .strm h _ _ _ _ _ => !h.hd.spc
      | .held _ _ => false
  then Config.latency s.free else 0

/-! ## Reading and finishing (R246, R247, R265) -/

/-- A stream of the scratchpad: its vectors are read one by one, each in its first busy cycle, since the control stream may write their
bytes meanwhile (R34, R265). A memory stream is read as the command starts, which R93 allows (log 42), and no other source can change
before the last vector. -/
def VSrc.late : VSrc → Bool
  | .strm x _ _ _ _ _ => x.hd.spc
  | .held _ _ => false

/-- The first `n` vectors of a source that is read vector by vector. -/
def VSrc.first (n : Nat) : VSrc → VSrc
  | .strm x w as ps integ ls => .strm x w (as.take (n * perVec w)) (ps.take (n * perVec w)) integ ls
  | .held o w => .held o w

/-- Of a command with `n` vectors, those that it reads as it starts: all of them, unless one of its sources is read vector by
vector. -/
def dueVecs (n : Nat) (xs : List VSrc) (firsts : List Nat) (now : Nat) : Nat :=
  if xs.any VSrc.late then (firsts.takeWhile (decide <| · ≤ now)).length else n

/-- What a command reads as it starts. -/
def dueOf (n due : Nat) (xs : List VSrc) : List VSrc :=
  if due = n then xs else xs.map fun x => if x.late then x.first due else x

/-- The command reads on: its vectors that are not read yet have the first busy cycles `reads`. -/
def readsOn (m : Cmd) (reads : List Nat) (got : List (List Lanes)) (bad : Bool) (stop : Option (Nat × Nat × Nat × Nat × Nat))
    (s : State) : State :=
  onCmd .vector m.task m.num (fun m => { m with reads := reads, got := got, tainted := bad, stop := stop }) s

/-- One source of a command that reads vector `v`: a stream of the scratchpad takes the bytes that stand there now. -/
def readVec (m : Cmd) (t : Task) (v : Nat) (src : Operand × Nat) (got : List Lanes) (s : State) :
    List Lanes × Bool × Option (Nat × Nat × Nat × Nat × Nat) × State :=
  match src.1 with
  | .stream h off =>
    let x := m.opd h
    if !x.hd.spc then (got, false, none, s)
    else
      let as := (List.range (perVec src.2)).map fun (i : Nat) => x.bitW src.2 off.toInt i v
      match s.locate t x src.2 as .read 4 with
      | .ok ps _ integ ls =>
        let r := vecFetch s.cur.core m.task t 1 (.strm x src.2 as ps integ ls) s
        (got.set v (r.1.headD noLanes), r.2.1, r.2.2.1.map fun e =>
          let i := v * perVec e.1 + e.2.1
          (e.1, i, e.2.2.1, e.2.2.2.1, i % 2 ^ 32 * 2 ^ 32), r.2.2.2)
      | _ => (got, false, none, s)
  | .latch | .file _ | .main _ => (got, false, none, s)

/-- Every source of vector `v`. -/
def readVecs (m : Cmd) (t : Task) (v : Nat) : List ((Operand × Nat) × List Lanes) → State →
    List (List Lanes) × Bool × Option (Nat × Nat × Nat × Nat × Nat) × State
  | [], s => ([], false, none, s)
  | x :: xs, s =>
    let r := readVec m t v x.1 x.2 s
    let q := readVecs m t v xs r.2.2.2
    (r.1 :: q.1, r.2.1 || q.2.1, lowerStop r.2.2.1 q.2.2.1, q.2.2.2)

/-- A command that reads on takes its next vector when its first busy cycle has come; with its last one, or with the one that stops
it, `finish` writes its results from the vectors, their poison and the stop (R246, R265, R383). -/
def readNext (n : Nat) (srcs : List (Operand × Nat)) (m : Cmd) (t : Task)
    (finish : List (List Lanes) → Bool → Option (Nat × Nat × Nat × Nat × Nat) → State → State) (s : State) : State :=
  match m.reads with
  | [] => s
  | f :: rest =>
    if s.cycle < f then s
    else
      let v := n - m.reads.length
      let r := readVecs m t v (srcs.zip m.got) s
      let bad := m.tainted || r.2.1
      let stop := lowerStop m.stop r.2.2.1
      if rest.isEmpty || stop.any (fun e => decide (e.2.1 / perVec e.1 ≤ v)) then
        finish r.1 bad stop (readsOn m [] [] false none r.2.2.2)
      else readsOn m rest r.1 bad stop r.2.2.2

/-- The results of a vector command from the vectors of its sources, whether one was poisoned and what stops it (R246, R247, R383,
R389). -/
def finishVec (p : VPlan) (m : Cmd) (got : List (List Lanes)) (bad : Bool) (stop : Option (Nat × Nat × Nat × Nat × Nat))
    (s : State) : State :=
  let k := s.me
  let bad := bad || (p.pred.elim false fun q => k.poison.contains (predUnit q.val))
  let out := p.out k.latch (k.maskOf p.pred) got
  let mask := if p.masked then k.maskOf p.pred else BitVec.allOnes 64
  match stop with
  | none => s.onMe (putVecs p.dst mask bad out 0)
  | some (w, i, f) =>
    let v := i / perVec w
    let s := if p.total.isSome then s
      else
        s.onMe fun k =>
          let k := putVecs p.dst mask bad (out.take v) 0 k
          if i % perVec w = 0 then k
          else putVec p.dst v (mask &&& lanesBelow (i % perVec w * w / 32)) bad (out.getD v noLanes) k
    raiseCmd .vector m f.1 f.2.1 f.2.2 s

/-- A vector command starts, or reads on (R244 to R247, R265, R366, R383). -/
def startVec (plan : Nat → VPlan) (s : State) : State :=
  performing s fun m t =>
    let p := plan m.vl
    if !m.reads.isEmpty then readNext p.nvec p.srcs m t (finishVec p m) s
    else
      let own := (streamsOf p.srcs).map fun h => (m.opd h).reservedButFmt
      let files := fileBad p.dst p.dn s.me :: p.srcs.map fun o => fileBad o.1 p.nvec s.me
      match firstOf (own ++ files) with
      | some f => fail m f s
      | none =>
        match vecLocate s m t p.nvec p.srcs with
        | .error none => s
        | .error (some f) => fail m f s
        | .ok xs =>
          let times := vecTimes s.me s.cycle p
          let wait := dataWait xs s
          let firsts := times.2.2.map (· + wait)
          let due := dueVecs p.nvec xs firsts s.cycle
          let last := times.1 + wait
          let lands := times.2.1.map fun l => (l.1, l.2 + wait)
          let till := lands.foldl (fun m l => Nat.max m l.2) last + 1
          let r := vecFetchAll s.cur.core m.task t p.nvec (dueOf p.nvec due xs) s
          let s := (onCmd .vector m.task m.num
            (fun m => { m with started := true, till := till, busy := last, lands := lands }) r.2.2.2).tick
          if due = p.nvec then finishVec p m r.1 r.2.1 r.2.2.1 s
          else readsOn m (firsts.drop due) r.1 r.2.1 r.2.2.1 s

/-- A vector instruction: issue by CMP, start by the vector engine. -/
def vector (plan : Nat → VPlan) (s : State) : State := engineInstr (issueVec plan) (startVec plan) s

/-! ## Elementwise plans -/

/-- Each element of each vector from the elements of the sources at the same place. -/
def each (w : Nat) (f : List Nat → Nat) (n : Nat) (srcs : List (List Lanes)) : List Lanes :=
  (List.range n).map fun v =>
    let xs := srcs.map fun l => l.getD v noLanes
    ofEls w fun i => f (xs.map fun x => el x w i)

/-- Base busy cycles of an elementwise form (R265). -/
def baseOf (f : Fmt) : Nat := if f.width = 64 then 2 else 1

/-- A form with two sources, and D as a third where the instruction reads it (R246). -/
def plan2 (w : Vec2) (dsrc : Bool) (base : Nat) (f : List Nat → Nat) (vl : Nat) : VPlan where
  srcs := [(w.a, w.fmt.width), (w.b, w.fmt.width)] ++ if dsrc then [(w.d, w.fmt.width)] else []
  nvec := vl
  dst := w.d
  dn := vl
  pred := w.pred
  masked := true
  base := base
  total := none
  out := fun _ _ xs => each w.fmt.width f vl xs

/-- A unary form. -/
def plan1 (w : Vec1) (base : Nat) (f : Nat → Nat) (vl : Nat) : VPlan where
  srcs := [(w.a, w.fmt.width)]
  nvec := vl
  dst := w.d
  dn := vl
  pred := w.pred
  masked := true
  base := base
  total := none
  out := fun _ _ xs => each w.fmt.width (fun l => f (l.headD 0)) vl xs

/-- Two operands, and three with D, of an element list. -/
def on2 (f : Nat → Nat → Nat) : List Nat → Nat
  | a :: b :: _ => f a b
  | _ => 0
def on3 (f : Nat → Nat → Nat → Nat) : List Nat → Nat
  | a :: b :: d :: _ => f a b d
  | _ => 0

/-- Floating arithmetic rounded once (R249). -/
def fl2 (f : Fmt) (g : Num → Num → Num) (a b : Nat) : Nat := rne f (g (decodeF f a) (decodeF f b))
def fl3 (f : Fmt) (g : Num → Num → Num → Num) (a b d : Nat) : Nat := rne f (g (decodeF f a) (decodeF f b) (decodeF f d))
def fl1 (f : Fmt) (g : Num → Num) (a : Nat) : Nat := rne f (g (decodeF f a))

/-- The base of a division, root or transcendental (R265). -/
def slowBase (f : Fmt) : Nat := if f = .f64 then 8 else 4

/-- VADD (R249). -/
def execVadd (w : Vec2) (s : State) : Host.Outcome State Fault Refusal :=
  .next (vector (plan2 w false (baseOf w.fmt) (on2 (fl2 w.fmt (addNum .rne)))) s)
/-- VSUB (R249). -/
def execVsub (w : Vec2) (s : State) : Host.Outcome State Fault Refusal :=
  .next (vector (plan2 w false (baseOf w.fmt) (on2 (fl2 w.fmt fun a b => addNum .rne a (negNum b)))) s)
/-- VMUL (R249). -/
def execVmul (w : Vec2) (s : State) : Host.Outcome State Fault Refusal :=
  .next (vector (plan2 w false (baseOf w.fmt) (on2 (fl2 w.fmt mulNum))) s)
/-- VFMA (R249). -/
def execVfma (w : Vec2) (s : State) : Host.Outcome State Fault Refusal :=
  .next (vector (plan2 w true (baseOf w.fmt) (on3 (fl3 w.fmt fmaNum))) s)
/-- VFMS (R249). -/
def execVfms (w : Vec2) (s : State) : Host.Outcome State Fault Refusal :=
  .next (vector (plan2 w true (baseOf w.fmt) (on3 (fl3 w.fmt fun a b d => fmaNum a b (negNum d)))) s)
/-- VFNMA (R249). -/
def execVfnma (w : Vec2) (s : State) : Host.Outcome State Fault Refusal :=
  .next (vector (plan2 w true (baseOf w.fmt) (on3 (fl3 w.fmt fun a b d => fmaNum (negNum a) b d))) s)
/-- VFNMS (R249). -/
def execVfnms (w : Vec2) (s : State) : Host.Outcome State Fault Refusal :=
  .next (vector (plan2 w true (baseOf w.fmt) (on3 (fl3 w.fmt fun a b d => fmaNum (negNum a) b (negNum d)))) s)
/-- VDIV (R249). -/
def execVdiv (w : Vec2) (s : State) : Host.Outcome State Fault Refusal :=
  .next (vector (plan2 w false (slowBase w.fmt) (on2 (fl2 w.fmt divNum))) s)
/-- VSQRT (R249). -/
def execVsqrt (w : Vec1) (s : State) : Host.Outcome State Fault Refusal :=
  .next (vector (plan1 w (slowBase w.fmt) (fl1 w.fmt sqrtNum)) s)
/-- VRSQRT (R249). -/
def execVrsqrt (w : Vec1) (s : State) : Host.Outcome State Fault Refusal := .next (vector (plan1 w 4 (fl1 w.fmt rsqrtNum)) s)
/-- VRCP (R249). -/
def execVrcp (w : Vec1) (s : State) : Host.Outcome State Fault Refusal := .next (vector (plan1 w 4 (fl1 w.fmt rcpNum)) s)
/-- VEXP2 (R249). -/
def execVexp2 (w : Vec1) (s : State) : Host.Outcome State Fault Refusal := .next (vector (plan1 w 4 (fl1 w.fmt exp2Num)) s)
/-- VLOG2 (R249). -/
def execVlog2 (w : Vec1) (s : State) : Host.Outcome State Fault Refusal := .next (vector (plan1 w 4 (fl1 w.fmt log2Num)) s)
/-- VEXP (R249). -/
def execVexp (w : Vec1) (s : State) : Host.Outcome State Fault Refusal := .next (vector (plan1 w 4 (fl1 w.fmt expNum)) s)
/-- VTANH (R249). -/
def execVtanh (w : Vec1) (s : State) : Host.Outcome State Fault Refusal := .next (vector (plan1 w 4 (fl1 w.fmt tanhNum)) s)
/-- VMIN (R249, R250). -/
def execVmin (w : Vec2) (s : State) : Host.Outcome State Fault Refusal :=
  .next (vector (plan2 w false (baseOf w.fmt) (on2 (fl2 w.fmt minNum))) s)
/-- VMAX (R249, R250). -/
def execVmax (w : Vec2) (s : State) : Host.Outcome State Fault Refusal :=
  .next (vector (plan2 w false (baseOf w.fmt) (on2 (fl2 w.fmt maxNum))) s)
/-- VABS (R249, R250). -/
def execVabs (w : Vec1) (s : State) : Host.Outcome State Fault Refusal :=
  .next (vector (plan1 w (baseOf w.fmt) (fl1 w.fmt absNum)) s)
/-- VNEG (R249, R250). -/
def execVneg (w : Vec1) (s : State) : Host.Outcome State Fault Refusal :=
  .next (vector (plan1 w (baseOf w.fmt) (fl1 w.fmt negNum)) s)
/-- VCLAMP: VMIN(VMAX(D, A), B) (R249). -/
def execVclamp (w : Vec2) (s : State) : Host.Outcome State Fault Refusal :=
  .next (vector (plan2 w true (baseOf w.fmt) (on3 (fl3 w.fmt fun a b d => minNum (maxNum d a) b))) s)

/-! ## Integer and bit forms (R251 to R253) -/

/-- An element as its format reads it. -/
def intEl (f : Fmt) (a : Nat) : Int := if f.isSigned then sextN f.width a else a

/-- VIADD (R251). -/
def execViadd (w : Vec2) (s : State) : Host.Outcome State Fault Refusal :=
  .next (vector (plan2 w false (baseOf w.fmt) (on2 fun a b => (a + b) % 2 ^ w.fmt.width)) s)
/-- VISUB (R251). -/
def execVisub (w : Vec2) (s : State) : Host.Outcome State Fault Refusal :=
  .next (vector (plan2 w false (baseOf w.fmt) (on2 fun a b => (a + 2 ^ w.fmt.width - b) % 2 ^ w.fmt.width)) s)
/-- VIMUL (R251). -/
def execVimul (w : Vec2) (s : State) : Host.Outcome State Fault Refusal :=
  .next (vector (plan2 w false (baseOf w.fmt) (on2 fun a b => a * b % 2 ^ w.fmt.width)) s)
/-- VIMULH (R251). -/
def execVimulh (w : Vec2) (s : State) : Host.Outcome State Fault Refusal :=
  .next (vector (plan2 w false (baseOf w.fmt)
    (on2 fun a b => codeN w.fmt.width (intEl w.fmt a * intEl w.fmt b / (2 ^ w.fmt.width : Nat)))) s)

/-- The bitwise forms over all 2,048 bits (R251). -/
def planBits (w : Vec2) (f : Word → Word → Word) (vl : Nat) : VPlan :=
  { plan2 w false 1 (fun _ => 0) vl with
    out := fun _ _ xs => (List.range vl).map fun v =>
      let a := (xs.getD 0 []).getD v noLanes
      let b := (xs.getD 1 []).getD v noLanes
      Vector.ofFn fun l => f (a.get l) (b.get l) }

/-- VAND (R251). -/
def execVand (w : Vec2) (s : State) : Host.Outcome State Fault Refusal := .next (vector (planBits w (· &&& ·)) s)
/-- VOR (R251). -/
def execVor (w : Vec2) (s : State) : Host.Outcome State Fault Refusal := .next (vector (planBits w (· ||| ·)) s)
/-- VXOR (R251). -/
def execVxor (w : Vec2) (s : State) : Host.Outcome State Fault Refusal := .next (vector (planBits w (· ^^^ ·)) s)
/-- VANDN (R251). -/
def execVandn (w : Vec2) (s : State) : Host.Outcome State Fault Refusal := .next (vector (planBits w fun a b => a &&& ~~~b) s)
/-- VSLL (R251). -/
def execVsll (w : Vec2) (s : State) : Host.Outcome State Fault Refusal :=
  .next (vector (plan2 w false (baseOf w.fmt) (on2 fun a b => a * 2 ^ (b % w.fmt.width) % 2 ^ w.fmt.width)) s)
/-- VSRL (R251). -/
def execVsrl (w : Vec2) (s : State) : Host.Outcome State Fault Refusal :=
  .next (vector (plan2 w false (baseOf w.fmt) (on2 fun a b => a / 2 ^ (b % w.fmt.width))) s)
/-- VSRA (R251). -/
def execVsra (w : Vec2) (s : State) : Host.Outcome State Fault Refusal :=
  .next (vector (plan2 w false (baseOf w.fmt)
    (on2 fun a b => codeN w.fmt.width (sextN w.fmt.width a / (2 ^ (b % w.fmt.width) : Nat)))) s)
/-- VROL (R251). -/
def execVrol (w : Vec2) (s : State) : Host.Outcome State Fault Refusal :=
  .next (vector (plan2 w false (baseOf w.fmt) (on2 fun a b =>
    a * 2 ^ (b % w.fmt.width) % 2 ^ w.fmt.width + a / 2 ^ (w.fmt.width - b % w.fmt.width))) s)
/-- VPOPC (R251). -/
def execVpopc (w : Vec1) (s : State) : Host.Outcome State Fault Refusal :=
  .next (vector (plan1 w (baseOf w.fmt) fun a => oneBits a w.fmt.width) s)
/-- VCLZ (R251). -/
def execVclz (w : Vec1) (s : State) : Host.Outcome State Fault Refusal :=
  .next (vector (plan1 w (baseOf w.fmt) fun a => leadZeros a w.fmt.width) s)

/-- The carry-less product of R252, from the bits of `b` below `n`. -/
def clmul (a b : Nat) : Nat → Nat
  | 0 => 0
  | n + 1 => if bitAt b n then clmul a b n ^^^ (a * 2 ^ n) else clmul a b n

/-- VCLMUL (R252). -/
def execVclmul (w : Vec2) (s : State) : Host.Outcome State Fault Refusal :=
  .next (vector (plan2 w false 2 (on2 fun a b => clmul a b 64 % 2 ^ 64)) s)
/-- VCLMULH (R252). -/
def execVclmulh (w : Vec2) (s : State) : Host.Outcome State Fault Refusal :=
  .next (vector (plan2 w false 2 (on2 fun a b => clmul a b 64 / 2 ^ 64)) s)
/-- VBSWAP (R253). -/
def execVbswap (w : Vec1) (s : State) : Host.Outcome State Fault Refusal :=
  .next (vector (plan1 w (baseOf w.fmt) fun a => leNat (leBytes (w.fmt.width / 8) a).reverse) s)
/-- Bits in reverse order (R253). -/
def revBits (w a : Nat) : Nat := ((List.range w).map fun j => b2n (bitAt a j) * 2 ^ (w - 1 - j)).sum
/-- VBREV (R253). -/
def execVbrev (w : Vec1) (s : State) : Host.Outcome State Fault Refusal :=
  .next (vector (plan1 w (baseOf w.fmt) (revBits w.fmt.width)) s)

/-! ## Conversion and packing (R258, R259) -/

/-- The extra value of an F4 element read through a stream (R245). -/
def streamXv (m : Cmd) (o : Operand) : Option Nat :=
  match o with
  | .stream h _ => some (m.opd h).hd.xv.toNat
  | _ => none

/-- VCVT: L's lanes at the start are the random words of mode 4 (R258). -/
def planCvt (w : Vec1) (sfmt : Fmt) (mode : Rnd) (prop : Bool) (xv : Option Nat) (vl : Nat) : VPlan :=
  let n := 2048 / Nat.max sfmt.width w.fmt.width
  { plan1 w (if sfmt.width = 64 || w.fmt.width = 64 then 2 else 1) id vl with
    srcs := [(w.a, sfmt.width)]
    out := fun l _ xs => (List.range vl).map fun v =>
      let a := (xs.getD 0 []).getD v noLanes
      ofEls w.fmt.width fun i =>
        if i < n then (convert sfmt w.fmt mode prop xv true (lane l i) (el a sfmt.width i)).1 else 0 }

/-- VCVT (R258). -/
def execVcvt (w : Vec1) (sfmt : Fmt) (mode : Rnd) (prop : Bool) (s : State) : Host.Outcome State Fault Refusal :=
  .next (engineInstr (issueVec (planCvt w sfmt mode prop none))
    (fun s =>
      let xv := (s.me.cmdOf s.cur.eng s.cur.a s.cur.num).bind fun m => streamXv m w.a
      startVec (planCvt w sfmt mode prop xv) s) s)

/-- VPACK (R259). -/
def execVpack (w : Vec2) (s : State) : Host.Outcome State Fault Refusal :=
  .next (vector (fun vl => { plan2 w false 1 (fun _ => 0) vl with
    out := fun _ _ xs => (List.range vl).map fun v => ofEls w.fmt.width fun i =>
      if i < 64 then el ((xs.getD 0 []).getD v noLanes) w.fmt.width i
      else if i < 128 then el ((xs.getD 1 []).getD v noLanes) w.fmt.width (i - 64)
      else 0 }) s)

/-- VUNPACK (R259). -/
def execVunpack (w : Vec1) (part : Fin 8) (s : State) : Host.Outcome State Fault Refusal :=
  .next (vector (fun vl => { plan1 w 1 id vl with
    out := fun _ _ xs => (List.range vl).map fun v => ofEls w.fmt.width fun i =>
      if i < 64 then el ((xs.getD 0 []).getD v noLanes) w.fmt.width (64 * part.val + i) else 0 }) s)

/-! ## Reductions and scans (R141, R260 to R263) -/

/-- The identities of R260. -/
def addIdentity : Fmt → Nat
  | .f32 => 0x80000000
  | _ => 0
def maxIdentity : Fmt → Nat
  | .f32 => 0xFF800000
  | .s32 => 0x80000000
  | _ => 0
def minIdentity : Fmt → Nat
  | .f32 => 0x7F800000
  | .s32 => 0x7FFFFFFF
  | _ => 0xFFFFFFFF

/-- The operations of R260 on two elements. -/
def redAdd (f : Fmt) (a b : Nat) : Nat := if f = .f32 then fl2 .f32 (addNum .rne) a b else (a + b) % 2 ^ 32
def redMax (f : Fmt) (a b : Nat) : Nat :=
  if f = .f32 then fl2 .f32 maxNum a b else if intEl f a < intEl f b then b else a
def redMin (f : Fmt) (a b : Nat) : Nat :=
  if f = .f32 then fl2 .f32 minNum a b else if intEl f b < intEl f a then b else a

/-- One level of the tree, and the tree over a list of 2^n elements (R141). -/
def pairUp (op : Nat → Nat → Nat) : List Nat → List Nat
  | a :: b :: t => op a b :: pairUp op t
  | l => l
def treeOf (op : Nat → Nat → Nat) : Nat → List Nat → List Nat
  | 0, l => l
  | n + 1, l => treeOf op n (pairUp op l)

/-- Every element of the vectors with its index and whether its lane is enabled. -/
def laneList (mask : Dword) (vs : List Lanes) : List (Nat × Nat × Bool) :=
  vs.zipIdx.flatMap fun v => (List.range 64).map fun l => (64 * v.2 + l, lane v.1 l, mask.getLsbD l)

/-- The levels of the tree over `n` elements, at most 4,096 (R141). -/
def treeLevels (n : Nat) : Nat := ((List.range 12).find? fun c => decide (n ≤ 2 ^ c)).getD 12

/-- A reduction over 64 × VL elements, padded to the next power of two with the identity (R141). -/
def reduce (op : Nat → Nat → Nat) (ident : Nat) (mask : Dword) (vs : List Lanes) : Nat :=
  let xs := (laneList mask vs).map fun e => if e.2.2 then e.2.1 else ident
  (treeOf op (treeLevels xs.length) (padTo (2 ^ treeLevels xs.length) ident xs)).headD ident

/-- A reduction's plan: VL vectors read, one written and not masked (R244, R260, R265). -/
def planRed (w : Vec1) (extra : Nat) (f : Dword → List Lanes → Lanes) (vl : Nat) : VPlan :=
  { plan1 w 1 id vl with dn := 1, masked := false, total := some (vl + extra), out := fun _ mask xs => [f mask (xs.getD 0 [])] }

/-- A vector with its first elements given and zeros after them. -/
def firstEls (l : List Nat) : Lanes := ofEls 32 fun i => l.getD i 0

/-- VRADD (R260). -/
def execVradd (w : Vec1) (s : State) : Host.Outcome State Fault Refusal :=
  .next (vector (planRed w 6 fun m vs => firstEls [reduce (redAdd w.fmt) (addIdentity w.fmt) m vs]) s)
/-- VRMAX (R260). -/
def execVrmax (w : Vec1) (s : State) : Host.Outcome State Fault Refusal :=
  .next (vector (planRed w 6 fun m vs => firstEls [reduce (redMax w.fmt) (maxIdentity w.fmt) m vs]) s)
/-- VRMIN (R260). -/
def execVrmin (w : Vec1) (s : State) : Host.Outcome State Fault Refusal :=
  .next (vector (planRed w 6 fun m vs => firstEls [reduce (redMin w.fmt) (minIdentity w.fmt) m vs]) s)

/-- The rank of an element (R261): NaN above +∞, −0 equal to +0. -/
def rankOf (f : Fmt) (a : Nat) : Int :=
  if f = .f32 then
    if (decodeF .f32 a).isNan then 2 ^ 40 else if bitAt a 31 then -(a % 2 ^ 31 : Nat) else (a : Int)
  else intEl f a

/-- The first element of greatest rank. -/
def winner (f : Fmt) : List (Nat × Nat) → Option (Nat × Nat)
  | [] => none
  | e :: t => match winner f t with
    | some b => if rankOf f e.2 < rankOf f b.2 then some b else some e
    | none => some e

/-- The `n` elements of greatest rank, as index and value. -/
def winners (f : Fmt) : Nat → List (Nat × Nat) → List (Nat × Nat)
  | 0, _ => []
  | n + 1, l => match winner f l with
    | some e => e :: winners f n (l.filter fun x => x.1 != e.1)
    | none => (0xFFFFFFFF, maxIdentity f) :: winners f n []

/-- A value with a NaN made canonical. -/
def tidy (f : Fmt) (a : Nat) : Nat := if f = .f32 && (decodeF .f32 a).isNan then canonNan .f32 else a

/-- The enabled elements. -/
def enabled (m : Dword) (vs : List Lanes) : List (Nat × Nat) :=
  ((laneList m vs).filter (·.2.2)).map fun e => (e.1, e.2.1)

/-- VARGMAX (R261). -/
def execVargmax (w : Vec1) (s : State) : Host.Outcome State Fault Refusal :=
  .next (vector (planRed w 6 fun m vs =>
    firstEls ((winners w.fmt 1 (enabled m vs)).flatMap fun e => [e.1, tidy w.fmt e.2])) s)
/-- VTOPK8 (R262). -/
def execVtopk8 (w : Vec1) (s : State) : Host.Outcome State Fault Refusal :=
  .next (vector (planRed w 12 fun m vs =>
    let l := winners w.fmt 8 (enabled m vs)
    firstEls (l.map (fun e => tidy w.fmt e.2) ++ l.map (·.1))) s)

/-- The running sums of R263. -/
def scan (op : Nat → Nat → Nat) : Nat → List Nat → List Nat
  | _, [] => []
  | a, x :: t => op a x :: scan op (op a x) t

/-- VSCAN (R263). -/
def execVscan (w : Vec1) (s : State) : Host.Outcome State Fault Refusal :=
  .next (vector (fun vl => { plan1 w (if w.fmt = .f32 then 64 else 1) id vl with
    out := fun _ mask xs =>
      let ident := addIdentity w.fmt
      let es := (laneList mask (xs.getD 0 [])).map fun e => if e.2.2 then e.2.1 else ident
      let out := (scan (redAdd w.fmt) ident es).toArray
      (List.range vl).map fun v => ofEls 32 fun i => out.getD (64 * v + i) 0 }) s)

/-! ## Moves and permutes (R264) -/

/-- VPERM (R264). -/
def execVperm (w : Vec2) (s : State) : Host.Outcome State Fault Refusal :=
  .next (vector (fun vl => { plan2 w false (baseOf w.fmt) (fun _ => 0) vl with
    out := fun _ _ xs => (List.range vl).map fun v =>
      let a := (xs.getD 0 []).getD v noLanes
      let b := (xs.getD 1 []).getD v noLanes
      ofEls w.fmt.width fun i => el a w.fmt.width (el b w.fmt.width i % perVec w.fmt.width) }) s)

/-- VBCAST (R264). -/
def execVbcast (w : Vec1) (j : BitVec 8) (s : State) : Host.Outcome State Fault Refusal :=
  .next (vector (fun vl => { plan1 w (baseOf w.fmt) id vl with
    out := fun _ _ xs => (List.range vl).map fun v =>
      let x := el ((xs.getD 0 []).getD v noLanes) w.fmt.width j.toNat
      ofEls w.fmt.width fun _ => x }) s)

/-- VSEL: the predicate chooses, and every lane is written (R264). -/
def execVsel (w : Vec2) (s : State) : Host.Outcome State Fault Refusal :=
  .next (vector (fun vl => { plan2 w false 1 (fun _ => 0) vl with
    masked := false
    out := fun _ mask xs => (List.range vl).map fun v =>
      mergeLanes mask ((xs.getD 1 []).getD v noLanes) ((xs.getD 0 []).getD v noLanes) }) s)

/-- VIOTA (R264). -/
def execViota (fmt : Fmt) (pred : Option PReg) (_ : Option Guard) (d : Operand) (start : BitVec 16) (s : State) :
    Host.Outcome State Fault Refusal :=
  .next (vector (fun vl => {
    srcs := [], nvec := vl, dst := d, dn := vl, pred := pred, masked := true, base := baseOf fmt, total := none
    out := fun _ _ _ => (List.range vl).map fun v => ofEls fmt.width fun i =>
      (start.toNat + v * perVec fmt.width + i) % 2 ^ fmt.width }) s)

/-- VMOV (R264). -/
def execVmov (w : Vec1) (s : State) : Host.Outcome State Fault Refusal :=
  .next (vector (fun vl => { plan1 w 1 id vl with out := fun _ _ xs => xs.getD 0 [] }) s)

/-- VSETN, which CMP performs itself (R264). -/
def execVsetn (n : BitVec 7) (s : State) : Host.Outcome State Fault Refusal :=
  .next (advance (s.onMe fun k => { k with vl := n.toNat }))

/-! ## Compares, predicates and VOTE (R254 to R257) -/

/-- A condition of VCMP on two elements (R254). -/
def vcond (f : Fmt) (c : VCond) (a b : Nat) : Bool :=
  if f.isFloat then
    let x := decodeF f a
    let y := decodeF f b
    let u := x.isNan || y.isNan
    match c with
    | .eq => eqNum x y
    | .ne => !eqNum x y
    | .lt => ltNum x y
    | .le => !u && !ltNum y x
    | .gt => ltNum y x
    | .ge => !u && !ltNum x y
    | .uno => u
  else
    let x := intEl f a
    let y := intEl f b
    match c with
    | .eq => x == y
    | .ne => x != y
    | .lt => decide (x < y)
    | .le => decide (x ≤ y)
    | .gt => decide (y < x)
    | .ge => decide (y ≤ x)
    | .uno => false

/-- A predicate written, with its poison. -/
def putPred (p : PReg) (v : Dword) (bad : Bool) (k : Core) : Core :=
  { k with p := k.p.set p.val v p.isLt, poison := setPoison [predUnit p.val] bad true k.poison }

/-- A command without a destination vector starts and keeps the engine busy for `busy` cycles. -/
def beginPred (busy : Nat) (s : State) : State :=
  onCmd .vector s.cur.a s.cur.num (fun m =>
    { m with started := true, till := s.cycle + busy, busy := s.cycle + busy - 1 }) s

/-- The plan that VCMP reads its one vector by. -/
def planCmp (fmt : Fmt) (pred : Option PReg) (a b : Operand) : VPlan where
  srcs := [(a, fmt.width), (b, fmt.width)]
  nvec := 1
  dst := .latch
  dn := 0
  pred := pred
  masked := false
  base := baseOf fmt
  total := none
  out := fun _ _ _ => []

/-- The predicate of a VCMP from the vectors of its sources: all 64 bits of pd, nothing in L (R254). -/
def finishCmp (fmt : Fmt) (pred : Option PReg) (pd : PReg) (cond : VCond) (m : Cmd) (got : List (List Lanes)) (bad : Bool)
    (stop : Option (Nat × Nat × Nat × Nat × Nat)) (s : State) : State :=
  let k := s.me
  let bad := bad || (pred.elim false fun q => k.poison.contains (predUnit q.val))
  let x := (got.getD 0 []).getD 0 noLanes
  let y := (got.getD 1 []).getD 0 noLanes
  let bits := BitVec.ofNat 64 ((List.range 64).map fun l =>
    b2n (vcond fmt cond (el x fmt.width (l * 32 / fmt.width)) (el y fmt.width (l * 32 / fmt.width))) * 2 ^ l).sum
  match stop with
  | some (_, _, f) => raiseCmd .vector m f.1 f.2.1 f.2.2 s
  | none => s.onMe (putPred pd (bits &&& k.maskOf pred) bad)

/-- VCMP starts, or reads on (R254, R265). -/
def startCmp (fmt : Fmt) (pred : Option PReg) (pd : PReg) (cond : VCond) (a b : Operand) (s : State) : State :=
  performing s fun m t =>
    let p := planCmp fmt pred a b
    if !m.reads.isEmpty then readNext 1 p.srcs m t (finishCmp fmt pred pd cond m) s
    else
      let own := (streamsOf p.srcs).map fun h => (m.opd h).reservedButFmt
      match firstOf (own ++ p.srcs.map fun o => fileBad o.1 1 s.me) with
      | some f => fail m f s
      | none =>
        match vecLocate s m t 1 p.srcs with
        | .error none => s
        | .error (some f) => fail m f s
        | .ok xs =>
          let first := Nat.max s.cycle (landedBy s.me (mainReads p.srcs 0)) + dataWait xs s
          let due := dueVecs 1 xs [first] s.cycle
          let busy := first - s.cycle + busyCycles (baseOf fmt) (mainReads p.srcs 0)
          let r := vecFetchAll s.cur.core m.task t 1 (dueOf 1 due xs) s
          let s := (beginPred busy r.2.2.2).tick
          if due = 1 then finishCmp fmt pred pd cond m r.1 r.2.1 r.2.2.1 s
          else readsOn m [first] r.1 r.2.1 r.2.2.1 s

/-- VCMP (R254). -/
def execVcmp (fmt : Fmt) (pred : Option PReg) (_ : Option Guard) (pd : PReg) (cond : VCond) (a b : Operand) (s : State) :
    Host.Outcome State Fault Refusal :=
  .next (engineInstr (issueVec fun _ => planCmp fmt pred a b) (startCmp fmt pred pd cond a b) s)

/-- Predicate logic (R255). -/
def predOp (pd pa pb : PReg) (f : Dword → Dword → Dword) (s : State) : State :=
  engineInstr (enqueue .vector [] none [] 1) (fun s => performing s fun _ _ =>
    beginPred 1 (s.onMe fun k =>
      putPred pd (f (k.p.get pa) (k.p.get pb)) ([pa, pb].any fun p => k.poison.contains (predUnit p.val)) k)) s

/-- VPAND (R255). -/
def execVpand (_ : Option Guard) (pd pa pb : PReg) (s : State) : Host.Outcome State Fault Refusal :=
  .next (predOp pd pa pb (· &&& ·) s)
/-- VPOR (R255). -/
def execVpor (_ : Option Guard) (pd pa pb : PReg) (s : State) : Host.Outcome State Fault Refusal :=
  .next (predOp pd pa pb (· ||| ·) s)
/-- VPXOR (R255). -/
def execVpxor (_ : Option Guard) (pd pa pb : PReg) (s : State) : Host.Outcome State Fault Refusal :=
  .next (predOp pd pa pb (· ^^^ ·) s)
/-- VPNOT (R255). -/
def execVpnot (_ : Option Guard) (pd pa : PReg) (s : State) : Host.Outcome State Fault Refusal :=
  .next (predOp pd pa pa (fun a _ => ~~~a) s)

/-- A VOTE (R256, R257): a poisoned predicate raises POISON (R390); the result lands at the end of its busy cycle. -/
def vote (pred : Option PReg) (pa : PReg) (f : (enabled ones : Dword) → Dest) (s : State) : State :=
  engineInstr (enqueue .vector [] none [] 1) (fun s => performing s fun m _ =>
    let k := s.me
    if (pa :: pred.toList).any fun p => k.poison.contains (predUnit p.val) then raiseCmd .vector m 0x2A 0 0 s
    else
      let en := k.maskOf pred
      beginPred 1 (if k.task == some m.task then s.onMe fun k =>
        { k with pending := k.pending ++ [⟨f en (k.p.get pa &&& en), s.cycle + 1, false, true⟩] } else s)) s

/-- VOTE.any (R256). -/
def execVoteAny (pred : Option PReg) (_ : Option Guard) (f : FReg) (pa : PReg) (s : State) :
    Host.Outcome State Fault Refusal := .next (vote pred pa (fun _ x => .f f (x != 0)) s)
/-- VOTE.all (R256). -/
def execVoteAll (pred : Option PReg) (_ : Option Guard) (f : FReg) (pa : PReg) (s : State) :
    Host.Outcome State Fault Refusal := .next (vote pred pa (fun e x => .f f (x == e)) s)
/-- VOTE.none (R256). -/
def execVoteNone (pred : Option PReg) (_ : Option Guard) (f : FReg) (pa : PReg) (s : State) :
    Host.Outcome State Fault Refusal := .next (vote pred pa (fun _ x => .f f (x == 0)) s)
/-- VOTE.cnt (R256). -/
def execVoteCnt (pred : Option PReg) (_ : Option Guard) (pa : PReg) (s : State) : Host.Outcome State Fault Refusal :=
  .next (vote pred pa (fun _ x => .x 62 (BitVec.ofNat 64 (oneBits x.toNat 64))) s)

end Sys2Proof.Machine
end

