-- ==== Sys2Proof/Machine/Engines.lean ====
section
/-! DEFINITION. The events of the engines: the start of a command (R29, R32 to R35, R236, R270, R286, R359), its
retirement (R29, R93, R115, R233), a result that lands (R172), the end of a BCOPY (R231), the overlay swap and the
retirement of a task (R41), the end of a time allowance (R44, R363). -/

namespace Sys2Proof.Machine

/-! ## Starting a command -/

/-- The guard of a command by its engine's word layout (R159, R161, R165). -/
def guardIn (e : Engine) (word : Nat) : Option Guard :=
  match e with
  | .load | .store => guardOf word 83
  | .vector => guardOf word 71
  | .matrix => guardOf word 179

/-- RADV is the one guarded command that a false outcome does not remove (R35). -/
def isRadv : Instr → Bool
  | .radv _ _ => true
  | _ => false

/-- A command leaves its queue with its range entries. -/
def dropCmd (e : Engine) (m : Cmd) (s : State) : State :=
  s.onMe fun k => k.onEngine e fun q => { q with cmds := q.cmds.filter fun x => !(x.task == m.task && x.num == m.num) }

/-- What a queue head waits for before it is admitted to the range checker. -/
inductive Admit where
  | wait
  | under
  | go (outcome : Bool) (pops : Bool)
deriving DecidableEq, Repr

/-- The guard outcome and the format word that a head needs are present (R35, R270); FQUNDER where no word can come
(R364). -/
def Core.entry (k : Core) (e : Engine) (m : Cmd) : Admit :=
  let tile := isTile m.instr && m.fmtWord.isNone
  if tile && k.fq.isEmpty then (if k.ended && k.task == some m.task then .under else .wait)
  else
    match guardIn e m.word with
    | none => .go true false
    | some g =>
      match k.guards.get g.slot with
      | [] => .wait
      | o :: _ => .go o (!g.keep)

/-- The head is admitted: its outcome is popped or kept, its word popped, and it executes or is removed (R35,
R270). -/
def admitCmd (e : Engine) (m : Cmd) (outcome pops : Bool) (s : State) : State :=
  let s := match guardIn e m.word with
    | none => s
    | some g => if pops then s.onMe fun k => { k with guards := k.guards.set g.slot.val (k.guards.get g.slot).tail g.slot.isLt }
        else s
  let v := s.me.fq.headD 0
  let s := if isTile m.instr then s.onMe fun k => { k with fq := k.fq.tail } else s
  if !outcome && !isRadv m.instr then dropCmd e m s
  else
    onCmd e m.task m.num (fun x => if isTile m.instr then { x.popped s.me v with guarded := true } else { x with guarded := true }) s

/-- The order in which the range checker takes two commands to have been issued (R34, R236). -/
def issuedBefore (x : Cmd) (ex : Engine) (m : Cmd) (em : Engine) : Bool :=
  x.slots.isEmpty && (decide (x.entered < m.entered) || (x.entered == m.entered && decide ((engIdx ex).val < (engIdx em).val)))

/-- Two ranges conflict (R33). -/
def rangesMeet (a b : List Range) : Bool :=
  a.any fun x => b.any fun y => (x.write || y.write) && decide (x.lo < y.hi) && decide (y.lo < x.hi)

/-- A range of the command conflicts with an unretired command of another queue that issued before it (R33). -/
def Core.conflicts (k : Core) (e : Engine) (m : Cmd) : Bool :=
  [Engine.load, .vector, .matrix, .store].any fun x =>
    x != e && (k.engine x).cmds.any fun y => issuedBefore y x m e && rangesMeet y.ranges m.ranges

/-- A command that has been handed to a BTE (R231). -/
def isHanded (m : Cmd) : Bool := m.started && decide (2 ^ 64 ≤ m.till)

/-- The engine can start its head in this cycle (R29, R265, R286). -/
def Core.engineFree (k : Core) (e : Engine) (m : Cmd) (now : Nat) : Bool :=
  match e with
  | .load | .store => (k.engine e).cmds.all fun x => !x.started || isHanded x || decide (x.till ≤ now)
  | .vector => decide (m.issued < now) && (k.engine e).cmds.all fun x => !x.started || decide (x.busy < now)
  | .matrix => matReady k m now

/-- The start history of a gated engine: bit i for a start i cycles ago (R359). -/
def gateShift : Engine → Nat
  | .matrix => 16
  | _ => 0

/-- Gating lets the engine start a command: in at most D + 1 of every 16 cycles (R359). -/
def Core.gateOpen (k : Core) (e : Engine) (d : Nat) : Bool :=
  match e with
  | .load | .store => true
  | .vector | .matrix => d == 15 || decide (oneBits (fld k.gateStarts (gateShift e) 16) 16 < d + 1)

/-- A start is noted for gating. -/
def Core.noteStart (k : Core) (e : Engine) : Core :=
  match e with
  | .load | .store => k
  | .vector | .matrix =>
    if bitAt k.gateStarts (gateShift e) then k else { k with gateStarts := k.gateStarts + 2 ^ gateShift e }

/-- A fault has been raised in the core in cycle `now` (R372). -/
def Core.faultsNow (k : Core) (now : Nat) : Bool := k.mode == .fault && k.faultAt == some now

/-- A command of a task that no fault of an earlier cycle and no debug stop holds (R324, R372, R373). -/
def Core.mayStart (k : Core) (m : Cmd) (now : Nat) : Bool :=
  !k.endFaults.any (·.1 == m.task) && (k.task != some m.task || (match k.mode with
    | .fault => k.faultsNow now
    | .debug _ _ _ => false
    | _ => true))

/-- A turn performs a command of engine `e` of the core next. -/
def performNext (e : Engine) (m : Cmd) (s : State) : State :=
  { s with agenda := { s.cur with kind := .perform, instr := m.instr, seq := feeder e, eng := e, num := m.num
                                  a := m.task, word := m.word } :: s.agenda }

/-- COMMAND_START (R29): a vector command that reads on does so in the first busy cycles of its vectors (R265); else the head of
engine `eng` of the core is admitted, and a turn performs it when ranges and earlier writes allow. -/
def startHead (s : State) : State :=
  let e := s.cur.eng
  match (s.me.engine e).cmds.find? fun m => m.reads.head?.any (decide <| · ≤ s.cycle) with
  | some m => performNext e m s
  | none =>
  match (s.me.engine e).cmds.find? (!·.started) with
  | none => s
  | some m =>
    if !s.me.mayStart m s.cycle then s
    else
      let s := if m.guarded then s
        else match s.me.entry e m with
          | .wait => s
          | .under => raiseCmd e m 0x06 m.num 0 s
          | .go o p => admitCmd e m o p s
      match s.me.cmdOf e m.task m.num with
      | none => s
      | some m =>
        let k := s.me
        if !m.guarded || !m.slots.isEmpty || k.conflicts e m || !k.engineFree e m s.cycle || !k.gateOpen e s.gating then s
        else (performNext e m s).onMe (·.noteStart e)

/-- COMMAND_START (R29). -/
def execCommandStart (s : State) : Host.Outcome State Fault Refusal := .next (startHead s)

/-! ## Retirement -/

/-- A transfer writes memory: its destination, which is its first operand, lies there (R218). -/
def Cmd.toMemory (m : Cmd) : Bool := m.seq == .st && (m.handles.head?.map fun h => !h.2.1.spc).getD false

/-- The memory lines that a transfer wrote: at its retirement, or at their homes (R228). -/
def Cmd.written (m : Cmd) : List Nat := (linesOf (m.writes.map (·.1))).map bareLine ++ m.lines

/-- The completion update of a counted transfer: held in an unpinned task where the transfer writes memory and, since a discard
leaves a memory object untouched, where the object lies in memory (R115, R233; log 25). -/
def completeCounted (e : Engine) (m : Cmd) (s : State) : State :=
  match m.bar, mget m.task s.tasks with
  | some r, some t =>
    if (m.toMemory || !r.spad) && !t.pinned then
      s.onTask m.task (Task.hold (.bar r 2 m.counted m.written (stampOf m.issued m.seq) m.seq m.pos m.num))
    else
      let c := s.cur.core
      let mine (k : Nat) : Bool := m.written.contains (k / 64)
      let s := publishWhere c m.task (fun _ => barScp (s.barRead r)) mine s
      let u := barFrom c m.task r (.complete m.counted) m.written (publishLines c r m.written s)
      match u.2 with
      | none => u.1
      | some (a, i, j) => raiseCmd e m a i j u.1
  | _, _ => s

/-- A command retires (R29): ST-engine writes enter the phase buffer within the write allowance (R44, R93); a write
of the doorbell aperture is no doorbell store (R404). -/
def retireCmd (e : Engine) (m : Cmd) (s : State) : State :=
  let c := s.cur.core
  let s0 := dropCmd e m s
  let bells := m.writes.filter fun x => isAperture x.1
  let cs := m.writes.filter fun x => !isAperture x.1
  let s1 := match bells with
    | [] => s0
    | b :: _ => badBell (dieOf c) (fld b.1 0 36) bells.length s0
  if cs.isEmpty then completeCounted e m s1
  else
    let s2 := s1.onTask m.task fun t => t.storeEngine cs m.poison
    match mget m.task s2.tasks with
    | none => s2
    | some t =>
      if t.record.awr < t.footLines.length then
        exhaust c m.task 2 t.footLines.length (fun a i j s => raiseCmd e m a i j s) s0
      else completeCounted e m s2

/-- The scratchpad writes of a command that earlier cycles have ended with land (R286). -/
def landPuts (e : Engine) (m : Cmd) (s : State) : State :=
  let s := (m.puts.filter fun p => decide (p.due < s.cycle)).foldl (fun s p => poolPut s.cur.core p.width p.elems s) s
  onCmd e m.task m.num (fun m => { m with puts := m.puts.filter fun p => decide (s.cycle ≤ p.due) }) s

/-- Every command of an engine in queue order: its writes land, and it retires when its last one has. -/
def retireAll (e : Engine) : List Cmd → State → State
  | [], s => s
  | m :: t, s =>
    let s := if m.puts.isEmpty then s else beneath s.cur.core m.task (landPuts e m) s
    retireAll e t (if m.started && decide (m.till ≤ s.cycle) then beneath s.cur.core m.task (retireCmd e m) s else s)

/-- COMMAND_RETIREMENT (R29, R33, R233, R286): the commands of engine `eng` of the core that are complete. -/
def execCommandRetirement (s : State) : Host.Outcome State Fault Refusal :=
  .next (retireAll s.cur.eng (s.me.engine s.cur.eng).cmds s)

/-- RESULT_LANDS (R172, R173): the results of the core that are due in this cycle. -/
def execResultLands (s : State) : Host.Outcome State Fault Refusal := .next (s.onMe (·.landDue s.cycle))

/-! ## The end of a BCOPY (R231) -/

/-- The bytes of a bulk copy up to the first line that stops it (R383, R390). -/
def bulkLength (b : Bulk) (s : State) : Nat :=
  if !b.stop then b.src.length
  else ((b.src.findIdx? fun k => s.isPoisoned (k / 64)).getD b.src.length)

/-- The bytes and the poison of lines are copied (R389); of the doorbell aperture a copy reads the stored value, and what it writes
there is no doorbell store (R349, R404). -/
def copyBulk (b : Bulk) (n : Nat) (s : State) : State :=
  let ps := (b.src.zip b.dst).take n
  let bells := ps.filter fun p => isAperture p.2
  let ps := ps.filter fun p => !isAperture p.2
  let cs := overCells (ps.map fun p => (p.2, if isAperture p.1 then s.bellByte p.1 else s.homeByte p.1)) []
  let bad := linesOf ((ps.filter fun p => !isAperture p.1 && s.isPoisoned (p.1 / 64)).map (·.2))
  let s := publishCells b.core 3 ⟨cs, bad⟩ s
  match bells with
  | [] => s
  | p :: _ => badBell (dieOf b.core) (fld p.2 0 36) bells.length s

/-- The source lines of a bulk copy meet their checks, with the context and the virtual addresses that the task gives them
(R388, R399). -/
def meetBulk (b : Bulk) (s : State) : State :=
  let d := dieOf b.core
  let r := ((mget b.task s.tasks).map (·.record.ctx)).getD 0
  let vbase := ((mget r s.contexts).map fun x => (s.buffer x b.buf).vbase).getD 0
  let va (l : Nat) : Nat :=
    let a := vbase + b.off + (b.src.findIdx? fun k => k / 64 == l).getD 0
    a - a % 64
  (linesOf (b.src.filter (!isAperture ·))).foldl (fun s l => reachHome d r (va l) l s) s

/-- BCOPY_COMPLETE: the bulk copy with key `a` ends; its lines are published at package scope, its command retires
and its barrier takes L bytes (R231, R233). -/
def endBulk (key : Nat) (s : State) : State :=
  match mget key s.bulks with
  | none => s
  | some b =>
    if s.cycle < b.till then s
    else
      let s := { s with bulks := mdel key s.bulks, cur := { s.cur with core := b.core } }
      let s := meetBulk b s
      let n := bulkLength b s
      let s := copyBulk b n s
      let m := (s.me.cmdOf .load b.task b.num)
      let s := s.onTask b.task fun t => { t with bcopies := t.bcopies - 1 }
      let s := s.onMe fun k => k.onEngine .load fun q =>
        { q with cmds := q.cmds.filter fun x => !(x.task == b.task && x.num == b.num && isHanded x) }
      if n < b.src.length then
        (m.map fun m => raiseCmd .load m 0x29 (reqInfo b.buf (b.off + n)) ((b.src.getD n 0) / 64 * 64 % 2 ^ 52) s).getD s
      else
        match b.bar with
        | none => s
        | some r =>
          -- the scratchpad of a task that is gone holds no object of its own any more (R373)
          if r.spad && s.me.task != some b.task && !s.me.under.any (·.task == b.task) then s
          else beneath b.core b.task (fun s =>
            let u := barFrom b.core b.task r (.complete b.len) ((linesOf b.dst).map bareLine) s
            match u.2, m with
            | some (a, i, j), some m => raiseCmd .load m a i j u.1
            | _, _ => u.1) s

/-- BCOPY_COMPLETE (R231). -/
def execBcopyComplete (s : State) : Host.Outcome State Fault Refusal := .next (endBulk s.cur.a s)

/-! ## END, the swap and retirement (R41) -/

/-- A task has no unretired command on a core and no bulk copy (R41). -/
def State.cmdsDone (s : State) (c : CoreId) (tid : Nat) : Bool :=
  !(s.core c).engines.toList.any (fun e => e.cmds.any fun m => m.task == tid)
    && ((mget tid s.tasks).map (·.bcopies)).getD 0 == 0

/-- The conditions of END (R41): the queues of the trailer mask are empty, of commands of earlier tasks too, the other
streams have issued STOP, every tile command has popped its word, and no command waits for a ring slot, which nothing
frees any more (R238). -/
def Core.mayswap (k : Core) (tid : Nat) : Bool :=
  k.ended && k.mode == .run && (k.seq .ld).stopped && (k.seq .cmp).stopped && (k.seq .st).stopped
    && [Engine.load, .vector, .matrix, .store].all (fun e =>
        (!k.plane.trailer.getLsbD (engIdx e).val || (k.engine e).cmds.isEmpty)
          && !(k.engine e).cmds.any fun m => m.task == tid && !m.slots.isEmpty)
    && !(k.engine .matrix).cmds.any fun m => m.task == tid && isTile m.instr && m.fmtWord.isNone

/-- A task publishes at package scope and retires; an update that it held may fault instead (R41, R119, R376). What it leaves on
its core stays readable there (R329, R339). -/
def retireTask (c : CoreId) (tid : Nat) (s : State) : State :=
  match mget tid s.tasks with
  | none => s
  | some t =>
    let s := publishAll c tid 14 .pkg s
    if (s.core c).endFaults.any (·.1 == tid) then s
    else
      let s := dropLeases tid s
      let s := s.onCore c fun k => { k with
        under := k.under.filter (·.task != tid), left := (k.under.find? (·.task == tid)).or k.left }
      leaveCtx t.record.ctx 4 (countRetired c tid s)

/-- The planes swap: the ending task leaves its sequencers, and the staged task, if any, takes the core. -/
def swapPlanes (c : CoreId) (tid : Nat) (s : State) : State :=
  let k := s.core c
  let u : Under := ⟨tid, k.bnda, k.bndb, k.bndc, k.pool, k.poison, k.x, k.o, k.latch, k.p, k.seqs.map (·.pos), k.engines.map (·.next), k.tdep⟩
  let leased := (mget tid s.tasks).map (·.leased)
  let s := s.onTask tid fun t => { t with standing := .ending c, leased := [] }
  let s := vacate c (s.onCore c fun k => { k with engines := k.engines })
  let s := s.onTask tid fun t => { t with leased := leased.getD [] }
  let s := s.onCore c fun k' => { k' with under := k.under ++ [u], engines := k.engines }
  takeShadow c s

/-- OVERLAY_SWAP: once END's conditions hold (R41). -/
def execOverlaySwap (s : State) : Host.Outcome State Fault Refusal :=
  .next <| match s.me.task with
    | none => s
    | some tid => if s.me.mayswap tid then swapPlanes s.cur.core tid s else s

/-- TASK_RETIREMENT: the ending task `a` of the core retires once every one of its commands has (R41). -/
def execTaskRetirement (s : State) : Host.Outcome State Fault Refusal :=
  .next <|
    if ((mget s.cur.a s.tasks).map (·.standing)) == some (.ending s.cur.core) && s.cmdsDone s.cur.core s.cur.a
        && !s.me.endFaults.any (·.1 == s.cur.a) then
      retireTask s.cur.core s.cur.a s
    else s

/-- The faults of this cycle are those of lines that fail as they are read, and the task can be halved (R400). -/
def State.onlyChecks (s : State) (t : Task) : Bool :=
  s.me.faultsNow s.cycle && s.me.faults.all (·.cause == 0x29) && !t.pinned && t.record.depth != 16
    && (splitAxis t.record [0, 1, 2] []).isSome

/-- TIME_ALLOWANCE_EXPIRY: the task of the core has no time left (R44, R363); a fault of the same cycle wins, but the halving
wins over lines that fail (R376, R400). -/
def execTimeAllowanceExpiry (s : State) : Host.Outcome State Fault Refusal :=
  let c := s.cur.core
  .next <| match s.me.task, s.myTask with
    | some tid, some t =>
      if t.tleft != 0 || (s.me.mode == .fault && !s.onlyChecks t) then s
      else
        let s := if s.onlyChecks t then s.onMe fun k => { k with faults := [], faultAt := none, mode := .run } else s
        exhaust c tid 3 0 (fun a i j s => raiseOn c ⟨a, .ctl, 15, (s.me.seq .ctl).pos, 0, i, j, false⟩ s) s
    | _, _ => s

end Sys2Proof.Machine
end

