-- ==== Sys2Proof/Machine/Delivery.lean ====
section
/-! DEFINITION. The delivery of a fault (R369 to R375), the cut vector and the stop record (R324 to R326), the end of a
fault hold by the Helm (R374). -/

namespace Sys2Proof.Machine

/-! ## Cuts and stop records -/

/-- The cut vector of a task (R325). -/
def Core.cut (k : Core) (tid : Nat) : Nat :=
  let u := k.under.find? (·.task == tid)
  let pos := (u.map (·.pos)).getD (k.seqs.map (·.pos))
  let next := (u.map (·.next)).getD (k.engines.map (·.next))
  ((List.finRange 4).map fun i => pos.get i % 2 ^ 32 * 2 ^ (32 * i.val)
    + headNumber (k.engines.get i) tid (next.get i) * 2 ^ (128 + 16 * i.val)).sum

/-- The engines have completed the commands of a task that had started, but for copies handed to a BTE (R231, R324,
R372). -/
def Core.startedDone (k : Core) (tid : Nat) : Bool :=
  !k.engines.toList.any fun e => e.cmds.any fun m => m.task == tid && m.started && !isHanded m

/-- The stop record of a task, of cycle `cyc` (R326). -/
def stopWord (c : CoreId) (tid : Nat) (t : Task) (src code bp cyc : Nat) (s : State) : Nat :=
  t.record.ctx + code % 2 ^ 16 * 2 ^ 16 + c.val * 2 ^ 32 + src * 2 ^ 41 + bp * 2 ^ 43
    + t.record.team % 2 ^ 24 * 2 ^ 64 + (s.core c).cut tid * 2 ^ 128 + cyc % 2 ^ 64 * 2 ^ 320

/-- A stop record is placed in a stop slot (R326). -/
def putStop (d : DieId) (i : Fin 8) (owner : Option CoreId) (w : Nat) (s : State) : State :=
  s.onDie d fun x => { x with
    stopv := x.stopv ||| BitVec.ofNat 8 (2 ^ i.val)
    stopsOf := x.stopsOf.set i.val owner i.isLt
    stops := x.stops.set i.val ⟨BitVec.ofNat 256 w, BitVec.ofNat 256 (w / 2 ^ 256)⟩ i.isLt }

/-- A die's first free stop slot. -/
def State.freeStop (s : State) (d : DieId) : Option (Fin 8) :=
  (List.finRange 8).find? fun i => !(s.die d).stopv.getLsbD i.val

/-- A stop record is placed in the die's first free slot once the engines are done, exposed writes have landed and no delay
slot is left to issue; the stop of a held fault issues none (R372); a stop that finds no free slot waits, and so does a resume
(R174, R324, R326). -/
def cutStop (c : CoreId) (s : State) : State :=
  let k := s.core c
  match k.mode, k.task, s.taskOn c, k.stopAt with
  | .debug src code bp, some tid, some t, some cyc =>
    if !k.startedDone tid || !k.settled || (src != 3 && (k.seq .ctl).delay.isSome) then s
    else
      match s.freeStop (dieOf c) with
      | none => s
      | some i =>
        let s := (putStop (dieOf c) i (some c) (stopWord c tid t src code bp cyc s) s).onCore c fun k => { k with stopAt := none }
        if k.stopGo then resumeStop c s else s
  | _, _, _, _ => s

/-- The debugger lets a task beneath go on, once its stop record is placed (R372). -/
def resumeEnd (c : CoreId) (s : State) : State :=
  let hs := (s.core c).endHolds
  let s := s.onDie (dieOf c) fun x => { x with
    stops := Vector.ofFn fun i => if hs.any fun h => h.2.2 == i.val + 1 then (x.stops.get i).ends 1 else x.stops.get i }
  s.onCore c fun k => { k with
    endHolds := k.endHolds.map fun h => (h.1, h.2.1, if h.2.2 = 0 || h.2.2 = 10 then 10 else 9) }

/-- The stop record of a task beneath that the debugger holds (R372 step 4). -/
def cutEnd (c : CoreId) (s : State) (h : Nat × Nat × Nat) : State :=
  match mget h.1 s.tasks, s.freeStop (dieOf c) with
  | some t, some i =>
    if h.2.2 != 0 && h.2.2 != 10 then s
    else
      let s := putStop (dieOf c) i none (stopWord c h.1 t 3 0 0 h.2.1 s) s
      let s := s.onCore c fun k => { k with
        endHolds := k.endHolds.map fun g => if g.1 = h.1 then (h.1, h.2.1, i.val + 1) else g }
      if h.2.2 = 10 then resumeEnd c s else s
  | _, _ => s

/-- DEBUG_CUT (R324). -/
def execDebugCut (s : State) : Host.Outcome State Fault Refusal :=
  let c := s.cur.core
  let s := cutStop c s
  .next ((s.core c).endHolds.foldl (cutEnd c) s)

/-! ## The fault record -/

/-- Causes that are decode faults of the control stream (R361). -/
def decodeCause (c : Nat) : Bool := c == 0x01 || c == 0x04 || c == 0x05 || c == 0x0B || c == 0x13 || c == 0x14

/-- The order in which R371 names the faults of one cycle. -/
def Raised.rank (f : Raised) : Nat :=
  if f.eng = 15 then (if f.seq == .ctl && !f.dec && !decodeCause f.cause then 4 else (seqIdx f.seq).val) else 5 + f.eng

/-- The fault that a record names. -/
def firstFault : List Raised → Option Raised
  | [] => none
  | f :: t => match firstFault t with
    | none => some f
    | some g => some (if g.rank < f.rank then g else f)

/-- The record of R370. -/
def faultRecord (c : CoreId) (s : State) (tid : Nat) (t : Task) (f : Raised) (more : Nat) : Nat :=
  let k := s.core c
  let x := mget t.record.ctx s.contexts
  let tdep := ((k.under.find? (·.task == tid)).map (·.tdep)).getD k.tdep
  t.record.ctx + t.record.team * 2 ^ 16 + t.record.depth * 2 ^ 40 + b2n t.pinned * 2 ^ 45
    + b2n ((x.map (·.world)).getD false) * 2 ^ 46 + f.cause * 2 ^ 48 + (seqIdx f.seq).val * 2 ^ 56 + f.eng * 2 ^ 58
    + f.pos % 2 ^ 32 * 2 ^ 64 + f.qnum % 2 ^ 16 * 2 ^ 96 + tdep * 2 ^ 112 + Nat.min more 15 * 2 ^ 120
    + k.cut tid * 2 ^ 128 + f.info0 % 2 ^ 64 * 2 ^ 320 + f.info1 % 2 ^ 64 * 2 ^ 384 + t.record.lo.get 0 * 2 ^ 448
    + c.val * 2 ^ 480

/-- A record enters a context's fault queue, or FLOST rises (R369). -/
def writeFault (n rec : Nat) (s : State) : State :=
  match mget n s.contexts with
  | none => s
  | some x =>
    let w := rdNat s.mem (t1 x.fqb) 4
    let r := rdNat s.mem (t1 (x.fqb + 4)) 4
    if (w + 2 ^ 32 - r) % 2 ^ 32 < 63 then
      let pa := x.fqb + 64 * (1 + w % 63)
      { s with mem := wrNat (wrBytes s.mem (t1 pa) (s.confBytes n pa 4 (leBytes 64 rec))) (t1 x.fqb) 4 ((w + 1) % 2 ^ 32) }
    else
      let l := rdNat s.mem (t1 (x.fqb + 8)) 4
      { s with mem := wrNat s.mem (t1 (x.fqb + 8)) 4 (Nat.min (l + 1) (2 ^ 32 - 1)) }

/-! ## Delivery (R372, R373) -/

/-- Step 5: the bytes that commands of a pinned task wrote are published at package scope; the rest of its provisional
lines and its held updates are dropped. -/
def dropProvisional (c : CoreId) (tid : Nat) (s : State) : State :=
  match mget tid s.tasks with
  | none => s
  | some t =>
    let s := if !t.pinned then s
      else t.epochs.foldl (fun s e =>
        publishCells c 3 ⟨e.engine, e.poison.filter fun l => e.engine.any fun x => x.1 / 64 == l⟩ s) s
    s.onTask tid fun t => { t with epochs := [], held := [] }

/-- A task staged in a shadow plane is requeued (R372 step 8). -/
def unstage (c : CoreId) (tid : Nat) (s : State) : State :=
  (dropLeases tid (s.onTask tid fun t => { t with standing := .faultHeld })).onCore c fun k => { k with shadow := none }

/-- Step 8: every other running task of the context is stopped, and the context is held with PRSN 5. -/
def stopContext (n : Nat) (s : State) : State :=
  let s := s.onCtx n fun x => { x with fault := true }
  let s := (s.tasksOf n).foldl (fun s t => match t.2.standing with
    | .running c => stopRunning c t.1 .faulted s
    | .staged c => if (s.core c).shadow.any (·.1 == t.1) then unstage c t.1 s else s
    | .queued => s.onTask t.1 fun t => { t with standing := .faultHeld }
    | _ => s) s
  refresh n 5 s

/-- Steps 5 to 8 for the task that holds a core. -/
def deliverHere (c : CoreId) (tid : Nat) (t : Task) (f : Raised) (s : State) : State :=
  let more := (s.core c).faults.length - 1
  let rec' := faultRecord c s tid t f more
  let s := dropProvisional c tid (unwait c (owe c .trap false (endStop c 5 s)))
  let s := writeFault t.record.ctx rec' s
  let s := s.onTeam t.record.team fun m => { m with faulted := true }
  let s := s.onTask tid fun t => { t with standing := .faultHeld, charged := 0 }
  let s := countRetired c tid (vacate c s)
  takeShadow c (stopContext t.record.ctx s)

/-- Steps 5 to 8 for a task whose commands run on beneath the next (R41). -/
def deliverBeneath (c : CoreId) (tid : Nat) (t : Task) (fs : List Raised) (s : State) : State :=
  match firstFault fs with
  | none => s
  | some f =>
    let rec' := faultRecord c s tid t f (fs.length - 1)
    let s := writeFault t.record.ctx rec' (dropLeases tid (dropProvisional c tid s))
    let s := s.onTeam t.record.team fun m => { m with faulted := true }
    let s := s.onCore c fun k => { k with
      under := k.under.filter (·.task != tid)
      endFaults := k.endFaults.filter (·.1 != tid)
      endHolds := k.endHolds.filter (·.1 != tid)
      left := (k.under.find? (·.task == tid)).or k.left
      engines := k.engines.map fun e => { e with cmds := e.cmds.filter (·.task != tid) } }
    stopContext t.record.ctx (countRetired c tid s)

/-- Step 4 for a task beneath: where debug stops are enabled for its context the debugger holds it first (R372). -/
def endStep (c : CoreId) (tid : Nat) (t : Task) (s : State) : State :=
  match (s.core c).endHolds.find? (·.1 == tid) with
  | some h => if h.2.2 = 9 then deliverBeneath c tid t (((s.core c).endFaults.filter (·.1 == tid)).map (·.2)) s else s
  | none =>
    if s.debugOn (dieOf c) t.record.ctx then s.onCore c fun k => { k with endHolds := k.endHolds ++ [(tid, s.cycle, 0)] }
    else deliverBeneath c tid t (((s.core c).endFaults.filter (·.1 == tid)).map (·.2)) s

/-- The faults of the core's own task. -/
def deliverOwn (c : CoreId) (s : State) : State :=
  let k := s.core c
  match k.task, s.taskOn c, firstFault k.faults with
  | some tid, some t, some f =>
    if k.mode != .fault || decide (s.cycle ≤ k.faultAt.getD s.cycle) || !k.startedDone tid then s
    else if !k.resumed && s.debugOn (dieOf c) t.record.ctx then
      s.onCore c (Core.stop s.cycle 3 0 0)
    else deliverHere c tid t f s
  | _, _, _ => s

/-- FAULT_DELIVERY: the faults of a core's tasks, once their engines have completed what they had started (R372). -/
def execFaultDelivery (s : State) : Host.Outcome State Fault Refusal :=
  let c := s.cur.core
  let s := deliverOwn c s
  .next <| (((s.core c).endFaults.map (·.1)).eraseDups).foldl (fun s tid =>
    match mget tid s.tasks with
    | none => s.onCore c fun k => { k with endFaults := k.endFaults.filter (·.1 != tid) }
    | some t =>
      if (s.core c).startedDone tid then endStep c tid t s else s) s

/-- HELM_FAULT_RELEASE: the Helm ends the fault hold of context `a`, once step 8 is complete (R374). -/
def execHelmFaultRelease (s : State) : Host.Outcome State Fault Refusal :=
  .next <| match mget s.cur.a s.contexts with
    | none => s
    | some x => if x.fault && (x.state = 3 || x.state = 4) && s.boot = 3 then refresh s.cur.a 0 (endFaultHold s.cur.a s) else s

end Sys2Proof.Machine
end

