-- ==== Sys2Proof/Machine/Pages.lean ====
section
/-! DEFINITION. The residency engine: the recall lead (R78), page moves (R75, R77 to R82, R385, R386), migration (R80)
and the residency requests of R296. -/

namespace Sys2Proof.Machine

/-! ## Frames (R69, R80, R386; log 11) -/

/-- The keys of the lists of free frames: T0 of a die, T1 of a stack, and the pool. -/
def t0Frames (d : DieId) : Nat := 16 + d.val
def t1Frames (stack : Nat) : Nat := 32 + stack
def poolFrames : Nat := 2

/-- The stack of a die with more free frames, stack 2 × die on a tie (R80, R296). -/
def freerStack (s : State) (d : DieId) : Nat :=
  let n (i : Nat) : Nat := ((mget (t1Frames i) s.freeFrames).getD []).length
  if n (2 * d.val) < n (2 * d.val + 1) then 2 * d.val + 1 else 2 * d.val

/-- The list from which a move to a tier at a die takes its frame. -/
def frameList (s : State) (tier : Nat) (d : DieId) : Nat :=
  if tier = 0 then t0Frames d else if tier = 1 then t1Frames (freerStack s d) else poolFrames

/-- The list to which the frame of a key goes back. -/
def listOf (k : Nat) : Nat :=
  match keyTier k with
  | 0 => t0Frames (Fin.ofNat 4 (fld k 50 2))
  | 1 => t1Frames (fld k 36 16)
  | _ => poolFrames

/-! ## Recall (R78) -/

/-- The recall lead in µs (R78). -/
def State.recallLead (s : State) (n : Nat) (x : Context) : Nat :=
  let away := (s.ownPages n x).filter fun p => isAway x p.2.2
  -- in units of 1/200 ns, so that every page's term is whole
  let ns200 := away.foldl (fun t p => t + p.2.2.size * (if p.2.2.tier = 1 then 1 else 4)) (5000 * 200)
  (ns200 + 199999) / 200000

/-- RECALL_LEAD_EXPIRY: WAKET of context `a` less its lead has come (R24, R78). -/
def execRecallLeadExpiry (s : State) : Host.Outcome State Fault Refusal :=
  let n := s.cur.a
  .next <| match mget n s.contexts with
    | none => s
    | some x =>
      if (x.state = 3 || x.state = 4) && x.waket != 0 && decide (x.waket ≤ s.timeUs + s.recallLead n x) then
        refresh n 0 (startRecall n s)
      else s

/-! ## Moves (R81) -/

/-- The lines of a page leave every cache: dirty ones are written back, clean ones dropped (R81 step 1). -/
def flushPage (src size : Nat) (s : State) : State :=
  let p (k : Nat) : Bool := decide (src ≤ k) && decide (k < src + size)
  let s := (List.finRange 288).foldl (fun s c => acquireAt c 3 p (cumulate c 3 p s)) s
  ((s.behind.map (·.1)).filter fun l => p (64 * l)).foldl (fun s l => writeBack l s) s

/-- MIG of a head entry. -/
def setMig (head : Nat) (v : Bool) (s : State) : State :=
  let w := rdNat s.mem (t1 head) 16
  { s with mem := wrNat s.mem (t1 head) 16 (w - b2n (bitAt w 25) * 2 ^ 25 + b2n v * 2 ^ 25) }

/-- The next planned move of a context is struck off. -/
def popPlan (n : Nat) (s : State) : State := s.onCtx n fun x => { x with plan := x.plan.tail }

/-- A recall is complete when no page is left to recall; a swapped context takes its state afresh from the next cycle
(R23). -/
def endRecall (n : Nat) (s : State) : State :=
  match mget n s.contexts with
  | none => s
  | some x =>
    let busy := x.plan.any (·.1 == 1) || s.moves.any fun m => m.2.ctx == n && (m.2.kind == 0 || m.2.kind == 1)
    let s := if x.recalling && !busy then
        s.onCtx n fun x => { x with recalling := false, demoted := false, recalledAt := some s.cycle }
      else s
    refresh n 3 (settleDemotion n s)

/-- A page no longer awaits recall (R386). -/
def noRecall (n : Nat) (l : Leaf) (s : State) : State :=
  s.onCtx n fun x => { x with homes := mput l.head (l.tier + 4 * (x.home.val)) x.homes }

/-- An entry of the memory error ring about a page (R399). -/
def pageEntry (n : Nat) (x : Context) (kind : Nat) (l : Leaf) (va count detail : Nat) (s : State) : State :=
  memEntry x.home kind l.tier 6 n l.keyid l.world count (l.frame * 4096) va detail s

/-- The path of a move from or to a key has failed, or its head entry is uncorrectable (R385, R417 to R419). -/
def State.moveCut (s : State) (x : Context) (head src dst n : Nat) : Bool :=
  (s.pathFail x.home src n).isSome || (s.pathFail x.home dst n).isSome
    || !s.ringPath x.home (Config.homeDie head) || s.unreadable (t1 head / 64)

/-- A move of a page begins (R81 steps 1 and 2) once a frame is found; its copy ends at a time of the device's choice
(log 2), no sooner than the BTE's rate allows (R353). `none` means that no frame is free. -/
def beginMove (n : Nat) (x : Context) (l : Leaf) (va kind tier : Nat) (d : DieId) (s : State) : Option State :=
  match takeFrame (frameList s tier d) s with
  | (none, _) => none
  | (some f, s') =>
    let src := tierKey l.tier (4096 * l.frame)
    let dst := tierKey tier (4096 * f)
    if s'.moveCut x l.head src dst l.size then
      some (pageEntry n x 5 l va 1 0 { s' with freeFrames := s.freeFrames })
    else
      let s := setMig l.head true (flushPage src l.size s')
      let m : Move := ⟨n, l.entry, l.size, src, dst, tier, f,
        s.cycle + bteCycles l.size (bteCost src dst) + 1 + Config.latency s.free, kind, x.home, (s.freeBte x.home).getD 0,
        va - va % l.size⟩
      some { s with moves := mput l.head m s.moves }.tick

/-- A planned move is made: the residency engine moves the page for the context, no lease holds it, and it lies where the
move takes it from: pass 2 of demotion takes T1 pages alone (R75, R77, R78, R296). -/
def State.mayPlan (s : State) (n : Nat) (x : Context) (kind tier : Nat) (l : Leaf) : Bool :=
  bitAt l.mask 7 && !l.mig && l.lcnt == 0 && l.tier != tier && !(kind == 4 && l.tier == 0)
    && !(kind == 0 && tier == 2 && l.tier != 1) && (s.ownPages n x).any fun p => p.2.2.head == l.head

/-- The first planned move of a context starts, is passed over, or finds no frame (R75, R77, R386, R396); it waits while no
BTE of the home die is free (R12). -/
def startPlanned (n : Nat) (x : Context) (kind tgt va : Nat) (s : State) : State :=
  match s.walk x va with
  | .error _ => endRecall n (popPlan n s)
  | .ok l =>
    let tier := tgt % 4
    let die : DieId := if kind = 0 then (frameDie (l.keyOf 0)).getD x.home else if kind = 2 then x.home else Fin.ofNat 4 (tgt / 4)
    if s.keyBusy && s.keyFor = l.keyid then s
    else if !s.mayPlan n x kind tier l then endRecall n (popPlan n s)
    else if (s.freeBte x.home).isNone then s
    else
      match beginMove n x l va kind tier die s with
      | some s => endRecall n (popPlan n s)
      | none =>
        let s := popPlan n (pageEntry n x 6 l va 1 (if kind = 4 then 1 else kind) s)
        if kind != 1 then endRecall n s
        else if l.tier = 1 then endRecall n (noRecall n l s)
        else
          match beginMove n x l va 1 1 die s with
          | some s => endRecall n (s.onCtx n fun x => { x with homes := mput l.head (1 + 4 * die.val) x.homes })
          | none => endRecall n (noRecall n l s)

/-- The die whose requests exceed its threshold for a page without leases (R80): the lowest. A page with A clear counts
none. -/
def State.migrant (s : State) (l : Leaf) : Option DieId :=
  if l.lcnt != 0 || l.mig || !bitAt l.bits 23 then none
  else (List.finRange 4).find? fun d => decide ((s.die d).migt < fld l.bits (72 + 6 * d.val) 6)

/-- The first page of a context that is to be migrated and has not been refused a frame (R80, R386). -/
def State.migration (s : State) (n : Nat) (x : Context) : Option (Nat × Leaf × DieId) :=
  (s.ownPages n x).findSome? fun p =>
    if x.refused.contains p.2.2.head then none else (s.migrant p.2.2).map fun d => (p.1, p.2.2, d)

/-- PAGE_MOVE_START: the residency engine makes the next move of context `a`, one at a time (R75, R80, R81). -/
def execPageMoveStart (s : State) : Host.Outcome State Fault Refusal :=
  let n := s.cur.a
  .next <| match mget n s.contexts with
    | none => s
    | some x =>
      if s.moves.any fun m => m.2.ctx == n then s
      else
        match x.plan with
        | (kind, tgt, va) :: _ => startPlanned n x kind tgt va s
        | [] =>
          match s.migration n x with
          | none => s
          | some (va, l, d) =>
            if (s.keyBusy && s.keyFor = l.keyid) || (s.freeBte x.home).isNone then s
            else
              match beginMove n x l va 3 (if l.tier = 0 then 0 else 1) d s with
              | some s => s
              | none => ringCount x.home 30 6 1 (s.onCtx n fun x => { x with refused := l.head :: x.refused })

/-- A move is abandoned: the page stays in its old frame (R385). -/
def abandonMove (head : Nat) (m : Move) (s : State) : State :=
  let w := rdNat s.mem (t1 head) 16
  let s := { setMig head false s with
    moves := mdel head s.moves
    freeFrames := mput (listOf m.dst) (m.frame :: (mget (listOf m.dst) s.freeFrames).getD []) s.freeFrames }
  memEntry m.die 5 (fld w 5 2) 6 m.ctx (fld w 16 7) (bitAt w 7) 1 (m.src % 2 ^ 52) m.va 0 s

/-- The lines of a page that cannot be read rightly are carried over with poison, each with its own entry (R385, R388); `w` is
the head entry. -/
def carryBad (w : Nat) (m : Move) (s : State) : State × Nat :=
  let mine (k : Nat) : Bool := decide (m.src ≤ k) && decide (k < m.src + m.size)
  let r := meetRange m.die m.ctx (fld w 16 7 + 128 * b2n (bitAt w 7)) (fun l => m.va + (64 * l - m.src)) mine s
  (r, (r.poisoned.filter fun l => mine (64 * l) && !s.poisoned.contains l).length)

/-- What the machine keeps by physical address follows a page to its new frame: the lines counted for barrier objects and
the objects themselves (R116), and the snapshots of phases (R100). No copy of the new frame's former contents is left. -/
def followMove (m : Move) (s : State) : State :=
  let key (k : Nat) : Nat := if decide (m.src ≤ k) && decide (k < m.src + m.size) then k - m.src + m.dst else k
  let lines (ls : List Nat) : List Nat := ls.map fun l => key (64 * l) / 64
  let s := { s with
    counted := s.counted.map fun e => (key e.1, lines e.2.1, lines e.2.2)
    snaps := s.snaps.map fun (e : Snap) => { e with key := e.key - bare e.key + key (bare e.key) } }
  (List.finRange 288).foldl (fun s c => acquireAt c 3 (fun k => decide (m.dst ≤ k) && decide (k < m.dst + m.size)) s) s

/-- The copy of a page ends and its head entry is rewritten (R81 steps 3 and 4); its next translation acquires. -/
def finishMove (head : Nat) (m : Move) (s : State) : State :=
  let (s, bad) := carryBad (rdNat s.mem (t1 head) 16) m s
  let s := followMove m (copyKeys m.src m.dst m.size s)
  let s := setFrame head m.tier m.frame s
  let w := rdNat s.mem (t1 head) 16
  let v := w - b2n (bitAt w 25) * 2 ^ 25 - fld w 72 24 * 2 ^ 72 - fld w 104 24 * 2 ^ 104
    + (fld w 104 24 + 1) % 2 ^ 24 * 2 ^ 104
  let s := { s with
    mem := wrNat s.mem (t1 head) 16 v
    moves := mdel head s.moves
    moved := head :: s.moved.filter (· != head)
    freeFrames := mput (listOf m.src) (m.src % 2 ^ 52 / 4096 :: (mget (listOf m.src) s.freeFrames).getD []) s.freeFrames
    contexts := s.contexts.map fun e => (e.1, { e.2 with refused := [] }) }
  if bad = 0 then s
  else memEntry m.die 9 m.tier 6 m.ctx (fld w 16 7) (bitAt w 7) bad (m.dst % 2 ^ 52) m.va 0 s

/-- The pages of a context that a move leaves: its plan goes on (R23, R77 to R79). -/
def afterMove (m : Move) (s : State) : State :=
  match mget m.ctx s.contexts with
  | none => s
  | some x => if x.state = 3 || x.state = 4 then endRecall m.ctx s else s

/-- PAGE_MOVE_COMPLETE: the copy of the page whose head entry lies at `a` ends (R81, R385). -/
def execPageMoveComplete (s : State) : Host.Outcome State Fault Refusal :=
  let head := s.cur.a
  .next <| match mget head s.moves with
    | none => s
    | some m =>
      if s.cycle < m.till then s
      else
        match mget m.ctx s.contexts with
        | none => abandonMove head m s
        | some x => afterMove m (if s.moveCut x head m.src m.dst m.size then abandonMove head m s else finishMove head m s)

end Sys2Proof.Machine
end

