-- ==== Sys2Proof/Machine/Slots.lean ====
section
/-! DEFINITION. The events of queues and slots: doorbells, mapping, idle unmaps (R287 to R294), the packets (R295 to R298,
R403), waits and moves (R297, R405). -/

namespace Sys2Proof.Machine

/-- The slot of the turn: slot `slot` of die `die`. -/
def State.mySlot (s : State) : QSlot := (s.die s.cur.die).slots.get s.cur.slot
def onMySlot (f : QSlot → QSlot) (s : State) : State := onSlot s.cur.die s.cur.slot f s

/-- DOORBELL_STORE: `bell` writes `num`, `b` bytes wide, at byte `a` of its window of the aperture (R290, R404);
while the host link is down, the host's does not arrive (R420). -/
def execDoorbellStore (s : State) : Host.Outcome State Fault Refusal :=
  let lost := s.pcieDown && s.cur.bell != .task
  .next (if lost then s else ringBell s.cur.bell s.cur.die s.cur.a s.cur.b s.cur.num s)

/-! ## Mapping (R292) -/

/-- The recall of the page of a blocked queue's signal is over (R294, R405). -/
def State.recallOver (s : State) (q : Nat) : Bool :=
  let p := s.packetKey { s.mySlot with queue := q, ridx := s.qcb q 20 4 }
  let n := rdNat s.mem (p + 2) 2
  let va := rdNat s.mem (p + 8) 8
  match mget n s.contexts with
  | none => true
  | some x => !x.plan.any (fun e => e.1 == 4 && e.2.2 == va) && match s.walk x va with
    | .ok l => !(mget l.head s.moves).isSome
    | .error _ => true

/-- The signal of a queue's head packet lies in T0 or T1, not in motion (R294). -/
def State.signalResident (s : State) (q ridx : Nat) : Bool :=
  let p := s.packetKey { s.mySlot with queue := q, ridx := ridx }
  match (mget (rdNat s.mem (p + 2) 2) s.contexts).map fun x => s.walk x (rdNat s.mem (p + 8) 8) with
  | some (.ok l) => decide (l.tier ≤ 1) && !l.mig
  | _ => false

/-- A reserved bit of a queue's QCB is set: the device does not act on it (R6, R288). DESIGN CHOICE (log 89): the queue stays
pending and unmapped, and nothing is reported, since the spec names no report for it. -/
def State.qSpare (s : State) (q : Nat) : Bool :=
  (spareBit [(37, 3), (45, 3), (218, 6), (240, 16), (352, 672)] (s.qcb q 0 128)).isSome

/-- The pending queue that a die maps next: the lowest class, and within it the first that became pending (R292); a queue
whose slot is UNMAPPING is mapped once that slot is free (R293). -/
def State.nextPending (s : State) (d : DieId) : Option Nat :=
  ((s.die d).pendOrder.filter fun q => s.qEn q && !s.qSpare q && (s.slotOf q).isNone
    && (!s.qWblk q || s.recallOver q)).foldl (fun b q =>
    match b with
    | none => some q
    | some p => if s.queueClass q < s.queueClass p then some q else some p) none

/-- The lowest free slot in use. -/
def Die.freeSlot (x : Die) : Option (Fin 256) :=
  (List.finRange 256).find? fun i => decide (i.val < x.nslot) && (x.slots.get i).state == 0

/-- µs since the last doorbell of a slot, in the 32 bits of LSIGT. -/
def State.sinceBell (s : State) (x : QSlot) : Nat := (s.timeUs % 2 ^ 32 + 2 ^ 32 - x.lsigt) % 2 ^ 32

/-- The mapped slot with the oldest LSIGT, the lowest number on a tie (R292). -/
def State.oldestSlot (s : State) (d : DieId) : Option (Fin 256) :=
  let x := s.die d
  ((List.finRange 256).filter fun i => (x.slots.get i).mapped).foldl (fun b i => match b with
    | none => some i
    | some j => if s.sinceBell (x.slots.get j) < s.sinceBell (x.slots.get i) then some i else some j) none

/-- A queue is mapped to a free slot (R292 steps 2 and 3); a blocked queue whose page has not come is mapped with a
SIGFAR entry (R405), whose arguments the spec leaves open (log 18). -/
def mapQueue (d : DieId) (q : Nat) (i : Fin 256) (s : State) : State :=
  let far := s.qWblk q && !s.signalResident q (s.qcb q 20 4)
  let s := journal d 1 q (i.val + s.qcb q 0 4 * 2 ^ 64) s
  let s := qcbUpdate q (fun m a =>
    wrByte (wrByte m (a + 26) (BitVec.ofNat 8 i.val)) (a + 27) (BitVec.ofNat 8 (putFld (rdNat m (a + 27) 1) 0 2 1))) s
  let v := (mget q s.bells).getD (0, 0)
  let s := clearPending q s
  let s := onSlot d i (fun _ =>
    ⟨1, q, 0, s.qcb q 20 4, s.qcb q 24 2, 0, s.qcb q 32 8, s.qcb q 20 4, s.cycle, far, false, none, false⟩) s
  let s := if far then
      (schedEntry d 3 0 q (rdNat s.mem (s.packetKey ((s.die d).slots.get i) + 2) 2) 0 (Config.value s.free)
        (Config.value (s.free + 1)) s).tick.tick
    else s
  takeWidx d i v.1 v.2 s

/-- QUEUE_MAPPING: the first Helm core of die `die` maps the next pending queue, or unmaps a slot for it (R292). -/
def execQueueMapping (s : State) : Host.Outcome State Fault Refusal :=
  let d := s.cur.die
  .next <|
    if !s.helmServes d 0 || decide (s.cycle < (s.die d).mapAt) then s
    else
      match s.nextPending d with
      | none => s
      | some q =>
        match (s.die d).freeSlot with
        | some i =>
          (mapQueue d q i (s.onDie d fun x => { x with mapAt := s.cycle + 1 + Config.latency s.free })).tick
        | none =>
          if (s.die d).slots.toList.any fun x => x.state == 4 || x.leaves.isSome then s
          else match s.oldestSlot d with
            | none => s
            | some i => helmUnmap d i s

/-- The idle timeout of a slot's queue in µs (R287, R288). -/
def State.idleUs (s : State) (d : DieId) (x : QSlot) : Nat :=
  let q := s.qcb x.queue 28 2
  if q = 0 then (s.die d).idle else q

/-- IDLE_TIMEOUT: slot `slot` of die `die` is unmapped by the first Helm core, since it has been empty for its timeout
or lies at NSLOT or above; an unmap that stands in the journal since an earlier cycle goes on, and one that has begun is
completed (R287, R293, R294, R410). -/
def execIdleTimeout (s : State) : Host.Outcome State Fault Refusal :=
  let d := s.cur.die
  let i := s.cur.slot
  let x := s.mySlot
  .next <|
    if !s.helmServes d 0 then s
    else if x.state = 4 then finishUnmap d i s
    else if x.mapped && x.leaves.any (· < s.cycle) then setUnmapping d i false s
    else if x.mapped && decide ((s.die d).nslot ≤ i.val) then helmUnmap d i s
    else if x.state = 1 && x.ridx = x.widx && decide (s.idleUs d x ≤ s.sinceBell x) then helmUnmap d i s
    else s

/-- RIDX_WRITEBACK: a mapped slot writes RIDX to its QCB (R289, R291). -/
def execRidxWriteback (s : State) : Host.Outcome State Fault Refusal :=
  let x := s.mySlot
  .next <|
    if x.mapped && x.written != x.ridx then
      onMySlot (fun x => { x with written := x.ridx })
        (updateQcb x.queue s.cur.slot.val (fun m a => wrNat m (a + 20) 4 x.ridx) s)
    else s

/-- NSLOT_WRITE: NSLOT of die `die` becomes `num`, 1 to 256 (R287, log 17), where the Helm or secure-world software writes it
(`flag`): a write of a secure register by another agent has no effect (R346). Its slots at or above it are unmapped by
IDLE_TIMEOUT. -/
def execNslotWrite (s : State) : Host.Outcome State Fault Refusal :=
  .next (if s.cur.flag && decide (1 ≤ s.cur.num) && decide (s.cur.num ≤ 256) then s.onDie s.cur.die fun x => { x with nslot := s.cur.num } else s)

/-! ## Packets (R295, R296, R403) -/

/-- A packet as its number of 2,048 bits. -/
def State.packet (s : State) (x : QSlot) : Nat := rdNat s.mem (s.packetKey x) 256

/-- The packet is consumed; the next is processed 8 cycles later at the earliest (R294). -/
def consume (s : State) : State :=
  onMySlot (fun x => { x with ridx := (x.ridx + 1) % 2 ^ 32, readyAt := s.cycle + 8 }) s

/-- The head packet of the turn's slot, where it is ready and of type `ty`; ORD first, then a reserved type (R295). -/
def headPacket (ty : Nat) (act : Nat → State → State) (s : State) : State :=
  let x := s.mySlot
  if x.state != 1 || x.ridx = x.widx || decide (s.cycle < x.readyAt) then s
  else
    let w := s.packet x
    if bitAt w 8 && decide (0 < x.outt) then onMySlot (fun x => { x with state := 2 }) s
    else if fld w 0 8 < 1 || 5 < fld w 0 8 then packetError s.cur.die s.cur.slot 1 0 s
    else if fld w 0 8 = ty then act w s
    else s

/-- The context that a packet may name (R296, R403 SUB 3). -/
def State.packetCtx (s : State) (x : QSlot) (n : Nat) : Option Context :=
  let q := s.qcb x.queue 6 2
  match mget n s.contexts with
  | none => none
  | some c => if n = 0 || c.state = 0 || (q != 0 && q != n) || c.world != bitAt (s.qcb x.queue 4 1) 3 then none else some c

/-- Steps 1 to 4 and 6 to 9 of R380 for 8 bytes at a virtual address of a context: the page, or none (R403 SUB 4). -/
def State.schedPage (s : State) (d : DieId) (n : Nat) (x : Context) (va : Nat) (a : Acts) : Option Leaf :=
  match s.bufferAt x va with
  | none => none
  | some i =>
    match s.checkEntry x n i (va - (s.buffer x i).vbase : Nat) 8 (some (a, false)) with
    | .error _ => none
    | .ok b =>
      match s.checkPage x d b 0 va (if a == .read then 0 else 1) with
      | .error _ => none
      | .ok l => some l

/-- The reserved bits of a packet other than LAUNCH (R295, R403 SUB 2). -/
def packetSpare (w : Nat) : Bool :=
  let ty := fld w 0 8
  let opc := fld w 32 3
  fld w 9 7 != 0 || fld w 35 29 != 0 || fld w 192 1856 != 0 || match ty with
    | 2 => decide (3 < opc) || fld w 64 3 != 0
    | 3 => decide (1 < opc) || fld w 64 3 != 0
    | 4 => decide (1 < opc) || fld w 84 44 != 0 || fld w 153 7 != 0 || fld w 185 7 != 0
    | _ => opc != 0 || fld w 16 16 != 0 || fld w 128 64 != 0

/-- A packet with a context: its checks, and then its processing with the context's number and entry (R403). -/
def withCtx (w : Nat) (act : Nat → Context → State → State) (s : State) : State :=
  let err (sub : Nat) : State := packetError s.cur.die s.cur.slot sub (fld w 16 16) s
  if packetSpare w then packetError s.cur.die s.cur.slot 2 0 s
  else match s.packetCtx s.mySlot (fld w 16 16) with
    | none => err 3
    | some x => act (fld w 16 16) x s

/-- The core from whose path the scheduler of a die performs an atomic: the die's first. -/
def coreOf (d : DieId) : CoreId := ⟨72 * d.val, by omega⟩

/-- SIGNAL: ASWP.d or AADD.d with release order at system scope (R296). -/
def execSignal (s : State) : Host.Outcome State Fault Refusal :=
  .next <| headPacket 3 (fun w => withCtx w fun n x s =>
    match s.schedPage s.cur.die n x (fld w 64 64) .atomic with
    | none => packetError s.cur.die s.cur.slot 4 n s
    | some l =>
      let va := fld w 64 64
      let k := l.keyOf va
      let v := fld w 128 64
      if l.mig then s
      else if isAperture k then
        (if fld w 32 3 = 0 then consume (ringBell .task s.cur.die (fld k 0 36) 8 v s)
          else packetError s.cur.die s.cur.slot 4 n s)
      else
        let new (old : Nat) : Nat := if fld w 32 3 = 0 then v else (old + v) % 2 ^ 64
        consume (signalAtomic (coreOf s.cur.die) l va new s)) s

/-- RESIDE: the pages of a range go into the plan of the residency engine (R296). -/
def execReside (s : State) : Host.Outcome State Fault Refusal :=
  .next <| headPacket 4 (fun w => withCtx w fun n x s =>
    let i := fld w 64 20
    let b := s.buffer x i
    match s.checkEntry x n i 0 0 none with
    | .error (0x20, _, _) => packetError s.cur.die s.cur.slot 4 n s
    | _ =>
      let lo := b.vbase + 65536 * fld w 128 25
      let hi := b.vbase + Nat.min (65536 * fld w 160 25) b.len
      let lo := if lo < hi then lo - lo % 4096 else hi
      let pages := ((List.range ((hi - lo + 4095) / 4096)).filterMap fun j => match s.walk x (lo + 4096 * j) with
        | .ok l => some (lo + 4096 * j - (lo + 4096 * j) % l.size)
        | .error _ => none).eraseDups
      consume (s.onCtx n fun x => { x with plan := x.plan ++ pages.map fun va => (2, fld w 32 3, va) })) s

/-- NOTE: NOTEV takes the tag; a note record, and the triggers of TAGS and TAGP (R296, R320). -/
def execNote (s : State) : Host.Outcome State Fault Refusal :=
  .next <| headPacket 5 (fun w s =>
    if packetSpare w then packetError s.cur.die s.cur.slot 2 0 s
    else
      let tag := fld w 64 64
      let s := onMySlot (fun x => { x with notev := tag }) s
      let s := putPlain s.cur.die 1 tag (tag / 2 ^ 32) s
      consume (onTrace s.cur.die (fun t => { t with start := t.start || (t.tags.toNat == tag && tag != 0)
                                                    stop := t.stop || (t.tagp.toNat == tag && tag != 0) }) s)) s

/-! ## WAIT (R297, R405) -/

/-- The value of a signal of a page at its point of coherence (R104, R297), under the page's tag (R91). -/
def State.signalAt (s : State) (l : Leaf) (va : Nat) : Nat :=
  let k := l.keyOf va
  if isAperture k then ((mget (fld k 0 36 / 8) s.bells).map (·.1)).getD 0
  else leNat ((keysFrom (tagged l.tag k) 8).map s.homeByte)

/-- A comparison reads its signal: the line is met at its home, and A and ACNT take the request (R67, R80, R91). -/
def readSignal (l : Leaf) (n va : Nat) (s : State) : State :=
  let k := l.keyOf va
  if isAperture k then s
  else markLeaf s.cur.die l false 1 (reachHome s.cur.die n (va - va % 64) (taggedLine l.tag (k / 64)) s)

/-- A WAIT whose signal's page is not resident: the slot is unmapped with WBLK and the page recalled to T1 of the serving
die (R294). -/
def blockQueue (n va : Nat) (s : State) : State :=
  beginUnmap s.cur.die s.cur.slot true
    (s.onCtx n fun x => { x with plan := x.plan ++ [(4, 1 + 4 * s.cur.die.val, va)] })

/-- A write since the last comparison of the turn's slot has made its condition hold at a key (R297). -/
def State.wasMet (s : State) (k : Nat) : Bool :=
  s.watches.any fun e => e.die == s.cur.die && e.slot == s.cur.slot && e.key == k && e.met

/-- A WAIT compares: consumed, or the slot waits and its signal is watched (R294, R297); a far slot serves it by polling
(R405). A WAITING slot reads its signal again once a write has met its condition. -/
def compareWait (w n : Nat) (l : Leaf) (s : State) : State :=
  let x := s.mySlot
  let va := fld w 64 64
  let k := l.keyOf va
  if !x.far && (l.mig || 2 ≤ l.tier) then (if x.state = 3 && l.mig then s else blockQueue n va s)
  else
    let s := if x.state != 3 || x.far || s.wasMet k then readSignal l n va s else s
    if waitHolds (fld w 32 3) (s.signalAt l va) (fld w 128 64) || s.wasMet k then
      consume (onMySlot (fun x => { x with state := 1, far := false }) (unwatch s.cur.die s.cur.slot s))
    else
      let s := unwatch s.cur.die s.cur.slot s
      let s := if x.far then s
        else { s with watches := ⟨s.cur.die, s.cur.slot, k, fld w 32 3, fld w 128 64, false⟩ :: s.watches }
      onMySlot (fun x => { x with state := 3 }) s

/-- WAIT at the head of an ACTIVE slot (R296, R297). -/
def execWait (s : State) : Host.Outcome State Fault Refusal :=
  .next <| headPacket 2 (fun w => withCtx w fun n x s =>
    match s.schedPage s.cur.die n x (fld w 64 64) .read with
    | none => packetError s.cur.die s.cur.slot 4 n s
    | some l => compareWait w n l s) s

/-- A WAITING slot compares again; a comparison whose access fails its checks, over a failed path or in its leaf, is an error of
the packet (R403, R417). -/
def recheckWait (far : Bool) (s : State) : State :=
  let x := s.mySlot
  if x.state != 3 || x.far != far then s
  else
    let w := s.packet x
    let n := fld w 16 16
    match (mget n s.contexts).bind fun c => s.schedPage s.cur.die n c (fld w 64 64) .read with
    | none =>
      if far || s.watches.any fun e => e.die == s.cur.die && e.slot == s.cur.slot && e.met then
        packetError s.cur.die s.cur.slot 4 n s
      else s
    | some l => compareWait w n l s

/-- WAIT_SATISFIED: the signal of a WAITING slot has been written, or its page has moved (R297, R405). -/
def execWaitSatisfied (s : State) : Host.Outcome State Fault Refusal := .next (recheckWait false s)

/-- SIGFAR_POLL: a slot whose signal's page is far compares, once per µs (R405). -/
def execSigfarPoll (s : State) : Host.Outcome State Fault Refusal :=
  .next (if s.cycle % Config.cyclesPerUs = 0 then recheckWait true s else s)

/-- A slot in ORDWAIT whose teams are all complete is ACTIVE again (R294). -/
def endOrdwait (s : State) : State :=
  { s with dies := s.dies.map fun d =>
      { d with slots := d.slots.map fun x => if x.state == 2 && x.outt == 0 then { x with state := 1 } else x } }

/-! ## LAUNCH (R298, R403) -/

/-- The reserved bits of a LAUNCH packet and of its record (R26, R295, R403 SUB 2). -/
def launchSpare (w : Nat) : Bool :=
  let r := fld w 1024 1024
  fld w 9 23 != 0 || decide (10 < fld w 32 4) || fld w 36 28 != 0 || fld w 96 32 != 0 || fld w 128 3 != 0
    || fld w 192 832 != 0 || fld r 16 29 != 0 || bitAt r 49
    || (leastBit [lowBit r 58 6, lowBit r 120 8, lowBit r 184 8, lowBit r 446 2, lowBit r 504 8, lowBit r 560 16]).isSome

/-- One round of pre-splitting (R298 step 3). -/
def splitRound (rs : List TaskRec) : List TaskRec :=
  rs.flatMap fun r =>
    if 16 ≤ r.depth then [r]
    else match splitAxis r [0, 1, 2] [] with
      | none => [r]
      | some a => [(splitRecord r a).1, (splitRecord r a).2]

def splitRounds : Nat → List TaskRec → List TaskRec
  | 0, rs => rs
  | n + 1, rs => splitRounds n (splitRound rs)

/-- The scope of a gang from the DMRs of its tasks: the widest enabled level (R46). -/
def scopeOf (dmr : Nat) : Scope :=
  if bitAt dmr 3 || bitAt dmr 2 then .pkg else if bitAt dmr 1 then .die else if bitAt dmr 0 then .cl else .pkg

/-- The cores of a scope (R403 SUB 5). -/
def scopeCores : Scope → Nat
  | .cl => 8
  | .die => 72
  | .core | .pkg | .pod | .sys => 288

/-- The DMR of a record's register image (R46, R149). -/
def State.dmrOf (s : State) (d : DieId) (r : TaskRec) : Nat :=
  match s.readImage d r.ctx r.img with
  | .error _ => 0
  | .ok g => match s.registerImage d r g with
    | .error _ => 0
    | .ok b => leNat ((b.drop 1608).take 8)

/-- A team is made with its initial tasks (R298). -/
def makeTeam (w : Nat) (rs : List TaskRec) (sc : Scope) (s : State) : State :=
  let n := s.nextTeam
  let r := rs.head?
  let ctx := (r.map (·.ctx)).getD 0
  let m : Team := ⟨ctx, rs.length, rs.length, fld w 128 64, some s.mySlot.queue, (r.map (·.gang)).getD false, sc, false,
    fld w 64 32, s.cycle, 0, false, none⟩
  let s := { s with teams := mput n m s.teams, nextTeam := n + 1 }
  let s := s.onCtx ctx fun x => { x with lteam := x.lteam + 1 }
  let s := rs.foldl (fun s r => makeTask { r with team := n } s.timeUs (fld w 128 64) s) s
  refresh ctx 0 (onMySlot (fun x => { x with outt := x.outt + 1 }) s)

/-- LAUNCH (R298, R403). -/
def execLaunch (s : State) : Host.Outcome State Fault Refusal :=
  .next <| headPacket 1 (fun w s =>
    let d := s.cur.die
    let rec0 := fld w 1024 1024
    let n := fld rec0 0 16
    let err (sub ctx : Nat) : State := packetError d s.cur.slot sub ctx s
    if launchSpare w then err 2 0
    else match s.packetCtx s.mySlot n with
      | none => err 3 n
      | some x =>
        let v := match s.readImage d n (fld rec0 64 56) with
          | .error _ => rec0
          | .ok g => fillRecord g rec0
        if (recordBit rec0 v).isSome then err 2 n
        else if fld w 128 64 != 0 && (s.schedPage d n x (fld w 128 64) .atomic).isNone then err 4 n
        else
          let r := recordOf v n 0 (Nat.max (fld v 45 3) (s.queueClass s.mySlot.queue)) (bitAt v 48)
          let rs := splitRounds (fld w 32 4) [r]
          let sc := scopeOf (s.dmrOf d r)
          if r.gang && decide (scopeCores sc < rs.length) then err 5 n
          else consume (makeTeam w rs sc s)) s

end Sys2Proof.Machine
end

