-- ==== Sys2Proof/Machine/Helm.lean ====
section
/-! DEFINITION. What goes wrong outside the tasks, and the outside itself: the Helm's cores (R410 to R414), links and ports
(R416 to R419), the PCIe function and BAR4 (R348, R420), requests of other packages (R351). -/

namespace Sys2Proof.Machine

/-! ## The Helm -/

/-- A Helm core of a die changed. -/
def onHelm (d : DieId) (i : Fin 3) (f : HelmCore → HelmCore) (s : State) : State :=
  s.onDie d fun x => { x with helm := x.helm.set i.val (f (x.helm.get i)) i.isLt }

/-- A scheduler entry about the package whose arguments the spec leaves open, but for ARG0 where it is given
(log 18). -/
def openEntry (d : DieId) (kind sub : Nat) (arg0 : Option Nat) (s : State) : State :=
  (schedEntry d kind sub 0 0 0 (arg0.getD (Config.value s.free)) (Config.value (s.free + 1)) s).tick.tick

/-- A die has a Helm core that is active. -/
def State.helmLives (s : State) (d : DieId) : Bool := s.boot == 3 && (s.die d).helm.toList.any (·.status == 0)

/-- No Helm core of a die remains, and no takeover is pending: HELMDOWN from a die that still can, and AER (R414). -/
def helmDown (d : DieId) (s : State) : State :=
  let s := s.onDie d fun x => { x with takeover := [] }
  let s := match (List.finRange 4).find? s.helmLives with
    | none => s
    | some e => openEntry e 8 0 none s
  { s with aer := 0 :: s.aer }

/-- The core that takes over: the relief core, or the other active core (R411, R414). -/
def Die.taker (x : Die) (failed : Fin 3) : Option (Fin 3) :=
  match (List.finRange 3).find? fun i => i != failed && (x.helm.get i).status == 1 with
  | some i => some i
  | none => (List.finRange 3).find? fun i => i != failed && (x.helm.get i).status == 0

/-- An active core fails: WATCHDOG with its last heartbeat, and the takeover begins; it ends within 50,000 cycles (R410, R411
step 1). `bad` is one more than a journal entry that cannot be read, `lost` that the relief core's copy cannot be read either
(R412). -/
def helmFails (d : DieId) (i : Fin 3) (bad : Nat) (lost : Bool) (s : State) : State :=
  let x := s.die d
  let role := if x.duties.get 0 == some i then 0 else 1
  let s := onHelm d i (fun h => { h with status := 2, since := s.cycle }) s
  match (s.die d).taker i with
  | none => helmDown d s
  | some _ =>
    let s := schedEntry d 5 0 0 0 0 role (x.helm.get i).beat s
    let s := if bad = 0 then s else (schedEntry d 7 0 0 0 0 (bad - 1) (Config.value s.free) s).tick
    if bad != 0 && lost then
      helmDown d (s.onDie d fun x => { x with helm := x.helm.map fun h => { h with status := 4, since := s.cycle } })
    else (s.onDie d fun x => { x with
      takeover := x.takeover ++ [(i, s.cycle + 1 + Nat.min 49999 (Config.latency s.free))] }).tick

/-- The slot that holds a queue is UNMAPPING, or stands in the journal as to be unmapped. -/
def State.halfUnmapped (s : State) (q : Nat) : Bool :=
  match s.slotOf q with
  | some (d, i) =>
    let x := (s.die d).slots.get i
    x.state == 4 || x.leaves.isSome
  | none => false

/-- A journal entry whose decision is not whole yet: every decision of this model but the unmap of a slot takes effect in the
step that writes its entry (log 1). -/
def State.isPart (s : State) (e : Journal) : Bool := e.kind == 2 && s.halfUnmapped e.obj

/-- The JSEQ up to which a Helm core that has applied the entries before `n` has applied the journal (R299, R411). -/
def State.appliedTo (s : State) (d : DieId) (n : Nat) : Nat :=
  let x := s.die d
  match (x.journal.takeWhile fun e => decide (n ≤ e.jseq)).reverse.find? s.isPart with
  | some e => e.jseq
  | none => x.jseq

/-- KIND 1 to 3 of the replay (R412). With SEQ odd an update is redone from the slot's registers; with SEQ equal to the entry's
it is made; one whose SEQ is two more is done. -/
def replayUpdate (d : DieId) (e : Journal) (s : State) : State :=
  let q := e.obj
  let seq := s.qcb q 0 4
  let i : Fin 256 := Fin.ofNat 256 (e.arg % 2 ^ 64)
  if seq % 2 = 1 then
    match s.slotOf q with
    | some (d, i) => closeUnmap d i s
    | none => { s with mem := wrNat (wrNat s.mem (s.qcbKey q + 24) 2 (e.arg % 2 ^ 16)) (s.qcbKey q) 4 ((seq + 1) % 2 ^ 32) }
  else if seq != e.arg / 2 ^ 64 then s
  else
    match e.kind, s.slotOf q with
    | 1, none => if ((s.die d).slots.get i).state = 0 then mapQueue d q i s else s
    | 2, some (d, i) => closeUnmap d i (openUnmap i q (setUnmapping d i false s))
    | 3, some (d, i) =>
      let x := (s.die d).slots.get i
      if x.state = 4 then closeUnmap d i (openUnmap i q s)
      else qcbUpdate q (fun m a => wrNat (wrNat (wrNat m (a + 16) 4 x.widx) (a + 20) 4 x.ridx) (a + 24) 2 x.outt) s
    | 3, none => qcbUpdate q (fun m a => wrNat m (a + 24) 2 (e.arg % 2 ^ 16)) s
    | _, _ => s

/-- An entry is replayed (R412). A class change stands as the step that wrote its entry has left it, so that writing it again
changes nothing; a placement is left to the dispatcher. -/
def replayEntry (d : DieId) (e : Journal) (s : State) : State :=
  match e.kind with
  | 1 | 2 | 3 => replayUpdate d e s
  | 6 => if (s.runningOf e.obj).isEmpty then s else startPreempt d e.obj (e.arg % 2 ^ 56) (e.arg / 2 ^ 64) s
  | 7 => s.onCtx e.obj fun x => if x.state = 3 || x.state = 4 then { x with waket := e.arg } else x
  | _ => s

/-- A core replays the journal from an entry on, in JSEQ order (R411 step 2). -/
def replayFrom (d : DieId) (n : Nat) (s : State) : State :=
  ((s.die d).journal.takeWhile fun e => decide (n ≤ e.jseq)).reverse.foldl (fun s e => replayEntry d e s) s

/-- A takeover ends: the taker replays what it has not applied and does the failed core's work, parks of the window are predicted
from their own times, and the failed core is reset and tests itself (R411 steps 2 to 4, R412 to R414). -/
def takeOver (d : DieId) (i : Fin 3) (s : State) : State :=
  let x := s.die d
  let since := (x.helm.get i).since
  let s := s.onDie d fun x => { x with takeover := x.takeover.filter (·.1 != i) }
  match x.taker i with
  | none => helmDown d s
  | some t =>
    let last := x.jseq - 1
    let s := replayFrom d (x.helm.get t).copied s
    let second := x.duties.get 1 == some i
    let s := s.onDie d fun x => { x with duties := x.duties.map fun o => if o == some i then some t else o }
    let s := onHelm d i (fun h => { h with status := 3, since := s.cycle })
      (onHelm d t (fun h => { h with status := 0, beat := s.cycle, copied := (s.die d).jseq }) s)
    let s := if !second then s
      else s.contexts.foldl (fun s e =>
        if e.2.home = d && (e.2.state = 3 || e.2.state = 4) && e.2.waket = 0 then predictPark e.1 s else s) s
    schedEntry d 6 0 0 0 0 last (s.cycle - since) s

/-- The cycles between heartbeats, as the model's cores write them, and those without one after which a core fails (R410;
DESIGN CHOICE, log 97). -/
def beatCycles : Nat := 4096
def silentCycles : Nat := 16384

/-- A cycle of a die's Helm: its active cores write their heartbeats, and every core that serves applies the journal (R299,
R410). -/
def helmCycle (d : DieId) (s : State) : State :=
  if s.boot != 3 then s
  else
    let at' := s.appliedTo d
    s.onDie d fun x => { x with helm := x.helm.map fun h =>
      { h with beat := if h.status = 0 && s.cycle % beatCycles = 0 then s.cycle else h.beat
               copied := if h.status = 0 || h.status = 1 then at' h.copied else h.copied } }

/-- HELM_CORE_FAILURE of core `a` of die `die`: its takeover ends; or, with `word` = 1, it runs no more, and fails when 16,384 cycles
have passed since its last heartbeat; or it fails now, of an error or an exception, with `num` and `flag` naming a journal entry that
cannot be read (R410 to R414). -/
def execHelmCoreFailure (s : State) : Host.Outcome State Fault Refusal :=
  let d := s.cur.die
  let i : Fin 3 := Fin.ofNat 3 s.cur.a
  let h := (s.die d).helm.get i
  .next <|
    if (s.die d).takeover.any fun e => e.1 == i && decide (e.2 ≤ s.cycle) then takeOver d i s
    else if s.boot != 3 || (h.status != 0 && h.status != 5) then s
    else if s.cur.word = 1 then onHelm d i (fun h => { h with status := 5 }) s
    else helmFails d i s.cur.num s.cur.flag s

/-- Cycles of a second (R13). -/
def cyclesPerSecond : Nat := 1000000 * Config.cyclesPerUs

/-- HELM_SELF_TEST_DONE: core `a` of die `die` passes its self-test, loads the state from the journal and is the relief core
(R414). -/
def execHelmSelfTestDone (s : State) : Host.Outcome State Fault Refusal :=
  let i : Fin 3 := Fin.ofNat 3 s.cur.a
  let h := (s.die s.cur.die).helm.get i
  .next (if h.status = 3 && s.cycle - h.since ≤ cyclesPerSecond then onHelm s.cur.die i (fun h => { h with status := 1, copied := (s.die s.cur.die).jseq }) s
    else s)

/-- HELM_SELF_TEST_TIMEOUT: a second has passed; core `a` is of no use (R414). -/
def execHelmSelfTestTimeout (s : State) : Host.Outcome State Fault Refusal :=
  let i : Fin 3 := Fin.ofNat 3 s.cur.a
  let h := (s.die s.cur.die).helm.get i
  .next (if h.status = 3 && cyclesPerSecond ≤ s.cycle - h.since then onHelm s.cur.die i (fun h => { h with status := 4 }) s
    else s)

/-! ## Links -/

/-- UCIE_LINK_DOWN: link `a` of the ring is down until package reset (R417). -/
def execUcieLinkDown (s : State) : Host.Outcome State Fault Refusal :=
  let l : Fin 4 := Fin.ofNat 4 s.cur.a
  .next (if s.uciDown.contains l then s else openEntry l 9 0 (some l.val) { s with uciDown := l :: s.uciDown })

/-- UALINK_PORT_DOWN: port `a` goes down (R418). -/
def execUalinkPortDown (s : State) : Host.Outcome State Fault Refusal :=
  let p : Fin 12 := Fin.ofNat 12 s.cur.a
  .next (if s.uaDown.contains p then s
    else openEntry (Fin.ofNat 4 (p.val / 3)) 9 1 none { s with uaDown := p :: s.uaDown })

/-- LINK in the task that issued a UALink request (R416, R418). -/
def linkFault (perf : Bool) (s : State) : State :=
  let r := s.cur.link
  let i0 := reqInfo r.buf r.off
  let i1 := 1 + b2n (perf && r.writes) * 4 + r.port.val * 256 + r.pkg.val * 2 ^ 32
  let e := engineOf r.seq
  let k := s.core r.core
  match (if r.seq == .ctl then none else (k.engine e).cmds.find? fun m => m.started && some m.task == k.task) with
  | some m => raiseFor r.core m.task ⟨0x40, m.seq, (engIdx e).val, m.pos, m.num, i0, i1, false⟩ s
  | none => raiseOn r.core ⟨0x40, r.seq, 15, (k.seq r.seq).pos, 0, i0, i1, false⟩ s

/-- A UALink request fails: one of the move of the page whose head entry lies at `a`, with `b` = 1, abandons it if it has an end in
T3, and one of a task raises LINK (R418). -/
def linkLost (perf : Bool) (s : State) : State :=
  if s.cur.b = 1 then
    match mget s.cur.a s.moves with
    | some m => if keyTier m.src = 3 || keyTier m.dst = 3 then afterMove m (abandonMove s.cur.a m s) else s
    | none => s
  else linkFault perf s

/-- UALINK_REQUEST_TIMEOUT: request `link` has no completion after 50 µs (R418). -/
def execUalinkRequestTimeout (s : State) : Host.Outcome State Fault Refusal := .next (linkLost true s)
/-- UALINK_ERROR_COMPLETION: request `link` is answered with an error (R418). -/
def execUalinkErrorCompletion (s : State) : Host.Outcome State Fault Refusal := .next (linkLost false s)

/-! ## Pages as the outside meets them -/

/-- The tables of a Chart below a table, itself among them. -/
def State.tablesFrom (s : State) : Nat → Nat → List Nat
  | 0, _ => []
  | lvl + 1, table =>
    let es := s.mem.filter fun c => decide (t1 table ≤ c.1) && decide (c.1 < t1 (table + 32768))
    table :: ((es.map fun c => (c.1 - t1 table) / 16).eraseDups.flatMap fun i =>
      let w := rdNat s.mem (t1 (table + 16 * i)) 16
      if bitAt w 0 && !bitAt w 1 then s.tablesFrom lvl (fld w 32 40 * 4096) else [])

/-- The pages that the leaves of a table map: each as key, size and tag. -/
def State.tablePages (s : State) (table : Nat) : List (Nat × Nat × Nat) :=
  let es := s.mem.filter fun c => decide (t1 table ≤ c.1) && decide (c.1 < t1 (table + 32768))
  ((es.map fun c => (c.1 - t1 table) / 16).eraseDups).filterMap fun i =>
    let w := rdNat s.mem (t1 (table + 16 * i)) 16
    if bitAt w 0 && bitAt w 1 then
      some (tierKey (fld w 5 2) (4096 * fld w 32 40), 4096 * 4 ^ fld w 2 3, fld w 16 7 + 128 * b2n (bitAt w 7))
    else none

/-- The pages that the Charts of all contexts map. -/
def State.allPages (s : State) : List (Nat × Nat × Nat) :=
  (s.contexts.flatMap fun e => s.tablesFrom 4 e.2.chroot).eraseDups.flatMap s.tablePages

/-- The tags of the leaves that map a byte. -/
def tagsAt (ps : List (Nat × Nat × Nat)) (k : Nat) : List Nat :=
  (ps.filter fun p => decide (p.1 ≤ k) && decide (k < p.1 + p.2.1)).map (·.2.2)

/-- The tag under which the outside reaches a byte: that of a leaf that maps it; memory outside every leaf lies in the secure world
under key 0 (R91, R354). -/
def outTag (ps : List (Nat × Nat × Nat)) (k : Nat) : Nat := ((tagsAt ps k).head?).getD 128

/-- The bytes from a key lie in pages of the non-secure world alone: memory outside every leaf is secure (R346, R354). -/
def State.openTo (s : State) (k n : Nat) : Bool :=
  let ps := s.allPages
  (linesOf (keysFrom k n)).all fun l => !(tagsAt ps (64 * l)).isEmpty && (tagsAt ps (64 * l)).all (· < 128)

/-- Bytes written at the home level by an outside agent, under the tags of their pages, with the poison they carry (R91, R389,
R420). -/
def outsideWrite (k : Nat) (bs : List Byte) (poison : Bool) (s : State) : State :=
  let ps := s.allPages
  let cs := (cellsFrom k bs).map fun x => (tagged (outTag ps x.1) x.1, x.2)
  writeHome 0 ⟨cs, if poison then linesOf (cs.map (·.1)) else []⟩ s

/-- Bytes read at the home level, under the tags of their pages, into the reply (R91, R348, R388, R390, R400). -/
def outsideRead (k n : Nat) (s : State) : State :=
  let ps := s.allPages
  let key (k : Nat) : Nat := tagged (outTag ps k) k
  let ls := (linesOf (keysFrom k n)).map fun l => key (64 * l) / 64
  let s := ls.foldl (fun s l => if isAperture (64 * l) then s else reachHome ((frameDie (64 * bareLine l)).getD 0) 0 0 l s) s
  { s with hostReply := (keysFrom k n).map fun k => if isAperture k then s.bellByte k else s.homeByte (key k)
           hostPoison := ls.any s.isPoisoned }

/-- Some of `n` bytes from a key lie in a Chart or a save area, which an agent of the outside does not reach (R92; DEDUCED,
log 84). -/
def State.secured (s : State) (k n : Nat) : Bool :=
  let meets (a len : Nat) : Bool := decide (a < k + n) && decide (k < a + len)
  s.contexts.any fun e => meets e.2.saveBase (4096 * e.2.savel)
    || (s.tablesFrom 4 e.2.chroot).any fun t => meets (t1 t) 32768

/-- An outside read that is refused: the bytes of its reply are free values (log 84). -/
def refusedRead (n : Nat) (s : State) : State :=
  { s with hostReply := (List.range n).map fun i => BitVec.ofNat 8 (Config.value (s.free + i))
           hostPoison := false, free := s.free + n }

/-- UALINK_REMOTE_REQUEST: another package's request `remote` is performed here, its owner (R104, R351). -/
def execUalinkRemoteRequest (s : State) : Host.Outcome State Fault Refusal :=
  .next <| match s.cur.remote with
    | .read a n =>
      let k := t1 (a % 2 ^ 42)
      if s.secured k n then refusedRead n s else outsideRead k n s
    | .write a bs =>
      let k := t1 (a % 2 ^ 42)
      if s.secured k bs.length then s else outsideWrite k bs s.cur.flag s
    | .atomic a fn wide v v2 =>
      let n := if wide then 8 else 4
      let k := t1 (a % 2 ^ 42)
      if s.secured k n then refusedRead n s
      else
        -- an atomic that would combine with a poisoned line has no effect but its answer (R372, R390)
        let s := outsideRead k n s
        if s.hostPoison then s
        else outsideWrite k (leBytes n (atomFn fn.val (8 * n) (leNat s.hostReply) v.toNat v2.toNat)) false s

/-- CXL_PORT_DOWN: port `a` goes down or signals viral; the entry is that of the port's die (R11, R419). -/
def execCxlPortDown (s : State) : Host.Outcome State Fault Refusal :=
  let p : Fin 2 := Fin.ofNat 2 s.cur.a
  .next (if s.cxlDown.contains p then s
    else openEntry (cxlDie p) 9 2 none { s with cxlDown := p :: s.cxlDown })

/-! ## The host -/

/-- PCIE_LINK_DOWN and PCIE_LINK_UP: tasks run on; what the host sends meanwhile does not arrive (R420). -/
def execPcieLinkDown (s : State) : Host.Outcome State Fault Refusal := .next { s with pcieDown := true }
def execPcieLinkUp (s : State) : Host.Outcome State Fault Refusal := .next { s with pcieDown := false }

/-- VF_FLR: the Helm clears EN of VFMAP `a` (R420). -/
def execVfFlr (s : State) : Host.Outcome State Fault Refusal :=
  let i : Fin 64 := Fin.ofNat 64 s.cur.a
  .next { s with vfmap := s.vfmap.set i.val (s.vfmap.get i &&& ~~~(BitVec.ofNat 64 (2 ^ 31))) i.isLt }

/-- PF_FLR: the PCIe function alone is reset; its pending read reply is gone (R420). -/
def execPfFlr (s : State) : Host.Outcome State Fault Refusal := .next { s with hostReply := [], hostPoison := false }

/-- Bytes from `b` on that do not all lie in BAR4, as large as the host has made it (R343). -/
def State.beyondBar (s : State) (b n : Nat) : Bool := decide (2 ^ (30 + s.bar4) < b + n)

/-- The key of byte `b` of BAR4 (R345, R348). -/
def State.barFour (s : State) (b : Nat) : Nat := t1 (fld s.hwbase.toNat 30 22 * 2 ^ 30 + b)

/-- The boot ROM's image window: the first 8 MiB of BAR4 while it waits for an image (R355). -/
def State.inImage (s : State) (b : Nat) : Bool := s.boot == 1 && decide (b < 2 ^ 23)

/-- A host request to `n` bytes from a key through BAR4 is performed: its pages are all non-secure, none of it is a Chart or a save
area, and the ring leads from North, which has the host's link, to the die that holds it (R11, R92, R346, R354, R417). -/
def State.hostReaches (s : State) (k n : Nat) : Bool :=
  s.openTo k n && !s.secured k n && (linesOf (keysFrom k n)).all fun l => (s.linkFail 0 (64 * l)).isNone

/-- HOST_BAR4_WRITE: the bytes `bytes` at byte `a`, poisoned if `flag`, at system scope; beyond BAR4 no request
reaches the function (R343), a malformed one (`num` = 1) is dropped, and it and a poisoned one are reported (R420); the aperture takes
them as a doorbell write (R290, R348), and the boot ROM's window as an image (R355). -/
def execHostBar4Write (s : State) : Host.Outcome State Fault Refusal :=
  let k := s.barFour s.cur.a
  .next <|
    if s.pcieDown || s.beyondBar s.cur.a s.cur.bytes.length then s
    else if s.cur.num = 1 then { s with aer := 3 :: s.aer }
    else
      let s := if s.cur.flag then { s with aer := 2 :: s.aer } else s
      if s.inImage s.cur.a then
        { s with image := wrCells s.image ((cellsFrom s.cur.a s.cur.bytes).filter fun x => decide (x.1 < 2 ^ 23)) }
      else if isAperture k then ringBell .pf 0 (fld k 0 36) s.cur.bytes.length (leNat s.cur.bytes) s
      else if s.hostReaches k s.cur.bytes.length then outsideWrite k s.cur.bytes s.cur.flag s
      else s

end Sys2Proof.Machine
end

