-- ==== Sys2Proof/Machine/Device.lean ====
section
/-! DEFINITION. Heat and power (R358 to R360, R421), scrubbing (R392), package reset and boot (R355, R356), keys (R357,
R396), the register window (R344 to R347). -/

namespace Sys2Proof.Machine

/-! ## Heat and power -/

/-- The core rails' nominal voltage in mV (R19). -/
def nominalVcore : Nat := 650

/-- TELEMETRY_SAMPLE: once per µs the readings of R360 are sampled, as free values, that of VCORE as what it is above its nominal value,
modulo 2^12 (log 58); D stays the device's own. The successive samples that a trip asks for are counted (R421). -/
def execTelemetrySample (s : State) : Host.Outcome State Fault Refusal :=
  let w := Config.reading s.free
  let volts := (nominalVcore + fld w 32 12) % 2 ^ 12
  let low := decide (volts < 600)
  let surge := decide (6000 < fld w 16 16) && s.gating == 0
  .next (if s.cycle % Config.cyclesPerUs != 0 then s
    else { s with pwr := BitVec.ofNat 16 (fld w 0 16), icore := BitVec.ofNat 16 (fld w 16 16)
                  vcore := BitVec.ofNat 12 volts, tmax := BitVec.ofNat 8 (fld w 48 8)
                  energy := BitVec.ofNat 64 (fld w 64 64)
                  lowFor := if low then s.lowFor + 1 else 0, overFor := if surge then s.overFor + 1 else 0 }.tick)

/-- HEAT_GATING: from TMAX ≥ 105 °C the device gates, until TMAX < 100 °C (R421). -/
def execHeatGating (s : State) : Host.Outcome State Fault Refusal :=
  .next (if 105 ≤ s.tmax.toNat then { s with hot := true } else if s.tmax.toNat < 100 then { s with hot := false } else s)

/-- Power or heat is over its limit (R359, R421): `avg` is the average over WIN in units of 0.125 W. -/
def State.overLimit (s : State) (avg : Nat) : Bool :=
  s.hot || decide (8 * fld s.plimNow.toNat 0 12 < avg) || decide (8 * fld s.plimNow.toNat 32 12 < s.pwr.toNat)

/-- POWER_GATING_STEP: each 10 µs D falls by 1 over a limit and rises by 1 within it where a free value says that the load has eased,
the average over WIN a free value too (log 58); each µs it falls by 1 while the core rail's current exceeds 6,000 A (R359, R421). -/
def execPowerGatingStep (s : State) : Host.Outcome State Fault Refusal :=
  let lowered : State := { s with gating := s.gating - 1 }
  .next <|
    if s.cycle % Config.cyclesPerUs != 0 then s
    else if 6000 < s.icore.toNat then lowered
    else if s.cycle % (10 * Config.cyclesPerUs) != 0 then s
    else if s.overLimit (Config.average s.free) then lowered.tick
    else if Config.eases s.free then { s with gating := Nat.min 15 (s.gating + 1) }.tick
    else s.tick

/-- The condition of a trip by its cause (R421): 0 heat; 1 low voltage and 2 current with D = 0, in two successive samples, 1 µs
apart. -/
def State.trips (s : State) (cause : Nat) : Bool :=
  match cause with
  | 0 => decide (120 ≤ s.tmax.toNat)
  | 1 => decide (2 ≤ s.lowFor)
  | 2 => decide (2 ≤ s.overFor)
  | _ => false

/-- A turn that is taken although a trip has come before it in its cycle: the outside acts on, and no core does (R421). -/
def Turn.outlives (t : Turn) : Bool :=
  t.kind == .act && match t.instr with
  | .packageReset | .hostBar4Read | .hostBar4Write | .registerWrite | .pcieLinkDown | .pcieLinkUp | .ucieLinkDown
  | .ualinkPortDown | .cxlPortDown | .vfFlr | .pfFlr => true
  | _ => false

/-- TRIP of cause `a`: every sequencer stops, each die writes an entry, AER, and the rails go off (R421). -/
def execTrip (s : State) : Host.Outcome State Fault Refusal :=
  .next <|
    if s.railsOff || !s.trips s.cur.a then s
    else
      let s := (List.finRange 4).foldl (fun s d => openEntry d (if s.cur.a = 0 then 10 else 11) 0 none s) s
      { s with railsOff := true, aer := 1 :: s.aer, agenda := s.agenda.filter Turn.outlives }

/-- PLIM_TAKES_EFFECT: at a whole millisecond of the time base (R358). -/
def execPlimTakesEffect (s : State) : Host.Outcome State Fault Refusal := .next { s with plimNow := s.plim }

/-- SCRUB_PASS: the controllers of die `die` correct and count what they can, and fail the lines that they cannot (R388,
R391, R392); CE for a line corrected in two passes running. A scrubber sees the errors of ECC alone. -/
def execScrubPass (s : State) : Host.Outcome State Fault Refusal :=
  let d := s.cur.die
  let mine (l : Nat) : Bool := frameDie (64 * l) == some d
  let bad := s.failing.filter fun e => mine e.1 && decide (e.2 ≤ 1)
  let fixed := (bad.filter (·.2 == 0)).map (·.1)
  let s' := bad.foldl (fun s e =>
    let again := e.2 == 0 && s.scrubbed.contains e.1
    let s := meetLine d e.1 s
    let tier := keyTier (64 * e.1)
    if again then memEntry d 1 tier (if tier = 0 then 2 else 0) 0 0 false 1 (64 * e.1 % 2 ^ 52) 0 0 s else s) s
  .next { s' with scrubbed := fixed ++ s.scrubbed.filter fun l => !mine l }

/-! ## Reset and boot -/

/-- What HBM holds once the memory-side caches have lost the lines that lay dirty in them (R88, R355). -/
def State.bareHome (s : State) : State :=
  s.behind.foldl (fun s b =>
    { s with mem := wrBytes s.mem (64 * b.1) b.2.bytes
             poisoned := if b.2.bad then b.1 :: s.poisoned.filter (· != b.1) else s.poisoned.filter (· != b.1) }) s

/-- PACKAGE_RESET: the state of reset, with what is no state of the package: HBM and pool, their poison and check values,
fuses, the outside. The boot ROM clears the SRAMs, T0 among them, and opens the image window (R74, R355). -/
def execPackageReset (s : State) : Host.Outcome State Fault Refusal :=
  let kept (k : Nat) : Bool := keyTier k != 0
  let h := s.bareHome
  .next { State.reset with
    mem := h.mem.filter fun c => kept c.1
    poisoned := h.poisoned.filter fun l => kept (64 * l)
    failing := s.failing.filter fun e => kept (64 * e.1)
    checks := s.checks.filter fun e => kept (64 * e.1)
    lineKeys := s.lineKeys.filter fun e => kept (64 * e.1)
    objects := s.objects, freeFrames := s.freeFrames
    dies := Vector.ofFn fun d => { Die.reset with t0sl := (s.dies.get d).t0sl, t0inUse := (s.dies.get d).t0sl }
    rbcnt := s.rbcnt, boot := 1, free := s.free, inputs := s.inputs }

/-- The boot ROM opens the image window after reset and after a refused image (R355 steps 2 and 6). -/
def bootRom (s : State) : State := if s.boot = 0 || s.boot = 2 then { s with boot := 1 } else s

/-- The Helm firmware starts: it places the error rings of a die, whose headers it clears (R398, R401; log 16), and its cores run. -/
def startFirmware (d : DieId) (s : State) : State :=
  let m := Config.ringBase d.val 0
  let n := Config.ringBase d.val 1
  let s := { s with mem := wrNat (wrNat s.mem (t1 m) 64 0) (t1 n) 64 0 }
  s.onDie d fun x => { x with mring := m, sring := n, helm := x.helm.map fun h => { h with beat := s.cycle } }

/-- BOOTST_GO: the checks of the image in the window; the firmware starts if all pass (R355, R356, log 13). -/
def execBootstGo (s : State) : Host.Outcome State Fault Refusal :=
  .next <|
    if s.boot != 1 then s
    else
      let v := Config.imageVerdict s.image
      let ok := s.rbcnt.ule v.2.2
      let s := { s with ecok := v.1, lmok := v.2.1, rbok := ok }
      if v.1 && v.2.1 && ok then (List.finRange 4).foldl (fun s d => startFirmware d s) { s with boot := 3, rbcnt := v.2.2 }
      else { s with boot := 2 }

/-! ## Keys -/

/-- A key command is written: KID takes `a`; OP starts a command, BUSY, unless one is in progress or the key ID is 0 (R357). -/
def startKey (op : Nat) (s : State) : State :=
  let s := { s with keyKid := fld s.cur.a 0 7 }
  if s.keyBusy || s.cur.a = 0 || 128 ≤ s.cur.a then s
  else { s with keyOp := op, keyFor := s.cur.a, keyBusy := true, keyStart := s.cycle
                keyData := if op = 1 then s.cur.word % 2 ^ 512 else s.keyData }

/-- KEY_LOAD of `word` as key ID `a` (R357). -/
def execKeyLoad (s : State) : Host.Outcome State Fault Refusal := .next (startKey 1 s)
/-- KEY_DESTROY of key ID `a` (R357). -/
def execKeyDestroy (s : State) : Host.Outcome State Fault Refusal := .next (startKey 2 s)

/-- A page with a key ID is between step 1 and step 4 of a move (R396). -/
def State.keyMoving (s : State) (kid : Nat) : Bool :=
  s.moves.any fun m => fld (rdNat s.mem (t1 m.1) 16) 16 7 == kid

/-- The T0 pages under a key ID that the Charts of all contexts map, as key and size. -/
def State.keyPages (s : State) (kid : Nat) : List (Nat × Nat) :=
  ((s.allPages.filter fun p => keyTier p.1 == 0 && p.2.2 % 128 == kid).map fun p => (p.1, p.2.1)).eraseDups

/-- The memory-side caches lose the T1 lines of a key that lie dirty in them: HBM keeps what it held (R88, R396). -/
def dropBehind (kid : Nat) (s : State) : State :=
  let mine (b : Nat × Behind) : Bool := b.2.tag % 128 == kid
  let h := { s with behind := s.behind.filter mine }.bareHome
  { s with mem := h.mem, poisoned := h.poisoned, behind := s.behind.filter (!mine ·) }

/-- The cached and provisional lines of a key are dropped, its T0 lines cleared, and KEYDROP written (R91, R396). -/
def dropKey (kid : Nat) (s : State) : State :=
  let hit (l : Nat) : Bool := tagOf l % 128 == kid
  let gone (m : Copies) : Copies := m.dropLines hit
  let dirty := ((s.cores.toList.map (·.dirty) ++ s.clusters.toList.map (·.dirty) ++ s.dies.toList.map (·.dirty)).flatMap
    fun m => m.lines.filter hit) ++ (s.behind.filter fun b => b.2.tag % 128 == kid).map fun b => taggedLine b.2.tag b.1
  let prov := s.tasks.flatMap fun t => linesOf (t.2.epochs.flatMap fun e => (e.cells.filter fun c => hit (c.1 / 64)).map (·.1))
  let pages := s.keyPages kid
  let clear (l : Nat) : Bool := pages.any fun p => decide (p.1 ≤ 64 * l) && decide (64 * l < p.1 + p.2)
  let s := dropBehind kid s
  let s := { s with
    cores := s.cores.map fun k => { k with view := gone k.view, dirty := gone k.dirty, own := gone k.own }
    clusters := s.clusters.map fun u => { u with clean := gone u.clean, dirty := gone u.dirty }
    dies := s.dies.map fun d => { d with clean := gone d.clean, dirty := gone d.dirty }
    tasks := s.tasks.map fun t => (t.1, { t.2 with epochs := t.2.epochs.map fun e =>
      { e with cells := (gone ⟨e.cells, e.poison⟩).cells, poison := (gone ⟨e.cells, e.poison⟩).bad
               engine := e.engine.filter fun c => !hit (c.1 / 64) } })
    mem := s.mem.filter fun c => !clear (c.1 / 64)
    poisoned := s.poisoned.filter fun l => !clear l
    checks := s.checks.filter fun e => !clear e.1
    failing := s.failing.filter fun e => !clear e.1 }
  memEntry 0 7 0 8 0 kid false (dirty.eraseDups.length + prov.length) 0 0 ((pages.map (·.2)).sum / 64) s

/-- KEY_COMMAND_DONE: the command applies, unless a destroy waits for a move (R357, R396). -/
def execKeyCommandDone (s : State) : Host.Outcome State Fault Refusal :=
  .next <|
    if !s.keyBusy || (s.keyOp = 2 && s.keyMoving s.keyFor) then s
    else
      let key := if s.keyOp = 1 then some s.keyData else none
      let kid := s.keyFor
      let s := if s.keyOp = 2 then dropKey kid s else s
      { s with keys := s.keys.setIfInBounds kid key, keyBusy := false, keyLive := key.isSome }

/-! ## The register window -/

/-- PKGID_WRITE of `num`, by the Helm, once (R345). -/
def execPkgidWrite (s : State) : Host.Outcome State Fault Refusal :=
  .next (if s.pkgSet then s else { s with pkgid := BitVec.ofNat 10 s.cur.num, pkgSet := true })

/-- The offset is that of a secure register (R344). -/
def secureReg (o : Nat) : Bool := o < 0x200 || (0x1800 ≤ o && o < 0x2000) || (0x3000 ≤ o && o < 0x5000)

/-- Registers of the scheduler and residency blocks: IDLE, 1 to 65,535 (log 17), QCBBASE, PBBASE, MIGT, 1 to 63, and
T0SL. -/
def writeSched (d : DieId) (o v : Nat) (s : State) : State :=
  s.onDie d fun x =>
    if o = 0x000 then (if fld v 16 16 = 0 then x else { x with idle := fld v 16 16 })
    else if o = 0x008 then { x with qcbbase := v / 128 * 128 }
    else if o = 0x010 then { x with pbbase := v / 4096 * 4096 }
    else if o = 0x100 then { x with migt := if fld v 0 6 = 0 then x.migt else fld v 0 6, t0sl := if 8 < fld v 8 4 then x.t0sl else fld v 8 4 }
    else x

/-- A register of 64 bits from its low and its high half. -/
def joinDword (lo hi : Nat) : Dword := BitVec.ofNat 64 (lo + 2 ^ 32 * hi)

/-- Fields of the trace block without behaviour of their own (R317): TRLOG 12 to 26 (log 17). TAGS lies in bits 287:224 and
TAGP in bits 351:288: each is written at its own offset, or by halves in the two aligned words that it lies in (R345). -/
def writeTrace (o v : Nat) (t : Trace) : Trace :=
  if o = 0x1000 then { t with mode := bitAt v 1, seqm := BitVec.ofNat 4 (fld v 8 4), fctx := fld v 16 16, sper := fld v 32 32 }
  else if o = 0x1008 then { t with base := v / 4096 * 4096 }
  else if o = 0x1010 then { t with log := if 12 ≤ fld v 0 5 && fld v 0 5 ≤ 26 then fld v 0 5 else t.log, key := fld v 7 7 }
  else if o = 0x1018 then { t with tags := joinDword (fld v 32 32) (fld t.tags.toNat 32 32) }
  else if o = 0x101C then { t with tags := BitVec.ofNat 64 v }
  else if o = 0x1024 then { t with tagp := BitVec.ofNat 64 v }
  else if o = 0x1020 then { t with tags := joinDword (fld t.tags.toNat 0 32) (fld v 0 32)
                                   tagp := joinDword (fld v 32 32) (fld t.tagp.toNat 32 32) }
  else if o = 0x1028 then { t with tagp := joinDword (fld t.tagp.toNat 0 32) (fld v 0 32) }
  else t

/-- PLIM within its ranges (R358, log 17). -/
def plimOk (v : Nat) : Bool :=
  let p1 := fld v 0 12
  let p2 := fld v 32 12
  decide (500 ≤ p1) && decide (p1 ≤ 3000) && decide (1 ≤ fld v 16 10) && decide (fld v 16 10 ≤ 1000) && decide (p1 ≤ p2)
    && decide (p2 ≤ 3000)

/-- VFMAP within its range (R347, log 17). -/
def vfmapOk (v : Nat) : Bool := decide (fld v 0 11 + fld v 16 12 ≤ 2048)

/-- A write of 64 bits `v` at offset `o` of die `d`'s block, to fields whose behaviour no event has (R344, R345). -/
def writeReg (d : DieId) (o v : Nat) (s : State) : State :=
  if o < 0x18 || o = 0x100 then writeSched d o v s
  else if 0x1000 ≤ o && o < 0x1030 then onTrace d (writeTrace o v) s
  else if 0x1100 ≤ o && o < 0x1140 && o % 8 = 0 then
    s.onDie d fun x => { x with bps := x.bps.setIfInBounds ((o - 0x1100) / 8) (BitVec.ofNat 64 v &&& 0xFFFFFFFFFFFF001F) }
  else if o = 0x1800 then s.onDie d fun x => { x with dbgbm := v / 4096 * 4096 }
  else if d != 0 then s
  else if o = 0x2000 then (if plimOk v then { s with plim := BitVec.ofNat 64 v &&& 0x00000FFF03FF0FFF } else s)
  else if 0x3000 ≤ o && o < 0x3200 && o % 8 = 0 then
    (if vfmapOk v then { s with vfmap := s.vfmap.setIfInBounds ((o - 0x3000) / 8) (BitVec.ofNat 64 v &&& 0x8FFF07FF) } else s)
  else if o = 0x3200 then { s with hwbase := BitVec.ofNat 64 (fld v 30 22 * 2 ^ 30) }
  else if o = 0x4000 then { s with keyKid := fld v 2 7 }
  else s

end Sys2Proof.Machine
end

