-- ==== Sys2Proof/Machine/Window.lean ====
section
/-! DEFINITION. What the host and the Helm read and write: the register window (R5, R344 to R347) and the context table
(R22, R92). -/

namespace Sys2Proof.Machine

/-! ## Reading the register window -/

/-- The words of a trace block (R317). -/
def Trace.word (t : Trace) (o : Nat) : Nat :=
  match o with
  | 0x1000 => b2n t.en + b2n t.mode * 2 + b2n t.openW * 4 + t.seqm.toNat * 2 ^ 8 + t.fctx * 2 ^ 16 + t.sper * 2 ^ 32
  | 0x1008 => t.base
  | 0x1010 => t.log + t.key * 2 ^ 7 + t.wp * 2 ^ 32
  | 0x1018 => t.loss + t.tags.toNat % 2 ^ 32 * 2 ^ 32
  | 0x1020 => t.tags.toNat / 2 ^ 32 + t.tagp.toNat % 2 ^ 32 * 2 ^ 32
  | 0x1028 => t.tagp.toNat / 2 ^ 32
  | _ => 0

/-- A word of a programmable counter: its configuration as last written, or its count (R315, R316). -/
def Pmc.word (p : Pmc) (high : Bool) : Nat :=
  if high then p.cnt + b2n p.ovf * 2 ^ 48 else (p.next.getD p.config).toNat

/-- The words of the registers that North's block alone has (R347, R355 to R360). -/
def State.northWord (s : State) (o : Nat) : Nat :=
  if o = 0x2000 then s.plim.toNat
  else if o = 0x2010 then
    s.pwr.toNat + s.icore.toNat * 2 ^ 16 + s.vcore.toNat * 2 ^ 32 + s.gating * 2 ^ 44 + s.tmax.toNat * 2 ^ 48
  else if o = 0x2018 then s.energy.toNat
  else if 0x3000 ≤ o && o < 0x3200 then ((s.vfmap[(o - 0x3000) / 8]?).getD 0).toNat
  else if o = 0x3200 then s.hwbase.toNat
  else if o = 0x3208 then s.pkgid.toNat + b2n s.pkgSet * 2 ^ 10
  else if o = 0x4000 then s.keyKid * 2 ^ 2 + b2n s.keyBusy * 2 ^ 9 + b2n s.keyLive * 2 ^ 10
  else if o = 0x5000 then
    s.boot + b2n s.ecok * 2 ^ 3 + b2n s.lmok * 2 ^ 4 + b2n s.rbok * 2 ^ 5 + s.rbcnt.toNat * 2 ^ 8
  else 0

/-- The 8 bytes at byte `o` of a stop record: that of a confidential context is read as four encrypted data units (R322, R326), whose
tweaks are the addresses of the slot in the register window (DESIGN CHOICE, log 96). -/
def State.stopBits (s : State) (d : DieId) (i : Nat) (r : StopSlot) (o : Nat) : Nat :=
  let w := r.bits.toNat + r.high.toNat * 2 ^ 256
  leNat (((s.confBytes (fld w 0 16) (2 ^ 24 * d.val + 0x1400 + 64 * i) 4 (leBytes 64 w)).drop o).take 8)

/-- The 64 bits at offset `o`, a multiple of 8, of die `d`'s block, as R5 reads them: a WO field and a reserved one as
zero (R344, R345). -/
def State.blockWord (s : State) (d : DieId) (o : Nat) : Nat :=
  let x := s.die d
  if o = 0x0 then x.nslot + x.idle * 2 ^ 16
  else if o = 0x8 then x.qcbbase
  else if o = 0x10 then x.pbbase
  else if o = 0x100 then x.migt + x.t0sl * 2 ^ 8
  else if o = 0x200 then x.accq.toNat + b2n x.accDone * 2 ^ 18
  else if 0x208 ≤ o && o < 0x348 then ((x.accr[(o - 0x208) / 8]?).getD 0).toNat
  else if 0x1000 ≤ o && o < 0x1030 then x.trace.word o
  else if 0x1100 ≤ o && o < 0x1140 then ((x.bps[(o - 0x1100) / 8]?).getD 0).toNat
  else if o = 0x1200 then x.dbgcmd.toNat
  else if o = 0x1208 then x.stopv.toNat
  else if 0x1400 ≤ o && o < 0x1600 then
    match x.stops[(o - 0x1400) / 64]? with
    | some r => s.stopBits d ((o - 0x1400) / 64) r (o % 64)
    | none => 0
  else if o = 0x1800 then x.dbgbm
  else if 0x100000 ≤ o then
    let i := (o - 0x100000) % 256 / 16
    match (if (o - 0x100000) / 256 < 72 then s.cores[72 * d.val + (o - 0x100000) / 256]? else none) with
    | some k => ((k.pmcs[i]?).map fun p => p.word (o % 16 == 8)).getD 0
    | none => 0
  else if d = 0 then s.northWord o
  else 0

/-- A byte of the register window: that of a secure register reads zero but for the Helm (R343, R346). -/
def State.windowByte (s : State) (helm : Bool) (a : Nat) : Byte :=
  let o := a % 2 ^ 24
  if (secureReg o && !helm) || 2 ^ 26 ≤ a then 0
  else BitVec.ofNat 8 (s.blockWord (Fin.ofNat 4 (a / 2 ^ 24)) (o / 8 * 8) / 2 ^ (8 * (o % 8)))

/-! ## The context table (R22) -/

/-- A free entry. -/
def Context.free : Context where
  state := 0
  prsn := 0
  cls := 0
  world := false
  conf := false
  evpend := false
  wpend := false
  keyid := 0
  home := 0
  lteam := 0
  chroot := 0
  btbase := 0
  btlen := 0
  savea := 0
  savel := 0
  hint := 0
  waket := 0
  fqb := 0
  acct := Vector.replicate 16 0
  tokq := Vector.replicate 16 0
  qfull := Vector.replicate 4 0
  disc := 0
  pavg := Vector.replicate 8 0
  ovfl := []
  parkedAt := 0
  fault := false
  woken := none
  sevAt := none
  recalling := false
  recalledAt := none
  demoted := false
  demoting := false
  refused := []
  slept := false
  cowSaid := false
  homes := []
  plan := []

/-- Numbers of `w` bits each laid one after another. -/
def packNats (w : Nat) (l : List Nat) : Nat := (l.zipIdx.map fun e => e.1 % 2 ^ w * 2 ^ (w * e.2)).sum

/-- An entry as its 4,096 bits; the reserved ones are zero. -/
def Context.toNat (x : Context) : Nat :=
  x.state + x.prsn * 2 ^ 4 + x.cls * 2 ^ 8 + b2n x.world * 2 ^ 11 + b2n x.conf * 2 ^ 12 + b2n x.evpend * 2 ^ 13
    + b2n x.wpend * 2 ^ 14 + x.keyid * 2 ^ 16 + x.home.val * 2 ^ 23 + x.lteam % 2 ^ 16 * 2 ^ 32 + x.chroot * 2 ^ 64
    + x.btbase * 2 ^ 128 + x.btlen * 2 ^ 192 + x.savea * 2 ^ 256 + x.savel * 2 ^ 320 + x.hint % 2 ^ 32 * 2 ^ 352
    + x.waket % 2 ^ 64 * 2 ^ 384 + x.fqb * 2 ^ 448 + packNats 48 x.acct.toList * 2 ^ 512
    + packNats 48 x.tokq.toList * 2 ^ 1280 + packNats 48 x.qfull.toList * 2 ^ 2048 + x.disc % 2 ^ 48 * 2 ^ 2240
    + packNats 32 x.pavg.toList * 2 ^ 2288

/-- A byte of the context table: entry n lies at byte 512 × n, and entry 0 is no context (R18, R22). -/
def State.tableByte (s : State) (a : Nat) : Byte :=
  match mget (a / 512) s.contexts with
  | some x => BitVec.ofNat 8 (x.toNat / 2 ^ (8 * (a % 512)))
  | none => 0

/-- The byte of the doorbell aperture that byte `a` of a function's BAR2 maps, where that function decodes it (R290, R343, R347). -/
def State.bellAt (s : State) (src : BellSource) (a : Nat) : Option Nat :=
  match src with
  | .vf n =>
    let m := (s.vfmap.get n).toNat
    if bitAt m 31 && decide (a < 4096 * fld m 16 12) then some (bellKey (4096 * fld m 0 11 + a)) else none
  | .pf | .task => if a < 2 ^ 23 then some (bellKey a) else none

/-- HOST_BAR4_READ: `b` bytes at byte `a` of BAR4 (R348, R390); or, with `flag`, of the register window in BAR0, and for the
Helm and secure-world software of the window (`num` = 1) or of the context table (`num` = 2), which have no rows of their
own (R5, R22, R343 to R346; log 83); or with `num` = 3 of BAR2 of `bell`, which reads stored doorbell values (R290); with `num` = 4 the
request is malformed: it is dropped and reported (R420). -/
def execHostBar4Read (s : State) : Host.Outcome State Fault Refusal :=
  let k := s.barFour s.cur.a
  let reply (f : Nat → Byte) : State :=
    { s with hostReply := (List.range s.cur.b).map fun i => f (s.cur.a + i), hostPoison := false }
  .next <|
    if s.cur.flag && s.cur.num == 1 then reply (s.windowByte true)
    else if s.cur.flag && s.cur.num == 2 then reply s.tableByte
    else if s.pcieDown then s
    else if s.cur.num = 4 then { s with aer := 3 :: s.aer }
    else if s.cur.flag then reply (s.windowByte false)
    else if s.cur.num = 3 then
      (if (List.range s.cur.b).all fun i => (s.bellAt s.cur.bell (s.cur.a + i)).isSome then
        reply fun a => ((s.bellAt s.cur.bell a).map s.bellByte).getD 0
      else refusedRead s.cur.b s)
    else if s.beyondBar s.cur.a s.cur.b then s
    else if s.inImage s.cur.a then refusedRead s.cur.b s
    else if isAperture k || s.hostReaches k s.cur.b then outsideRead k s.cur.b s
    else refusedRead s.cur.b s

/-- The fields that are set by software, among the 64 bits of word `i` of an entry; a BTLEN out of its range stays (R5, R92,
log 17). DESIGN CHOICE (log 89): reserved bits of the value are dropped, as a register drops them (R5), and no record error is
reported. An entry that software writes is that of a context, without tasks and so parked, and no longer free (R22, R23; DEDUCED,
log 98). -/
def Context.write (x : Context) (i v : Nat) : Context :=
  let x := if x.state = 0 then { x with state := 3 } else x
  match i with
  | 0 => { x with cls := fld v 8 3, world := bitAt v 11, conf := bitAt v 12, keyid := fld v 16 7, home := Fin.ofNat 4 (fld v 23 2) }
  | 1 => { x with chroot := v / 4096 * 4096 }
  | 2 => { x with btbase := v / 32 * 32 }
  | 3 => { x with btlen := if 2 ^ 20 < fld v 0 21 then x.btlen else fld v 0 21 }
  | 4 => { x with savea := v / 4096 * 4096 }
  | 5 => { x with savel := fld v 0 32 }
  | 7 => { x with fqb := v / 4096 * 4096 }
  | _ => x

/-- Secure-world system software writes 64 bits at byte `a` of the context table: entry n lies at byte 512 × n, and entry 0
is no context (R18, R22, R92). -/
def writeContext (a v : Nat) (s : State) : State :=
  let n := a / 512
  if n = 0 || 65535 < n || a % 8 != 0 then s
  else { s with contexts := mput n (((mget n s.contexts).getD Context.free).write (a % 512 / 8) v) s.contexts }

/-! ## REGISTER_WRITE -/

/-- REGISTER_WRITE: `num` is written at offset `a` of die `die`'s block or, with `b` = 1, at byte `a` of the context table or, with
`b` = 2, as the size of BAR4, 2^`num` GiB (R343, log 83), by the Helm and secure-world software if `flag`, else by the host, which cannot write a secure register
(R5, R92, R346). -/
def execRegisterWrite (s : State) : Host.Outcome State Fault Refusal :=
  let v := s.cur.num % 2 ^ 64
  .next (if s.cur.b = 1 then (if s.cur.flag then writeContext s.cur.a v s else s)
    else if s.cur.b = 2 then (if s.cur.num ≤ 6 then { s with bar4 := s.cur.num } else s)
    else if secureReg s.cur.a && !s.cur.flag then s
    else writeReg s.cur.die s.cur.a v s)

end Sys2Proof.Machine
end

