-- ==== Sys2Proof/Machine/Binnacle.lean ====
section
/-! DEFINITION. The events of the Binnacle: the accounting read port (R310, R314), programmable counters (R315, R316), trace
(R317 to R320), breakpoints and debug stops (R323, R324, R326). -/

namespace Sys2Proof.Machine

/-! ## Accounting -/

/-- ACCQ_WRITE of `num` on die `die`: a sample starts; its cycle T comes within 2 µs (R314). -/
def execAccqWrite (s : State) : Host.Outcome State Fault Refusal :=
  let t := s.cycle + 1 + Nat.min (2 * Config.cyclesPerUs - 1) (Config.latency s.free)
  .next (s.onDie s.cur.die fun x => { x with
    accq := BitVec.ofNat 64 (s.cur.num % 2 ^ 18), accDone := false, accT := some t }).tick

/-- The 36 counters and DISC of a context with every charge so far, those that cores still keep included. -/
def State.exact (s : State) (n : Nat) : Option Context :=
  (mget n s.contexts).map fun x =>
    (List.finRange 288).foldl (fun x c =>
      if (s.taskOn c).any (·.record.ctx == n) then
        (s.core c).acct.toList.zipIdx.foldl (fun (x : Context) (e : Nat × Nat) => x.count e.2 e.1) x
      else x) x

/-- A result with its overflow bit. -/
def accResult (ovfl : List Nat) (i v : Nat) : Dword := BitVec.ofNat 64 (v + b2n (ovfl.contains i) * 2 ^ 48)

/-- The results of a sample of a context. -/
def contextResults (x : Context) (t : Nat) : Vector Dword 40 :=
  Vector.ofFn fun i =>
    if i.val = 37 then BitVec.ofNat 64 (t % 2 ^ 48)
    else if i.val < 16 then accResult x.ovfl i.val (x.acct.toList.getD i.val 0)
    else if i.val < 32 then accResult x.ovfl i.val (x.tokq.toList.getD (i.val - 16) 0)
    else if i.val < 36 then accResult x.ovfl i.val (x.qfull.toList.getD (i.val - 32) 0)
    else if i.val = 36 then accResult x.ovfl 36 x.disc
    else 0

/-- The results of a sample of a core. -/
def coreResults (k : Core) (t : Nat) : Vector Dword 40 :=
  Vector.ofFn fun i =>
    if i.val = 37 then BitVec.ofNat 64 (t % 2 ^ 48)
    else if i.val = 38 then accResult k.ovfl 38 k.zero
    else accResult k.ovfl i.val (k.counters.toList.getD i.val 0)

/-- The results that name nothing but T. -/
def emptyResults (t : Nat) : Vector Dword 40 := Vector.ofFn fun i =>
  if i.val = 37 then BitVec.ofNat 64 (t % 2 ^ 48) else 0

/-- The sample of a die's read port, at its cycle T before any charge of it (R314). -/
def finishSample (d : DieId) (t : Nat) (s : State) : State :=
  let q := (s.die d).accq.toNat
  let n := fld q 0 16
  let clr := bitAt q 17
  let put (r : Vector Dword 40) (s : State) : State := s.onDie d fun x => { x with accr := r, accDone := true, accT := none }
  if bitAt q 16 then
    if h : n < 288 then
      let c : CoreId := ⟨n, h⟩
      put (coreResults (s.core c) t) (if clr then s.onCore c fun k => { k with ovfl := [] } else s)
    else put (emptyResults t) s
  else
    match s.exact n with
    | none => put (emptyResults t) s
    | some x =>
      if n = 0 then put (emptyResults t) s
      else
        -- what the cores keep is added to the entry now, so that its overflow bits are in one place
        let s := (List.finRange 288).foldl (fun s c =>
          if (s.taskOn c).any (·.record.ctx == n) then flushAccounts c s else s) s
        put (contextResults x t) (if clr then s.onCtx n fun x => { x with ovfl := [] } else s)

/-- ACCOUNTING_SAMPLE_DONE on die `die` (R314). -/
def execAccountingSampleDone (s : State) : Host.Outcome State Fault Refusal :=
  .next <| match (s.die s.cur.die).accT with
    | some t => if t ≤ s.cycle then finishSample s.cur.die s.cycle s else s
    | none => s

/-- ACCOUNT_FLUSH: the core's charges are added to its context's entry (R310). -/
def execAccountFlush (s : State) : Host.Outcome State Fault Refusal := .next (flushAccounts s.cur.core s)

/-! ## Programmable counters -/

/-- Counter `a` of the turn's core changed. -/
def onPmc (f : Pmc → Pmc) (s : State) : State :=
  let i : Fin 4 := Fin.ofNat 4 s.cur.a
  s.onMe fun k => { k with pmcs := k.pmcs.set i.val (f (k.pmcs.get i)) i.isLt }

/-- PMC_REPROGRAM with `num`, from the next cycle (R315, R316). -/
def execPmcReprogram (s : State) : Host.Outcome State Fault Refusal :=
  .next (onPmc (fun p => { p with next := some (BitVec.ofNat 32 s.cur.num &&& 0xFFFF3FFF) }) s)
/-- PMC_CLEAR, after this cycle's increment (R316). -/
def execPmcClear (s : State) : Host.Outcome State Fault Refusal := .next (onPmc (fun p => { p with cnt := 0 }) s)
/-- PMC_OVF_CLEAR (R315). -/
def execPmcOvfClear (s : State) : Host.Outcome State Fault Refusal := .next (onPmc (fun p => { p with ovf := false }) s)

/-! ## Trace -/

/-- TRACE_GO and TRACE_HALT: the start and the stop trigger of die `die` (R320). -/
def execTraceGo (s : State) : Host.Outcome State Fault Refusal := .next (onTrace s.cur.die (fun t => { t with start := true }) s)
def execTraceHalt (s : State) : Host.Outcome State Fault Refusal := .next (onTrace s.cur.die (fun t => { t with stop := true }) s)

/-- TRACE_ENABLE_WRITE: EN takes `flag`; 0 closes any window and stops all writes (R317). -/
def execTraceEnableWrite (s : State) : Host.Outcome State Fault Refusal :=
  .next (onTrace s.cur.die (fun t => { t with en := s.cur.flag, openW := t.openW && s.cur.flag }) s)

/-- TRACE_TIME_RECORD: every 2^24 cycles of an open window (R318). -/
def execTraceTimeRecord (s : State) : Host.Outcome State Fault Refusal :=
  let t := (s.die s.cur.die).trace
  .next (if t.openW && t.openedAt < s.cycle && (s.cycle - t.openedAt) % 2 ^ 24 = 0 then
      putPlain s.cur.die 5 s.cycle (s.cycle / 2 ^ 32) s else s)

/-- TRACE_SAMPLE of die `die`: the samples of this cycle (R319); or, with `a` = 1 + SEQ, that of a breakpoint with ACT 3, once the
cycle's charge is made (R323). -/
def execTraceSample (s : State) : Host.Outcome State Fault Refusal :=
  .next <|
    if s.cur.a = 0 then sampleAll s.cur.die s
    else if (s.die s.cur.die).trace.openW then sampleRecord s.cur.core (Fin.ofNat 4 (s.cur.a - 1)) s
    else s

/-! ## Breakpoints and stops -/

/-- A breakpoint names the instruction that became the head of a sequencer in this cycle (R323). -/
def Core.hits (k : Core) (ctx : Nat) (b : Dword) : Bool :=
  let w := b.toNat
  let q := k.seqs.toList.getD (fld w 1 2) Sequencer.fresh
  bitAt w 0 && (fld w 16 16 == 0 || fld w 16 16 == ctx) && q.isNew && !q.stopped && q.pos == fld w 32 32

/-- A command written to DBGCMD: OP and CORE (R324). -/
def noteDbgcmd (op : Nat) (s : State) : State :=
  s.onDie (dieOf s.cur.core) fun d => { d with dbgcmd := BitVec.ofNat 64 (s.cur.core.val + op * 2 ^ 9) }

/-- A core's task runs or drains. -/
def Core.goes (k : Core) : Bool :=
  match k.mode with
  | .run | .drain _ => true
  | .idle | .load _ _ | .save _ _ | .fault | .debug _ _ _ => false

/-- The act of breakpoint `i`: nothing of the control stream issues in its cycle (R320, R323, R324). -/
def actBreak (c : CoreId) (ctx i : Nat) (b : Dword) (s : State) : State :=
  match fld b.toNat 3 2 with
  | 0 => if s.debugOn (dieOf c) ctx && (s.core c).goes then
      s.onCore c fun k => (k.stop s.cycle 1 0 i).onSeq .ctl fun q => { q with hold := Nat.max q.hold (s.cycle + 1) }
    else s
  | 1 => onTrace (dieOf c) (fun t => { t with start := true }) s
  | 2 => onTrace (dieOf c) (fun t => { t with stop := true }) s
  | _ => { s with agenda := s.agenda ++
      [{ Turn.blank with instr := .traceSample, core := c, die := dieOf c, a := 1 + fld b.toNat 1 2 }] }

/-- A debug stop is under way: delay slots may still issue (R174). -/
def Core.stopping (k : Core) : Bool :=
  match k.mode with
  | .debug _ _ _ => k.seqs.toList.any (·.delay.isSome)
  | .idle | .load _ _ | .run | .drain _ | .save _ _ | .fault => false

/-- BREAKPOINT_HIT: the breakpoints of the core's die that its new heads hit, before anything issues, in the cycle of a fault too (R323,
R376). -/
def execBreakpointHit (s : State) : Host.Outcome State Fault Refusal :=
  let c := s.cur.core
  .next <| match s.myTask with
    | none => s
    | some t =>
      if !s.me.goes && !s.me.stopping && !s.me.faultsNow s.cycle then s
      else
        ((s.die (dieOf c)).bps.toList.zipIdx.filter fun b => s.me.hits t.record.ctx b.1).foldl
          (fun s b => actBreak c t.record.ctx b.2 b.1 s) s

/-- DBGCMD_STOP of the core (R324): a task that is being loaded stops as it starts to run, and one whose save has begun is on its
way out. -/
def execDbgcmdStop (s : State) : Host.Outcome State Fault Refusal :=
  let s := noteDbgcmd 1 s
  .next (if s.debugOn (dieOf s.cur.core) s.myCtxN then
      match s.me.mode with
      | .run | .drain _ => s.onMe (Core.stop s.cycle 2 0 0)
      | .load till _ => { s with inputs := s.inputs ++ [(till, s.cur)] }
      | .idle | .save _ _ | .fault | .debug _ _ _ => s
    else s)

/-- DBGCMD_RESUME: engines and sequencers go on; a held fault goes on to its step 5 (R324, R372 step 4). A task whose stop record
waits for a slot stays stopped until it is placed (R326). -/
def execDbgcmdResume (s : State) : Host.Outcome State Fault Refusal :=
  let s := noteDbgcmd 2 s
  .next <| match s.me.mode with
    | .debug _ _ _ =>
      resumeEnd s.cur.core (if s.me.stopAt.isSome then s.onMe fun k => { k with stopGo := true } else resumeStop s.cur.core s)
    | _ => resumeEnd s.cur.core s

/-- DBGCMD_DUMP: the stopped task's state goes to its save area, and DMP is set; without a free run nothing is written
(R324). -/
def execDbgcmdDump (s : State) : Host.Outcome State Fault Refusal :=
  let c := s.cur.core
  let s := noteDbgcmd 3 s
  .next <| match s.me.mode, s.me.task with
    | .debug _ _ _, some tid =>
      match saveTask c tid false s with
      | (none, _) => s
      | (some _, s) =>
        s.onDie (dieOf c) fun d =>
          let mark (i : Fin 8) : StopSlot :=
            let x := d.stops.get i
            if d.stopsOf.get i == some c then ⟨x.bits ||| BitVec.ofNat 256 (2 ^ 46), x.high⟩ else x
          { d with stops := Vector.ofFn mark }
    | _, _ => s

/-- STOPV_CLEAR: stop slot `a` of die `die` is freed (R326); until another stop takes it, the record there goes on following its
task. -/
def execStopvClear (s : State) : Host.Outcome State Fault Refusal :=
  let i : Fin 8 := Fin.ofNat 8 s.cur.a
  .next (s.onDie s.cur.die fun x => { x with
    stopv := x.stopv &&& ~~~(BitVec.ofNat 8 (2 ^ i.val)) })

end Sys2Proof.Machine
end

