-- ==== Sys2Proof/Machine/Flags.lean ====
section
/-! DEFINITION. The one-bit results: conditions of CMP and CMPI (R179) and flag logic (R180). -/

namespace Sys2Proof.Machine

/-- The conditions of R179: the N conditions compare unsigned, the others signed. -/
def condEq (a b : Dword) : Bool := a == b
def condNe (a b : Dword) : Bool := a != b
def condLt (a b : Dword) : Bool := a.slt b
def condGe (a b : Dword) : Bool := !a.slt b
def condLtn (a b : Dword) : Bool := a.ult b
def condGen (a b : Dword) : Bool := !a.ult b
def condLe (a b : Dword) : Bool := !b.slt a
def condGt (a b : Dword) : Bool := b.slt a
def condLen (a b : Dword) : Bool := !b.ult a
def condGtn (a b : Dword) : Bool := b.ult a

/-- A compare of two registers writes its flag with latency 1 (R171, R179). -/
def cmpReg (c : Dword → Dword → Bool) (fd : FReg) (a b : XReg) (s : State) : State :=
  advance (post (.f fd (c (s.me.xr a) (s.me.xr b))) 1 s)

/-- A compare with the sign-extended 10-bit immediate (R179). -/
def cmpImm (c : Dword → Dword → Bool) (fd : FReg) (a : XReg) (imm : BitVec 10) (s : State) : State :=
  advance (post (.f fd (c (s.me.xr a) (imm.signExtend 64))) 1 s)

/-- Flag logic (R180). -/
def flagOp (v : Bool → Bool → Bool) (fd fa fb : FReg) (s : State) : State :=
  advance (post (.f fd (v (s.me.fr fa) (s.me.fr fb))) 1 s)

end Sys2Proof.Machine
end

