-- ==== Sys2Proof/Machine/Integer.lean ====
section
/-! DEFINITION. The integer instructions, compares and flag logic of the control stream (R175 to R180). -/

namespace Sys2Proof.Machine

/-- ADD (R175). -/
def execAdd (d a b : XReg) (s : State) : Host.Outcome State Fault Refusal := .next (alu 1 (· + ·) d a b s)
/-- SUB (R175). -/
def execSub (d a b : XReg) (s : State) : Host.Outcome State Fault Refusal := .next (alu 1 (· - ·) d a b s)
/-- AND (R175). -/
def execAnd (d a b : XReg) (s : State) : Host.Outcome State Fault Refusal := .next (alu 1 (· &&& ·) d a b s)
/-- OR (R175). -/
def execOr (d a b : XReg) (s : State) : Host.Outcome State Fault Refusal := .next (alu 1 (· ||| ·) d a b s)
/-- XOR (R175). -/
def execXor (d a b : XReg) (s : State) : Host.Outcome State Fault Refusal := .next (alu 1 (· ^^^ ·) d a b s)
/-- ANDN (R175). -/
def execAndn (d a b : XReg) (s : State) : Host.Outcome State Fault Refusal := .next (alu 1 (fun u v => u &&& ~~~v) d a b s)
/-- SLL (R175). -/
def execSll (d a b : XReg) (s : State) : Host.Outcome State Fault Refusal := .next (alu 1 opSll d a b s)
/-- SRL (R175). -/
def execSrl (d a b : XReg) (s : State) : Host.Outcome State Fault Refusal := .next (alu 1 opSrl d a b s)
/-- SRA (R175). -/
def execSra (d a b : XReg) (s : State) : Host.Outcome State Fault Refusal := .next (alu 1 opSra d a b s)
/-- ROL (R175). -/
def execRol (d a b : XReg) (s : State) : Host.Outcome State Fault Refusal := .next (alu 1 opRol d a b s)
/-- ROR (R175). -/
def execRor (d a b : XReg) (s : State) : Host.Outcome State Fault Refusal := .next (alu 1 opRor d a b s)
/-- MUL (R175). -/
def execMul (d a b : XReg) (s : State) : Host.Outcome State Fault Refusal := .next (alu 3 (· * ·) d a b s)
/-- MULH (R175). -/
def execMulh (d a b : XReg) (s : State) : Host.Outcome State Fault Refusal := .next (alu 3 opMulh d a b s)
/-- MULHN (R175). -/
def execMulhn (d a b : XReg) (s : State) : Host.Outcome State Fault Refusal := .next (alu 3 opMulhn d a b s)
/-- DIV (R175, R176). -/
def execDiv (d a b : XReg) (s : State) : Host.Outcome State Fault Refusal := .next (alu 10 opDiv d a b s)
/-- DIVN (R175, R176). -/
def execDivn (d a b : XReg) (s : State) : Host.Outcome State Fault Refusal := .next (alu 10 opDivn d a b s)
/-- REM (R175, R176). -/
def execRem (d a b : XReg) (s : State) : Host.Outcome State Fault Refusal := .next (alu 10 opRem d a b s)
/-- REMN (R175, R176). -/
def execRemn (d a b : XReg) (s : State) : Host.Outcome State Fault Refusal := .next (alu 10 opRemn d a b s)
/-- MIN (R175). -/
def execMin (d a b : XReg) (s : State) : Host.Outcome State Fault Refusal := .next (alu 1 opMin d a b s)
/-- MAX (R175). -/
def execMax (d a b : XReg) (s : State) : Host.Outcome State Fault Refusal := .next (alu 1 opMax d a b s)
/-- MINN (R175). -/
def execMinn (d a b : XReg) (s : State) : Host.Outcome State Fault Refusal := .next (alu 1 opMinn d a b s)
/-- MAXN (R175). -/
def execMaxn (d a b : XReg) (s : State) : Host.Outcome State Fault Refusal := .next (alu 1 opMaxn d a b s)
/-- CLZ (R175). -/
def execClz (d a : XReg) (s : State) : Host.Outcome State Fault Refusal := .next (alu1 opClz d a s)
/-- CTZ (R175). -/
def execCtz (d a : XReg) (s : State) : Host.Outcome State Fault Refusal := .next (alu1 opCtz d a s)
/-- POPC (R175). -/
def execPopc (d a : XReg) (s : State) : Host.Outcome State Fault Refusal := .next (alu1 opPopc d a s)
/-- SEXTB (R175). -/
def execSextB (d a : XReg) (s : State) : Host.Outcome State Fault Refusal := .next (alu1 (opSext 8) d a s)
/-- SEXTH (R175). -/
def execSextH (d a : XReg) (s : State) : Host.Outcome State Fault Refusal := .next (alu1 (opSext 16) d a s)
/-- SEXTW (R175). -/
def execSextW (d a : XReg) (s : State) : Host.Outcome State Fault Refusal := .next (alu1 (opSext 32) d a s)
/-- ZEXTB (R175). -/
def execZextB (d a : XReg) (s : State) : Host.Outcome State Fault Refusal := .next (alu1 (opZext 8) d a s)
/-- ZEXTH (R175). -/
def execZextH (d a : XReg) (s : State) : Host.Outcome State Fault Refusal := .next (alu1 (opZext 16) d a s)
/-- ZEXTW (R175). -/
def execZextW (d a : XReg) (s : State) : Host.Outcome State Fault Refusal := .next (alu1 (opZext 32) d a s)
/-- BSWAP (R175). -/
def execBswap (d a : XReg) (s : State) : Host.Outcome State Fault Refusal := .next (alu1 opBswap d a s)
/-- ADDI (R177). -/
def execAddi (d a : XReg) (imm : BitVec 14) (s : State) : Host.Outcome State Fault Refusal :=
  .next (aluI 1 (· + ·) d a imm s)
/-- ANDI (R177). -/
def execAndi (d a : XReg) (imm : BitVec 14) (s : State) : Host.Outcome State Fault Refusal :=
  .next (aluI 1 (· &&& ·) d a imm s)
/-- ORI (R177). -/
def execOri (d a : XReg) (imm : BitVec 14) (s : State) : Host.Outcome State Fault Refusal :=
  .next (aluI 1 (· ||| ·) d a imm s)
/-- XORI (R177). -/
def execXori (d a : XReg) (imm : BitVec 14) (s : State) : Host.Outcome State Fault Refusal :=
  .next (aluI 1 (· ^^^ ·) d a imm s)
/-- MULI (R177). -/
def execMuli (d a : XReg) (imm : BitVec 14) (s : State) : Host.Outcome State Fault Refusal :=
  .next (aluI 3 (· * ·) d a imm s)
/-- SLLI (R177). -/
def execSlli (d a : XReg) (sh : Fin 64) (s : State) : Host.Outcome State Fault Refusal := .next (aluSh opSll d a sh s)
/-- SRLI (R177). -/
def execSrli (d a : XReg) (sh : Fin 64) (s : State) : Host.Outcome State Fault Refusal := .next (aluSh opSrl d a sh s)
/-- SRAI (R177). -/
def execSrai (d a : XReg) (sh : Fin 64) (s : State) : Host.Outcome State Fault Refusal := .next (aluSh opSra d a sh s)
/-- RORI (R177). -/
def execRori (d a : XReg) (sh : Fin 64) (s : State) : Host.Outcome State Fault Refusal := .next (aluSh opRor d a sh s)
/-- LI: xd := sext(imm20) (R178). -/
def execLi (d : XReg) (imm : BitVec 20) (s : State) : Host.Outcome State Fault Refusal :=
  .next (advance (post (.x d (imm.signExtend 64)) 1 s))
/-- LHI: bits 63:44 replaced by imm20 (R178). -/
def execLhi (d : XReg) (imm : BitVec 20) (s : State) : Host.Outcome State Fault Refusal :=
  .next (advance (post (.x d (imm ++ (s.me.xr d).setWidth 44)) 1 s))
/-- CMP.eq (R179). -/
def execCmpEq (fd : FReg) (a b : XReg) (s : State) : Host.Outcome State Fault Refusal := .next (cmpReg condEq fd a b s)
/-- CMP.ne (R179). -/
def execCmpNe (fd : FReg) (a b : XReg) (s : State) : Host.Outcome State Fault Refusal := .next (cmpReg condNe fd a b s)
/-- CMP.lt (R179). -/
def execCmpLt (fd : FReg) (a b : XReg) (s : State) : Host.Outcome State Fault Refusal := .next (cmpReg condLt fd a b s)
/-- CMP.ge (R179). -/
def execCmpGe (fd : FReg) (a b : XReg) (s : State) : Host.Outcome State Fault Refusal := .next (cmpReg condGe fd a b s)
/-- CMP.ltn (R179). -/
def execCmpLtn (fd : FReg) (a b : XReg) (s : State) : Host.Outcome State Fault Refusal := .next (cmpReg condLtn fd a b s)
/-- CMP.gen (R179). -/
def execCmpGen (fd : FReg) (a b : XReg) (s : State) : Host.Outcome State Fault Refusal := .next (cmpReg condGen fd a b s)
/-- CMP.le (R179). -/
def execCmpLe (fd : FReg) (a b : XReg) (s : State) : Host.Outcome State Fault Refusal := .next (cmpReg condLe fd a b s)
/-- CMP.gt (R179). -/
def execCmpGt (fd : FReg) (a b : XReg) (s : State) : Host.Outcome State Fault Refusal := .next (cmpReg condGt fd a b s)
/-- CMP.len (R179). -/
def execCmpLen (fd : FReg) (a b : XReg) (s : State) : Host.Outcome State Fault Refusal := .next (cmpReg condLen fd a b s)
/-- CMP.gtn (R179). -/
def execCmpGtn (fd : FReg) (a b : XReg) (s : State) : Host.Outcome State Fault Refusal := .next (cmpReg condGtn fd a b s)
/-- CMPI.eq (R179). -/
def execCmpiEq (fd : FReg) (a : XReg) (imm : BitVec 10) (s : State) : Host.Outcome State Fault Refusal :=
  .next (cmpImm condEq fd a imm s)
/-- CMPI.ne (R179). -/
def execCmpiNe (fd : FReg) (a : XReg) (imm : BitVec 10) (s : State) : Host.Outcome State Fault Refusal :=
  .next (cmpImm condNe fd a imm s)
/-- CMPI.lt (R179). -/
def execCmpiLt (fd : FReg) (a : XReg) (imm : BitVec 10) (s : State) : Host.Outcome State Fault Refusal :=
  .next (cmpImm condLt fd a imm s)
/-- CMPI.ge (R179). -/
def execCmpiGe (fd : FReg) (a : XReg) (imm : BitVec 10) (s : State) : Host.Outcome State Fault Refusal :=
  .next (cmpImm condGe fd a imm s)
/-- CMPI.ltn (R179). -/
def execCmpiLtn (fd : FReg) (a : XReg) (imm : BitVec 10) (s : State) : Host.Outcome State Fault Refusal :=
  .next (cmpImm condLtn fd a imm s)
/-- CMPI.gen (R179). -/
def execCmpiGen (fd : FReg) (a : XReg) (imm : BitVec 10) (s : State) : Host.Outcome State Fault Refusal :=
  .next (cmpImm condGen fd a imm s)
/-- CMPI.le (R179). -/
def execCmpiLe (fd : FReg) (a : XReg) (imm : BitVec 10) (s : State) : Host.Outcome State Fault Refusal :=
  .next (cmpImm condLe fd a imm s)
/-- CMPI.gt (R179). -/
def execCmpiGt (fd : FReg) (a : XReg) (imm : BitVec 10) (s : State) : Host.Outcome State Fault Refusal :=
  .next (cmpImm condGt fd a imm s)
/-- CMPI.len (R179). -/
def execCmpiLen (fd : FReg) (a : XReg) (imm : BitVec 10) (s : State) : Host.Outcome State Fault Refusal :=
  .next (cmpImm condLen fd a imm s)
/-- CMPI.gtn (R179). -/
def execCmpiGtn (fd : FReg) (a : XReg) (imm : BitVec 10) (s : State) : Host.Outcome State Fault Refusal :=
  .next (cmpImm condGtn fd a imm s)
/-- FAND (R180). -/
def execFand (fd fa fb : FReg) (s : State) : Host.Outcome State Fault Refusal := .next (flagOp and fd fa fb s)
/-- FOR (R180). -/
def execForF (fd fa fb : FReg) (s : State) : Host.Outcome State Fault Refusal := .next (flagOp or fd fa fb s)
/-- FXOR (R180). -/
def execFxor (fd fa fb : FReg) (s : State) : Host.Outcome State Fault Refusal := .next (flagOp xor fd fa fb s)
/-- FANDN (R180). -/
def execFandn (fd fa fb : FReg) (s : State) : Host.Outcome State Fault Refusal := .next (flagOp (fun u v => u && !v) fd fa fb s)
/-- FNOT (R180). -/
def execFnot (fd fa : FReg) (s : State) : Host.Outcome State Fault Refusal :=
  .next (flagOp (fun u _ => !u) fd fa fa s)

end Sys2Proof.Machine
end

