-- ==== Sys2Proof/Machine/Dispatch.lean ====
section
/-! DEFINITION. One arm for each instruction and event: a direct call of its meaning. -/

namespace Sys2Proof.Machine

def exec (i : Instr) (s : State) : Host.Outcome State Fault Refusal :=
  match i with
  | .add d a b => Sys2Proof.Machine.execAdd d a b s
  | .sub d a b => Sys2Proof.Machine.execSub d a b s
  | .and d a b => Sys2Proof.Machine.execAnd d a b s
  | .or d a b => Sys2Proof.Machine.execOr d a b s
  | .xor d a b => Sys2Proof.Machine.execXor d a b s
  | .andn d a b => Sys2Proof.Machine.execAndn d a b s
  | .sll d a b => Sys2Proof.Machine.execSll d a b s
  | .srl d a b => Sys2Proof.Machine.execSrl d a b s
  | .sra d a b => Sys2Proof.Machine.execSra d a b s
  | .rol d a b => Sys2Proof.Machine.execRol d a b s
  | .ror d a b => Sys2Proof.Machine.execRor d a b s
  | .mul d a b => Sys2Proof.Machine.execMul d a b s
  | .mulh d a b => Sys2Proof.Machine.execMulh d a b s
  | .mulhn d a b => Sys2Proof.Machine.execMulhn d a b s
  | .div d a b => Sys2Proof.Machine.execDiv d a b s
  | .divn d a b => Sys2Proof.Machine.execDivn d a b s
  | .rem d a b => Sys2Proof.Machine.execRem d a b s
  | .remn d a b => Sys2Proof.Machine.execRemn d a b s
  | .min d a b => Sys2Proof.Machine.execMin d a b s
  | .max d a b => Sys2Proof.Machine.execMax d a b s
  | .minn d a b => Sys2Proof.Machine.execMinn d a b s
  | .maxn d a b => Sys2Proof.Machine.execMaxn d a b s
  | .clz d a => Sys2Proof.Machine.execClz d a s
  | .ctz d a => Sys2Proof.Machine.execCtz d a s
  | .popc d a => Sys2Proof.Machine.execPopc d a s
  | .sextB d a => Sys2Proof.Machine.execSextB d a s
  | .sextH d a => Sys2Proof.Machine.execSextH d a s
  | .sextW d a => Sys2Proof.Machine.execSextW d a s
  | .zextB d a => Sys2Proof.Machine.execZextB d a s
  | .zextH d a => Sys2Proof.Machine.execZextH d a s
  | .zextW d a => Sys2Proof.Machine.execZextW d a s
  | .bswap d a => Sys2Proof.Machine.execBswap d a s
  | .addi d a imm => Sys2Proof.Machine.execAddi d a imm s
  | .andi d a imm => Sys2Proof.Machine.execAndi d a imm s
  | .ori d a imm => Sys2Proof.Machine.execOri d a imm s
  | .xori d a imm => Sys2Proof.Machine.execXori d a imm s
  | .slli d a sh => Sys2Proof.Machine.execSlli d a sh s
  | .srli d a sh => Sys2Proof.Machine.execSrli d a sh s
  | .srai d a sh => Sys2Proof.Machine.execSrai d a sh s
  | .rori d a sh => Sys2Proof.Machine.execRori d a sh s
  | .muli d a imm => Sys2Proof.Machine.execMuli d a imm s
  | .li d imm => Sys2Proof.Machine.execLi d imm s
  | .lhi d imm => Sys2Proof.Machine.execLhi d imm s
  | .cmpEq fd a b => Sys2Proof.Machine.execCmpEq fd a b s
  | .cmpNe fd a b => Sys2Proof.Machine.execCmpNe fd a b s
  | .cmpLt fd a b => Sys2Proof.Machine.execCmpLt fd a b s
  | .cmpGe fd a b => Sys2Proof.Machine.execCmpGe fd a b s
  | .cmpLtn fd a b => Sys2Proof.Machine.execCmpLtn fd a b s
  | .cmpGen fd a b => Sys2Proof.Machine.execCmpGen fd a b s
  | .cmpLe fd a b => Sys2Proof.Machine.execCmpLe fd a b s
  | .cmpGt fd a b => Sys2Proof.Machine.execCmpGt fd a b s
  | .cmpLen fd a b => Sys2Proof.Machine.execCmpLen fd a b s
  | .cmpGtn fd a b => Sys2Proof.Machine.execCmpGtn fd a b s
  | .fand fd fa fb => Sys2Proof.Machine.execFand fd fa fb s
  | .forF fd fa fb => Sys2Proof.Machine.execForF fd fa fb s
  | .fxor fd fa fb => Sys2Proof.Machine.execFxor fd fa fb s
  | .fandn fd fa fb => Sys2Proof.Machine.execFandn fd fa fb s
  | .fnot fd fa => Sys2Proof.Machine.execFnot fd fa s
  | .cmpiEq fd a imm => Sys2Proof.Machine.execCmpiEq fd a imm s
  | .cmpiNe fd a imm => Sys2Proof.Machine.execCmpiNe fd a imm s
  | .cmpiLt fd a imm => Sys2Proof.Machine.execCmpiLt fd a imm s
  | .cmpiGe fd a imm => Sys2Proof.Machine.execCmpiGe fd a imm s
  | .cmpiLtn fd a imm => Sys2Proof.Machine.execCmpiLtn fd a imm s
  | .cmpiGen fd a imm => Sys2Proof.Machine.execCmpiGen fd a imm s
  | .cmpiLe fd a imm => Sys2Proof.Machine.execCmpiLe fd a imm s
  | .cmpiGt fd a imm => Sys2Proof.Machine.execCmpiGt fd a imm s
  | .cmpiLen fd a imm => Sys2Proof.Machine.execCmpiLen fd a imm s
  | .cmpiGtn fd a imm => Sys2Proof.Machine.execCmpiGtn fd a imm s
  | .ldB d h a imm => Sys2Proof.Machine.execLdB d h a imm s
  | .ldH d h a imm => Sys2Proof.Machine.execLdH d h a imm s
  | .ldW d h a imm => Sys2Proof.Machine.execLdW d h a imm s
  | .ldD d h a imm => Sys2Proof.Machine.execLdD d h a imm s
  | .stB d h a imm => Sys2Proof.Machine.execStB d h a imm s
  | .stH d h a imm => Sys2Proof.Machine.execStH d h a imm s
  | .stW d h a imm => Sys2Proof.Machine.execStW d h a imm s
  | .stD d h a imm => Sys2Proof.Machine.execStD d h a imm s
  | .aaddW o => Sys2Proof.Machine.execAaddW o s
  | .aminW o => Sys2Proof.Machine.execAminW o s
  | .amaxW o => Sys2Proof.Machine.execAmaxW o s
  | .aminnW o => Sys2Proof.Machine.execAminnW o s
  | .amaxnW o => Sys2Proof.Machine.execAmaxnW o s
  | .aandW o => Sys2Proof.Machine.execAandW o s
  | .aorW o => Sys2Proof.Machine.execAorW o s
  | .axorW o => Sys2Proof.Machine.execAxorW o s
  | .aswpW o => Sys2Proof.Machine.execAswpW o s
  | .acasW o => Sys2Proof.Machine.execAcasW o s
  | .afaddW o => Sys2Proof.Machine.execAfaddW o s
  | .aldW o => Sys2Proof.Machine.execAldW o s
  | .astW o => Sys2Proof.Machine.execAstW o s
  | .aaddD o => Sys2Proof.Machine.execAaddD o s
  | .aminD o => Sys2Proof.Machine.execAminD o s
  | .amaxD o => Sys2Proof.Machine.execAmaxD o s
  | .aminnD o => Sys2Proof.Machine.execAminnD o s
  | .amaxnD o => Sys2Proof.Machine.execAmaxnD o s
  | .aandD o => Sys2Proof.Machine.execAandD o s
  | .aorD o => Sys2Proof.Machine.execAorD o s
  | .axorD o => Sys2Proof.Machine.execAxorD o s
  | .aswpD o => Sys2Proof.Machine.execAswpD o s
  | .acasD o => Sys2Proof.Machine.execAcasD o s
  | .afaddD o => Sys2Proof.Machine.execAfaddD o s
  | .aldD o => Sys2Proof.Machine.execAldD o s
  | .astD o => Sys2Proof.Machine.execAstD o s
  | .pt b imm => Sys2Proof.Machine.execPt b imm s
  | .j imm => Sys2Proof.Machine.execJ imm s
  | .br b f => Sys2Proof.Machine.execBr b f s
  | .brNot b f => Sys2Proof.Machine.execBrNot b f s
  | .ptr b a => Sys2Proof.Machine.execPtr b a s
  | .call b => Sys2Proof.Machine.execCall b s
  | .loop b a => Sys2Proof.Machine.execLoop b a s
  | .ldsB d a imm => Sys2Proof.Machine.execLdsB d a imm s
  | .ldsH d a imm => Sys2Proof.Machine.execLdsH d a imm s
  | .ldsW d a imm => Sys2Proof.Machine.execLdsW d a imm s
  | .ldsD d a imm => Sys2Proof.Machine.execLdsD d a imm s
  | .stsB d a imm => Sys2Proof.Machine.execStsB d a imm s
  | .stsH d a imm => Sys2Proof.Machine.execStsH d a imm s
  | .stsW d a imm => Sys2Proof.Machine.execStsW d a imm s
  | .stsD d a imm => Sys2Proof.Machine.execStsD d a imm s
  | .hld h a imm => Sys2Proof.Machine.execHld h a imm s
  | .hst h a imm => Sys2Proof.Machine.execHst h a imm s
  | .hsetf h a f => Sys2Proof.Machine.execHsetf h a f s
  | .hgetf d h f => Sys2Proof.Machine.execHgetf d h f s
  | .hadv h a => Sys2Proof.Machine.execHadv h a s
  | .tsig q => Sys2Proof.Machine.execTsig q s
  | .twait q => Sys2Proof.Machine.execTwait q s
  | .tcnt d q => Sys2Proof.Machine.execTcnt d q s
  | .gset g f => Sys2Proof.Machine.execGset g f s
  | .gseti g v => Sys2Proof.Machine.execGseti g v s
  | .fqw a => Sys2Proof.Machine.execFqw a s
  | .allocS d a imm => Sys2Proof.Machine.execAllocS d a imm s
  | .allocV d a imm => Sys2Proof.Machine.execAllocV d a imm s
  | .fenceAcq sc => Sys2Proof.Machine.execFenceAcq sc s
  | .fenceRel sc => Sys2Proof.Machine.execFenceRel sc s
  | .fenceAr sc => Sys2Proof.Machine.execFenceAr sc s
  | .flush sc h a => Sys2Proof.Machine.execFlush sc h a s
  | .inv sc h a => Sys2Proof.Machine.execInv sc h a s
  | .phase l => Sys2Proof.Machine.execPhase l s
  | .binit k a sc => Sys2Proof.Machine.execBinit k a sc s
  | .bslot k h a => Sys2Proof.Machine.execBslot k h a s
  | .bexpect k a => Sys2Proof.Machine.execBexpect k a s
  | .barrive k => Sys2Proof.Machine.execBarrive k s
  | .bwait k => Sys2Proof.Machine.execBwait k s
  | .btest f k => Sys2Proof.Machine.execBtest f k s
  | .spawn a => Sys2Proof.Machine.execSpawn a s
  | .park a => Sys2Proof.Machine.execPark a s
  | .wake a => Sys2Proof.Machine.execWake a s
  | .dmrw a => Sys2Proof.Machine.execDmrw a s
  | .snapoRd a b => Sys2Proof.Machine.execSnapoRd a b s
  | .snapoWr a b => Sys2Proof.Machine.execSnapoWr a b s
  | .snapc a => Sys2Proof.Machine.execSnapc a s
  | .repart a => Sys2Proof.Machine.execRepart a s
  | .srd d r => Sys2Proof.Machine.execSrd d r s
  | .swr r a => Sys2Proof.Machine.execSwr r a s
  | .trap code => Sys2Proof.Machine.execTrap code s
  | .brk code => Sys2Proof.Machine.execBrk code s
  | .csw a => Sys2Proof.Machine.execCsw a s
  | .cswReg a => Sys2Proof.Machine.execCswReg a s
  | .chrd d h a => Sys2Proof.Machine.execChrd d h a s
  | .copy w => Sys2Proof.Machine.execCopy w s
  | .copyt w => Sys2Proof.Machine.execCopyt w s
  | .copyc w mode prop => Sys2Proof.Machine.execCopyc w mode prop s
  | .gather w xh => Sys2Proof.Machine.execGather w xh s
  | .scatter w xh => Sys2Proof.Machine.execScatter w xh s
  | .fill w => Sys2Proof.Machine.execFill w s
  | .redadd w => Sys2Proof.Machine.execRedadd w s
  | .pref guard sh soff cnt => Sys2Proof.Machine.execPref guard sh soff cnt s
  | .bcopy w => Sys2Proof.Machine.execBcopy w s
  | .radv guard q => Sys2Proof.Machine.execRadv guard q s
  | .loops n => Sys2Proof.Machine.execLoops n s
  | .jump off => Sys2Proof.Machine.execJump off s
  | .tsigLdSt q => Sys2Proof.Machine.execTsigLdSt q s
  | .twaitLdSt q => Sys2Proof.Machine.execTwaitLdSt q s
  | .loopsCmp n => Sys2Proof.Machine.execLoopsCmp n s
  | .jumpCmp off => Sys2Proof.Machine.execJumpCmp off s
  | .tsigCmp q => Sys2Proof.Machine.execTsigCmp q s
  | .twaitCmp q => Sys2Proof.Machine.execTwaitCmp q s
  | .vadd w => Sys2Proof.Machine.execVadd w s
  | .vsub w => Sys2Proof.Machine.execVsub w s
  | .vmul w => Sys2Proof.Machine.execVmul w s
  | .vfma w => Sys2Proof.Machine.execVfma w s
  | .vfms w => Sys2Proof.Machine.execVfms w s
  | .vfnma w => Sys2Proof.Machine.execVfnma w s
  | .vfnms w => Sys2Proof.Machine.execVfnms w s
  | .vdiv w => Sys2Proof.Machine.execVdiv w s
  | .vsqrt w => Sys2Proof.Machine.execVsqrt w s
  | .vrsqrt w => Sys2Proof.Machine.execVrsqrt w s
  | .vrcp w => Sys2Proof.Machine.execVrcp w s
  | .vexp2 w => Sys2Proof.Machine.execVexp2 w s
  | .vlog2 w => Sys2Proof.Machine.execVlog2 w s
  | .vexp w => Sys2Proof.Machine.execVexp w s
  | .vtanh w => Sys2Proof.Machine.execVtanh w s
  | .vmin w => Sys2Proof.Machine.execVmin w s
  | .vmax w => Sys2Proof.Machine.execVmax w s
  | .vabs w => Sys2Proof.Machine.execVabs w s
  | .vneg w => Sys2Proof.Machine.execVneg w s
  | .vclamp w => Sys2Proof.Machine.execVclamp w s
  | .viadd w => Sys2Proof.Machine.execViadd w s
  | .visub w => Sys2Proof.Machine.execVisub w s
  | .vimul w => Sys2Proof.Machine.execVimul w s
  | .vimulh w => Sys2Proof.Machine.execVimulh w s
  | .vand w => Sys2Proof.Machine.execVand w s
  | .vor w => Sys2Proof.Machine.execVor w s
  | .vxor w => Sys2Proof.Machine.execVxor w s
  | .vandn w => Sys2Proof.Machine.execVandn w s
  | .vsll w => Sys2Proof.Machine.execVsll w s
  | .vsrl w => Sys2Proof.Machine.execVsrl w s
  | .vsra w => Sys2Proof.Machine.execVsra w s
  | .vrol w => Sys2Proof.Machine.execVrol w s
  | .vpopc w => Sys2Proof.Machine.execVpopc w s
  | .vclz w => Sys2Proof.Machine.execVclz w s
  | .vclmul w => Sys2Proof.Machine.execVclmul w s
  | .vclmulh w => Sys2Proof.Machine.execVclmulh w s
  | .vbswap w => Sys2Proof.Machine.execVbswap w s
  | .vbrev w => Sys2Proof.Machine.execVbrev w s
  | .vcmp fmt pred guard pd cond a b => Sys2Proof.Machine.execVcmp fmt pred guard pd cond a b s
  | .vpand guard pd pa pb => Sys2Proof.Machine.execVpand guard pd pa pb s
  | .vpor guard pd pa pb => Sys2Proof.Machine.execVpor guard pd pa pb s
  | .vpxor guard pd pa pb => Sys2Proof.Machine.execVpxor guard pd pa pb s
  | .vpnot guard pd pa => Sys2Proof.Machine.execVpnot guard pd pa s
  | .voteAny pred guard f pa => Sys2Proof.Machine.execVoteAny pred guard f pa s
  | .voteAll pred guard f pa => Sys2Proof.Machine.execVoteAll pred guard f pa s
  | .voteNone pred guard f pa => Sys2Proof.Machine.execVoteNone pred guard f pa s
  | .voteCnt pred guard pa => Sys2Proof.Machine.execVoteCnt pred guard pa s
  | .vcvt w sfmt mode prop => Sys2Proof.Machine.execVcvt w sfmt mode prop s
  | .vpack w => Sys2Proof.Machine.execVpack w s
  | .vunpack w part => Sys2Proof.Machine.execVunpack w part s
  | .vradd w => Sys2Proof.Machine.execVradd w s
  | .vrmax w => Sys2Proof.Machine.execVrmax w s
  | .vrmin w => Sys2Proof.Machine.execVrmin w s
  | .vargmax w => Sys2Proof.Machine.execVargmax w s
  | .vtopk8 w => Sys2Proof.Machine.execVtopk8 w s
  | .vperm w => Sys2Proof.Machine.execVperm w s
  | .vbcast w j => Sys2Proof.Machine.execVbcast w j s
  | .vsel w => Sys2Proof.Machine.execVsel w s
  | .viota fmt pred guard d start => Sys2Proof.Machine.execViota fmt pred guard d start s
  | .vscan w => Sys2Proof.Machine.execVscan w s
  | .vmov w => Sys2Proof.Machine.execVmov w s
  | .vsetn n => Sys2Proof.Machine.execVsetn n s
  | .mma w => Sys2Proof.Machine.execMma w s
  | .mmab w => Sys2Proof.Machine.execMmab w s
  | .mmag w => Sys2Proof.Machine.execMmag w s
  | .mzero w => Sys2Proof.Machine.execMzero w s
  | .mld w => Sys2Proof.Machine.execMld w s
  | .mst w => Sys2Proof.Machine.execMst w s
  | .mstat w => Sys2Proof.Machine.execMstat w s
  | .ret => Sys2Proof.Machine.execRet s
  | .endT => Sys2Proof.Machine.execEndT s
  | .yield => Sys2Proof.Machine.execYield s
  | .commit => Sys2Proof.Machine.execCommit s
  | .rte => Sys2Proof.Machine.execRte s
  | .nop => Sys2Proof.Machine.execNop s
  | .wfe => Sys2Proof.Machine.execWfe s
  | .sev => Sys2Proof.Machine.execSev s
  | .loope => Sys2Proof.Machine.execLoope s
  | .stop => Sys2Proof.Machine.execStop s
  | .loopeCmp => Sys2Proof.Machine.execLoopeCmp s
  | .stopCmp => Sys2Proof.Machine.execStopCmp s
  | .mclr => Sys2Proof.Machine.execMclr s
  | .commandStart => Sys2Proof.Machine.execCommandStart s
  | .commandRetirement => Sys2Proof.Machine.execCommandRetirement s
  | .resultLands => Sys2Proof.Machine.execResultLands s
  | .bcopyComplete => Sys2Proof.Machine.execBcopyComplete s
  | .overlaySwap => Sys2Proof.Machine.execOverlaySwap s
  | .taskRetirement => Sys2Proof.Machine.execTaskRetirement s
  | .timeAllowanceExpiry => Sys2Proof.Machine.execTimeAllowanceExpiry s
  | .dispatch => Sys2Proof.Machine.execDispatch s
  | .preemptingRequest => Sys2Proof.Machine.execPreemptingRequest s
  | .preemptOverrun => Sys2Proof.Machine.execPreemptOverrun s
  | .contextSaveComplete => Sys2Proof.Machine.execContextSaveComplete s
  | .timeParkExpiry => Sys2Proof.Machine.execTimeParkExpiry s
  | .recallLeadExpiry => Sys2Proof.Machine.execRecallLeadExpiry s
  | .pageMoveStart => Sys2Proof.Machine.execPageMoveStart s
  | .pageMoveComplete => Sys2Proof.Machine.execPageMoveComplete s
  | .doorbellStore => Sys2Proof.Machine.execDoorbellStore s
  | .queueMapping => Sys2Proof.Machine.execQueueMapping s
  | .idleTimeout => Sys2Proof.Machine.execIdleTimeout s
  | .ridxWriteback => Sys2Proof.Machine.execRidxWriteback s
  | .launch => Sys2Proof.Machine.execLaunch s
  | .wait => Sys2Proof.Machine.execWait s
  | .waitSatisfied => Sys2Proof.Machine.execWaitSatisfied s
  | .sigfarPoll => Sys2Proof.Machine.execSigfarPoll s
  | .signal => Sys2Proof.Machine.execSignal s
  | .reside => Sys2Proof.Machine.execReside s
  | .note => Sys2Proof.Machine.execNote s
  | .ageingStep => Sys2Proof.Machine.execAgeingStep s
  | .faultDelivery => Sys2Proof.Machine.execFaultDelivery s
  | .helmFaultRelease => Sys2Proof.Machine.execHelmFaultRelease s
  | .helmCoreFailure => Sys2Proof.Machine.execHelmCoreFailure s
  | .helmSelfTestDone => Sys2Proof.Machine.execHelmSelfTestDone s
  | .ucieLinkDown => Sys2Proof.Machine.execUcieLinkDown s
  | .ualinkPortDown => Sys2Proof.Machine.execUalinkPortDown s
  | .ualinkRequestTimeout => Sys2Proof.Machine.execUalinkRequestTimeout s
  | .ualinkErrorCompletion => Sys2Proof.Machine.execUalinkErrorCompletion s
  | .ualinkRemoteRequest => Sys2Proof.Machine.execUalinkRemoteRequest s
  | .cxlPortDown => Sys2Proof.Machine.execCxlPortDown s
  | .pcieLinkDown => Sys2Proof.Machine.execPcieLinkDown s
  | .vfFlr => Sys2Proof.Machine.execVfFlr s
  | .pfFlr => Sys2Proof.Machine.execPfFlr s
  | .hostBar4Write => Sys2Proof.Machine.execHostBar4Write s
  | .hostBar4Read => Sys2Proof.Machine.execHostBar4Read s
  | .heatGating => Sys2Proof.Machine.execHeatGating s
  | .trip => Sys2Proof.Machine.execTrip s
  | .powerGatingStep => Sys2Proof.Machine.execPowerGatingStep s
  | .telemetrySample => Sys2Proof.Machine.execTelemetrySample s
  | .plimTakesEffect => Sys2Proof.Machine.execPlimTakesEffect s
  | .scrubPass => Sys2Proof.Machine.execScrubPass s
  | .packageReset => Sys2Proof.Machine.execPackageReset s
  | .bootstGo => Sys2Proof.Machine.execBootstGo s
  | .keyLoad => Sys2Proof.Machine.execKeyLoad s
  | .keyDestroy => Sys2Proof.Machine.execKeyDestroy s
  | .keyCommandDone => Sys2Proof.Machine.execKeyCommandDone s
  | .accqWrite => Sys2Proof.Machine.execAccqWrite s
  | .accountingSampleDone => Sys2Proof.Machine.execAccountingSampleDone s
  | .accountFlush => Sys2Proof.Machine.execAccountFlush s
  | .pmcReprogram => Sys2Proof.Machine.execPmcReprogram s
  | .pmcClear => Sys2Proof.Machine.execPmcClear s
  | .pmcOvfClear => Sys2Proof.Machine.execPmcOvfClear s
  | .traceGo => Sys2Proof.Machine.execTraceGo s
  | .traceHalt => Sys2Proof.Machine.execTraceHalt s
  | .traceEnableWrite => Sys2Proof.Machine.execTraceEnableWrite s
  | .traceTimeRecord => Sys2Proof.Machine.execTraceTimeRecord s
  | .traceSample => Sys2Proof.Machine.execTraceSample s
  | .breakpointHit => Sys2Proof.Machine.execBreakpointHit s
  | .dbgcmdStop => Sys2Proof.Machine.execDbgcmdStop s
  | .dbgcmdResume => Sys2Proof.Machine.execDbgcmdResume s
  | .dbgcmdDump => Sys2Proof.Machine.execDbgcmdDump s
  | .debugCut => Sys2Proof.Machine.execDebugCut s
  | .stopvClear => Sys2Proof.Machine.execStopvClear s
  | .nslotWrite => Sys2Proof.Machine.execNslotWrite s
  | .pkgidWrite => Sys2Proof.Machine.execPkgidWrite s
  | .registerWrite => Sys2Proof.Machine.execRegisterWrite s
  | .pcieLinkUp => Sys2Proof.Machine.execPcieLinkUp s
  | .helmSelfTestTimeout => Sys2Proof.Machine.execHelmSelfTestTimeout s

end Sys2Proof.Machine
end

