-- ==== Sys2Proof/Machine/Issue.lean ====
section
/-! DEFINITION. Fetching and issuing: the word at a sequencer's head (R145, R158, R362), its decode faults (R152, R186,
R361, R366, R371), what a sequencer does in a cycle (R172, R174, R217, R238, R241, R268), and the one charge of its
slot (R307). -/

namespace Sys2Proof.Machine

/-! ## The head of a stream -/

/-- The word at a sequencer's head: its bits, its length in positions and what it decodes to; none at or beyond the end of
the section (R362). -/
def Core.head (k : Core) (q : Seq) : Option (Nat × Nat × Decoded) :=
  let p := (k.seq q).pos
  match q with
  | .ctl => k.plane.ctl[p]?.map fun w => (w.toNat, 1, decodeCtl w.toNat)
  | .ld => k.plane.ld[p]?.map fun w => (w.toNat, 1, decodeXfer true w.toNat)
  | .st => k.plane.st[p]?.map fun w => (w.toNat, 1, decodeXfer false w.toNat)
  | .cmp => k.plane.cmp[p]?.map fun w =>
    let next := k.plane.cmp[p + 1]?.map BitVec.toNat
    let r := decodeCmp w.toNat next
    (if r.2 = 2 then w.toNat * 2 ^ 96 + next.getD 0 else w.toNat, r.2, r.1)

/-- The field of a matrix word that holds bit `b`: its value (R165, R366). -/
def matField (w b : Nat) : Nat :=
  match [(183, 1), (180, 3), (179, 1), (174, 5), (150, 24), (145, 5), (121, 24), (109, 12), (98, 11), (91, 5), (86, 5),
      (80, 6), (74, 6), (72, 2), (71, 1), (70, 1), (69, 1), (2, 67)].find? fun f => decide (f.1 ≤ b) && decide (b < f.1 + f.2) with
  | some f => fld w f.1 f.2
  | none => 0

/-- INFO0 and INFO1 of an ILLEGAL word of `n` positions: its own bits, or those of the first parcel of a matrix word
(R366). -/
def wordInfo (w n : Nat) : Nat × Nat :=
  let p := if n = 2 then w / 2 ^ 96 else w
  (fld p 0 64, fld p 64 32)

/-- INFO0 of a RESERVED word whose lowest bad bit is `b` (R366). -/
def reservedInfo (w n b : Nat) : Nat := if n = 2 then matField w b % 2 ^ 64 else fld w 0 64

/-- A transfer of control or a leave, which may not stand in a delay slot (R186). -/
def isTransfer : Instr → Bool
  | .j _ | .br _ _ | .brNot _ _ | .call _ | .ret | .loop _ _ | .trap _ | .rte | .endT | .yield | .park _ | .csw _
  | .cswReg _ => true
  | _ => false

/-! ## What a sequencer does in a cycle -/

/-- A sequencer's cycle: it rests, and why; it sees its barrier flip; an ordered act that has issued has its effect; its
head faults; its head issues, as an instruction, a word and a number of positions. -/
inductive Choice where
  | rest (why : Cause)
  | flip (k : KReg)
  | late (act : Late)
  | fault (cause info0 info1 : Nat)
  | issue (i : Instr) (w n : Nat)
deriving DecidableEq, Repr

/-- The cause of the cycles in which a task leaves its core, at a sequencer (R174, R217, R241, R268, R309). The tables of
R241 and R268 give none to a stream that has not stopped while its task gives up its core in PHASE: DESIGN CHOICE (log 87),
SWITCH. -/
def Leave.why (l : Leave) (q : Seq) (stopped : Bool) : Cause :=
  match l with
  | .preempt _ => .preempt
  | .faulted => .trap
  | .phase => if q == .ctl then .phase else if stopped then .done else .switch
  | .yield | .park _ _ | .csw _ _ => .switch

/-- The cause of the cycles in which an act that has issued waits for the store queue (R217). -/
def waitCause : Late → Cause
  | .phase _ => .phase
  | .park => .switch
  | .atomic _ _ _ _ _ _ _ _ _ _ | .fence _ _ | .flush _ _ _ _ | .commit | .snapc _ => .memory

/-- The cause of the cycles in which an interlock holds an instruction: a row of R217 above MEMORY where one applies as
well. -/
def Core.interlockCause (k : Core) : Instr → Cause
  | .gset g _ => if (k.guards.get g).length < 8 then .memory else .guard
  | .fqw _ => if k.fq.length < 16 then .memory else .format
  | .trap _ => if k.settled then .memory else .trap
  | .park _ | .csw _ | .cswReg _ => if k.settled then .memory else .switch
  | _ => .memory

/-- The head of a sequencer: a fault, an interlock or an issue. -/
def Core.atHead (k : Core) (q : Seq) : Choice :=
  match k.head q with
  | none => .fault 0x01 0 0
  | some (w, n, d) =>
    match d with
    | .illegal => .fault 0x01 (wordInfo w n).1 (wordInfo w n).2
    | .reserved b => .fault 0x02 (reservedInfo w n b) b
    | .ok i =>
      if (k.seq q).delay.isSome && isTransfer i then .fault 0x01 (wordInfo w n).1 (wordInfo w n).2
      else if k.interlocked i then .rest (k.interlockCause i)
      else .issue i w n

/-- The bytes of the head of the turn's sequencer have not arrived yet, as a free value says: those of position 0 are among the first
blocks, which a placement loads (R39, R183, R217; log 99). -/
def State.unfetched (s : State) : Bool := s.pos != 0 && Config.fetchLate s.free s.pos

/-- A sequencer that nothing but its own stream holds. -/
def State.ownChoice (s : State) : Choice :=
  let k := s.me
  let q := k.seq s.cur.seq
  if q.stopped then .rest .done
  else
    match q.acting with
    | some (.stores act since) => if s.storesBefore since then .rest (waitCause act) else .late act
    | some (.phase _) => .rest .phase
    | some (.barrier b) => if s.flipped b then .flip b else .rest .barrier
    | none =>
      if s.cycle < q.hold then .rest q.holdCause
      else if s.cycle < q.target then .rest .branch
      else if s.unfetched then .rest .fetch
      else k.atHead s.cur.seq

/-- A queued command of the core's task waits for a ring slot that sequencer `q` frees (R238). -/
def Core.owesSlot (k : Core) (q : Seq) : Bool :=
  k.engines.toList.any fun e => e.cmds.any fun m => some m.task == k.task && m.slots.any fun w =>
    (k.tok.get w.1).used && (k.tok.get w.1).cons == q

/-- A sequencer goes on although its task is leaving: delay slots remain, an ordered act is under way, or it frees a ring
slot (R174, R238). -/
def Core.goesOn (k : Core) (q : Seq) : Bool :=
  (k.seq q).delay.isSome || k.owesSlot q || match (k.seq q).acting with
    | some (.stores _ _) => true
    | _ => false

/-- What the turn's sequencer does in this cycle. FETCH is charged while a placement loads (R309), and where a free value says that
the bytes at a head have not arrived (log 99). -/
def State.choice (s : State) : Choice :=
  match s.me.mode with
  | .idle => .rest .idle
  | .load _ restore => .rest (if restore then .switch else .fetch)
  | .run => s.ownChoice
  | .drain why =>
    if s.me.goesOn s.cur.seq then s.ownChoice else .rest (why.why s.cur.seq (s.me.seq s.cur.seq).stopped)
  | .save why _ => .rest (why.why s.cur.seq (s.me.seq s.cur.seq).stopped)
  | .fault => .rest .trap
  | .debug src _ _ =>
    if src != 3 && (s.me.seq s.cur.seq).delay.isSome then s.ownChoice else .rest .trap

/-- The cause and sub-index that a slot charges, where `why` and `sub` are its own: pre-emption comes first, then trap
depth and debug stops, then a switch (R213, R217, R241, R268, R324). -/
def Core.chargeCause (k : Core) (q : Seq) (why : Cause) (sub : Nat) : Cause × Nat :=
  let own := if q == .ctl && decide (0 < k.tdep) then (.trap, 0) else (why, sub)
  match k.mode with
  | .drain l | .save l _ =>
    match l with
    | .preempt _ => (.preempt, 0)
    | .faulted => (.trap, 0)
    | .phase => own
    | .yield | .park _ _ | .csw _ _ => if q == .ctl && decide (0 < k.tdep) then (.trap, 0) else (.switch, 0)
  | .debug _ _ _ => (.trap, 0)
  | .run => own
  | .idle | .load _ _ | .fault => (why, sub)

/-! ## The turn of a sequencer -/

/-- The next state of an outcome. -/
def onNext (o : Host.Outcome State Fault Refusal) (f : State → State) : Host.Outcome State Fault Refusal :=
  match o with
  | .next s => .next (f s)
  | .fault r => .fault r
  | .refused r => .refused r

/-- The turn's sequencer, its head no longer new but while it is loading (R323); a head beyond position 0 takes a free value
(`State.unfetched`). -/
def settleHead (s : State) : State :=
  match s.me.mode with
  | .load _ _ => s
  | _ =>
    let s := if s.pos = 0 then s else s.tick
    s.onMe fun k => k.onSeq s.cur.seq fun q => { q with isNew := false }

/-- The state in which an instruction issues: the turn names it and its word, and it charges ISSUE unless it stalls. -/
def State.issuing (s : State) (i : Instr) (w : Nat) : State :=
  { s with cur := { s.cur with kind := .issue, instr := i, word := w, why := .issue, sub := 0 } }

/-- The choice is an issue. -/
def Choice.isIssue : Choice → Bool
  | .issue _ _ _ => true
  | .rest _ | .flip _ | .late _ | .fault _ _ _ => false

/-- The positions that an issuing instruction takes; a held cycle of SPAWN takes none (R204). -/
def Choice.units : Choice → Nat
  | .issue _ _ n => n
  | .rest _ => 0
  | .flip _ | .late _ | .fault _ _ _ => 1

/-- The slot's one charge, after what its sequencer did from position `pos` (R307, R319); `pre` is the core before. The next head is
new where an instruction has issued or the stream has moved (R323). -/
def chargeSlot (pre : Core) (pos : Nat) (ch : Choice) (s : State) : State :=
  let q := s.cur.seq
  let w := pre.chargeCause q s.cur.why s.cur.sub
  let moved := (s.me.seq q).pos != pos || (ch.isIssue && s.cur.why == .issue)
  let s := s.onMe fun k => k.onSeq q fun x => { x with isNew := x.isNew || moved }
  charge s.cur.core (seqIdx q) w.1 w.2 pos (if w.1 = .issue then pos + ch.units else pos) s

/-- A choice carried out. -/
def perform (ch : Choice) (s : State) : Host.Outcome State Fault Refusal :=
  match ch with
  | .rest why => .next (stall why 0 s)
  | .flip k => .next (stall .barrier 0 ((addWaiter s.cur.core k false (seeFlip k s)).onMe fun c => c.onSeq s.cur.seq fun q =>
      { q with acting := none }))
  | .late act => .next (lateEffect act
      (stall (waitCause act) 0 (s.onMe fun k => k.onSeq s.cur.seq fun q => { q with acting := none })))
  | .fault c i0 i1 => .next (raiseOn s.cur.core ⟨c, s.cur.seq, 15, s.pos, 0, i0, i1, true⟩ s)
  | .issue i w _ => exec i (s.issuing i w)

/-- What the head of a stream of the turn's core comes to in this cycle: an issue, or an act that has waited for the store queue. -/
def State.headState (s : State) (q : Seq) : State :=
  let s := { s with cur := { s.cur with seq := q } }
  match s.choice with
  | .fault c i0 i1 => raiseOn s.cur.core ⟨c, q, 15, s.pos, 0, i0, i1, true⟩ s
  | .issue i w _ => match exec i (s.issuing i w) with
    | .next t => t
    | .fault _ | .refused _ => s
  | .late act => lateEffect act (s.onMe fun k => k.onSeq q fun q => { q with acting := none })
  | .rest _ | .flip _ => s

/-- The faults that a stream raises at its head in this cycle (R361, R371). -/
def State.peek (s : State) (q : Seq) : List Raised := (s.headState q).me.faults.drop s.me.faults.length

/-- The faults of the other streams, which keep the control stream from issuing (R371, R372 step 1). -/
def State.peers (s : State) : List Raised :=
  match s.cur.seq with
  | .ctl => [Seq.ld, .cmp, .st].flatMap s.peek
  | .ld | .cmp | .st => []

/-- The control stream's own effect stands only if it is a fault of the same cycle. -/
def withPeers (fs : List Raised) (pre post : State) : State :=
  match fs with
  | [] => post
  | _ :: _ =>
    let s := if pre.me.faults.length < post.me.faults.length then post else pre
    fs.foldl (fun s f => raiseOn s.cur.core f s) s

/-- The state once the BEXPECTs that stand at the heads of the other cores have been applied, which a BARRIVE of the same cycle
follows (R114). -/
def State.expected (s : State) : State :=
  (List.finRange 288).foldl (fun r c =>
    match (r.core c).head .ctl with
    | some (_, _, .ok (.bexpect _ _)) =>
      if c = s.cur.core then r
      else { ({ r with cur := { r.cur with core := c } } : State).headState .ctl with cur := s.cur }
    | _ => r) s

/-- The sequencers that a core lets act in a cycle in which it drains (R174, R238), or runs. -/
def Core.acts (k : Core) (drains : Bool) : List Seq := [Seq.ctl, .ld, .cmp, .st].filter fun q => !drains || k.goesOn q

/-- The fault of a head is raised, with what it leaves beside it: a barrier object that an update has overrun (R378), a line that has
failed (R400). A BARRIVE is held against the object as the BEXPECTs of its cycle leave it, and its own core's alone is changed. -/
def tryHead (s : State) (q : Seq) : State :=
  let p := s.onMe fun k => { k with mode := .run }
  let arrives : Bool := match p.me.head q with
    | some (_, _, .ok (.barrive _)) => q == .ctl
    | _ => false
  let t := (if arrives then p.expected else p).headState q
  if t.me.faults.length ≤ s.me.faults.length then s
  else if arrives then (t.me.faults.drop s.me.faults.length).foldl (fun s f => raiseOn s.cur.core f s) s
  else { t with cur := s.cur }

/-- A halving that waits for the heads of its core starts, unless a fault of the cycle wins over it; it wins over lines that fail
(R376, R400). -/
def settleHalving (s : State) : State :=
  let c := s.cur.core
  match s.me.halving, s.myTask with
  | some a, some t =>
    let s := s.onMe fun k => { k with halving := none }
    if s.me.mode == .fault && !s.onlyChecks t then s
    else stall .switch 0 (halveTask c a (s.onMe fun k => { k with faults := [], faultAt := none, mode := .run }))
  | _, _ => s.onMe fun k => { k with halving := none }

/-- An ALLOC or a control store at the head that halves its task does so before a pre-empting request of its cycle (R409). -/
def halveFirst (s : State) : State :=
  if s.me.mode != .run then s
  else
    let t := s.headState .ctl
    if ((mget s.myTid t.tasks).isNone && (mget s.myTid s.tasks).isSome) then { t with cur := s.cur } else s

/-- A turn before the events that may stop a core in its cycle: where a fault of an engine has stopped it already, a halving waits, or
an event (`flag`) is due that a fault of this cycle wins over, the faults of its heads are raised; `a` = 1 where the core ran as the
cycle began, 2 where it drained, and `b` = 1 where a pre-empting request arrives (R371, R376, R409). -/
def headsTurn (s : State) : State :=
  if s.cur.a != 0 && (s.me.faultsNow s.cycle || ((s.cur.flag || s.me.halving.isSome) && s.me.goes)) then
    let t := settleHalving ((s.me.acts (s.cur.a == 2)).foldl tryHead s)
    if s.cur.b = 1 then halveFirst t else t
  else s

/-- A sequencer's turn: it does what it can and its slot is charged. -/
def issueTurn (s : State) : Host.Outcome State Fault Refusal :=
  let s := settleHead s
  let ch := s.choice
  onNext (perform ch s) fun t => chargeSlot s.me s.pos ch (withPeers s.peers s t)

end Sys2Proof.Machine
end

