-- ==== Sys2Proof/Machine/Cycle.lean ====
section
/-! DEFINITION. The passage of a cycle: what ends and begins with it, and the turns of the next one, in the order of log 1
(R13, R29, R30, R37, R38, R44, R49, R206, R309, R310, R316, R320, R358, R359). -/

namespace Sys2Proof.Machine

/-! ## Turns -/

/-- The turn of an event, and of one of a core, a die, a slot or a number. -/
def Turn.of (i : Instr) : Turn := { Turn.blank with instr := i }
def Turn.ofCore (i : Instr) (c : CoreId) : Turn := { Turn.blank with instr := i, core := c, die := dieOf c }
def Turn.ofDie (i : Instr) (d : DieId) : Turn := { Turn.blank with instr := i, die := d }
def Turn.ofSlot (i : Instr) (d : DieId) (k : Fin 256) : Turn := { Turn.blank with instr := i, die := d, slot := k }
def Turn.ofNum (i : Instr) (n : Nat) : Turn := { Turn.blank with instr := i, a := n, num := n }

/-- The turn in which a sequencer issues. -/
def Turn.issueOf (c : CoreId) (q : Seq) : Turn := { Turn.blank with kind := .issue, core := c, seq := q, die := dieOf c }

/-- The turn in which the heads of a core fault before an event of the cycle stops it: `a` is 1 where it runs and 2 where it drains,
`flag` says that such an event is due, and `b` = 1 that a pre-empting request is. -/
def Turn.headsOf (c : CoreId) (drains due request : Bool) : Turn :=
  { Turn.blank with kind := .heads, core := c, die := dieOf c, a := 1 + b2n drains, b := b2n request, flag := due }

/-- The turn of an engine's event. -/
def Turn.ofEngine (i : Instr) (c : CoreId) (e : Engine) : Turn := { Turn.ofCore i c with eng := e, seq := feeder e }

/-- A turn, where it is due. -/
def dueTurn (b : Bool) (t : Turn) : List Turn := if b then [t] else []

/-! ## The start of a cycle, core by core -/

/-- A core's engines hold no command of its task, and every result has landed (R47, R49, R174). -/
def State.drained (s : State) (c : CoreId) : Bool :=
  let k := s.core c
  match k.task with
  | none => true
  | some t => s.cmdsDone c t && k.pending.isEmpty && !k.goesOn .ctl

/-- A task that waits in PHASE while a member of its domain is queued gives up its core (R38). -/
def State.givesUp (s : State) (c : CoreId) : Bool :=
  let q := (s.core c).seq .ctl
  match q.acting, s.taskOn c with
  | some (.phase l), some t => q.delay.isNone && s.tasks.any fun u => sameDomain l t u.2 && u.2.standing == .queued
  | _, _ => false

/-- Cycles of a save (R48 to R50). -/
def leaveCycles (why : Leave) (k : Core) : Nat :=
  match why with
  | .csw true _ => 1
  | .csw false _ | .yield | .park _ _ | .preempt _ | .faulted | .phase => saveCycles k

/-- The mode of a core as a cycle begins. -/
def State.nextMode (s : State) (c : CoreId) : Mode :=
  let k := s.core c
  match k.mode with
  | .load till r => if till ≤ s.cycle then .run else .load till r
  | .run => if s.givesUp c then .drain .phase else .run
  | .drain why => if s.drained c then .save why (s.cycle + leaveCycles why k) else .drain why
  | .idle => .idle
  | .save why till => .save why till
  | .fault => .fault
  | .debug a b d => .debug a b d

/-- A core as a cycle begins: token queues as they stand before it (R30, R237), start histories (R359), and nothing owed from
an earlier cycle. -/
def Core.begins (k : Core) (m : Mode) : Core :=
  { k.reprogrammed with
    mode := m
    tok := k.tok.map fun t => { t with was := t.count, wasHeld := t.held, wasRadvs := t.radvs }
    gateStarts := fld (2 * fld k.gateStarts 0 16) 0 16 + 2 ^ 16 * fld (2 * fld k.gateStarts 16 16) 0 16
    owed := none }

/-- The task of a core has a cycle less (R44). -/
def tickTask (c : CoreId) (s : State) : State :=
  match (s.core c).task with
  | none => s
  | some t => s.onTask t fun t => { t with tleft := t.tleft - 1 }

/-- A core is charged without turns in a cycle: it goes on idling, nothing runs on beneath (R41), and no read port samples
a core (R309, R314). -/
def State.rests (s : State) (c : CoreId) : Bool :=
  (s.core c).steadyIdle && (s.core c).under.isEmpty && (s.core c).endFaults.isEmpty && s.dies.toList.all (·.accT.isNone)

/-- A core begins a cycle. -/
def beginCore (c : CoreId) (s : State) : State :=
  let s := tickTask c (s.onCore c fun k => k.begins (s.nextMode c))
  if s.rests c then fullIdle c (s.onCore c Core.chargeIdle) else s

/-! ## The start of a cycle -/

/-- Published dirty lines that free values pick are evicted to the next level out (R101; log 8). -/
def evictAll (s : State) : State :=
  let s := (List.finRange 288).foldl (fun s c => if (s.core c).dirty.cells.isEmpty then s else evictCore c s) s
  let s := (List.finRange 36).foldl (fun s u =>
    if (s.clusters.get u).dirty.cells.isEmpty then s else evictCluster ⟨8 * u.val, by omega⟩ s) s
  (List.finRange 4).foldl (fun s d => if (s.die d).dirty.cells.isEmpty && s.behind.isEmpty then s else evictDie d s) s

/-- Parity errors of overlay planes and of translation caches: the entry is dropped, to be fetched or walked again, counted and
reported; the model meets them as a cycle begins (R391; log 41). -/
def dropParity (s : State) : State :=
  let meet (c : CoreId) (src line : Nat) (s : State) : State :=
    memEntry (dieOf c) 4 (keyTier (64 * line)) src (s.ctxOn c) (tagOf line % 128) (bitAt (tagOf line) 7) 1
      (64 * bareLine line % 2 ^ 52) 0 0 (ringCount (dieOf c) 24 6 1 s)
  s.flaws.foldl (fun s f =>
    match f.spot with
    | .plane c => meet c 4 f.line { s with flaws := s.flaws.filter (· != f) }
    | .walker c => meet c 7 f.line { s with flaws := s.flaws.filter (· != f) }
    | .region _ | .cluster _ | .side _ | .pool _ => s) s

/-- A DMRW takes effect as its cycle ends (R208). -/
def takeDmr (s : State) : State :=
  { s with tasks := s.tasks.map fun t => match t.2.dmrNext with
      | some v => (t.1, { t.2 with dmr := v, dmrNext := none })
      | none => t }

/-- Every phase that can flip does, every context takes its state, and tasks and slots whose wait is over go on (R23, R37,
R206, R294). -/
def settleAll (s : State) : State :=
  let s := takeDmr s
  let s := releaseResident (s.teams.foldl (fun s m => checkFlips m.1 s) s)
  endOrdwait (s.contexts.foldl (fun s x => refresh x.1 4 (settleDemotion x.1 s)) s)

/-- The inputs that stop running tasks: a fault of their cycle wins over them (R376). -/
def isStopping : Instr → Bool
  | .preemptingRequest | .dbgcmdStop => true
  | _ => false

/-- The inputs that act after the charges of their cycle: clears of a counter, and reads of the register window (R316, R415). -/
def isLate (t : Turn) : Bool :=
  match t.instr with
  | .pmcClear | .pmcOvfClear => true
  | .hostBar4Read => t.flag
  | _ => false

/-! ## The turns of a cycle -/

/-- A core's control stream stands at a WFE, which issues after every SEV of its cycle (R54). -/
def State.awaits (s : State) (c : CoreId) : Bool :=
  match (s.core c).head .ctl with
  | some (_, _, .ok .wfe) => true
  | _ => false

/-- The kind of a held barrier update by R114: 0 none, 1 a completion, 2 BINIT or BEXPECT, 3 BARRIVE. -/
def Held.rank : Held → Nat
  | .bar _ op _ _ _ _ _ _ => if op = 2 then 1 else if op = 3 then 3 else 2
  | .wake _ _ | .sev _ | .redadd _ _ _ _ _ _ _ _ _ => 0

/-- The latest rank of what a task holds: a publication performs it together, in issue order (R115; log 100). -/
def Task.heldRank (t : Task) : Nat := (t.held.map Held.rank).foldl Nat.max 0

/-- When a core's sequencers issue in a cycle, so that the updates of one object come as R114 orders them: first where its task
holds completions alone, then as BEXPECT comes, after those where its control stream stands at a BARRIVE or its task holds one, and
last where it stands at a WFE. -/
def State.issueRank (s : State) (c : CoreId) : Nat :=
  let held := ((s.taskOn c).map Task.heldRank).getD 0
  if s.awaits c then 3
  else match (s.core c).head .ctl with
    | some (_, _, .ok (.barrive _)) => 2
    | _ => if held = 1 then 0 else if held = 3 then 2 else 1

/-- The issue turns of a core. -/
def issueTurns (c : CoreId) : List Turn := [Seq.ctl, .ld, .cmp, .st].map (Turn.issueOf c)

/-- The issue turns of the cores of a rank. -/
def issuesOf (s : State) (cs : List CoreId) (rank : Nat) : List Turn :=
  (cs.filter fun c => s.issueRank c == rank).flatMap issueTurns

/-- The turns in which the commands of all cores retire, engine by engine, and bulk copies complete, in the order of their
BTEs (R114). -/
def retireTurns (s : State) (cs : List CoreId) : List Turn :=
  ([Engine.load, .vector, .matrix, .store].flatMap fun e => cs.map fun c => Turn.ofEngine .commandRetirement c e)
    ++ (List.range 96).flatMap fun n =>
      (s.bulks.filter fun b => decide (b.2.till ≤ s.cycle) && 24 * (dieOf b.2.core).val + b.2.bte == n).map fun b =>
        Turn.ofNum .bcopyComplete b.1

/-- The turns of a core between its retirements and its issues; `stops` are the inputs of the cycle that may stop it. A fault
of the cycle wins over a halving, a stop and a request (R376). -/
def coreTurns (s : State) (stops : List Turn) (c : CoreId) : List Turn :=
  let spent := ((s.taskOn c).map (·.tleft)) == some 0
  let armed := (s.die (dieOf c)).bps.toList.any (·.getLsbD 0)
  let request := stops.any fun t => t.instr == .preemptingRequest
  [Turn.ofCore .faultDelivery c]
    ++ [Engine.load, .vector, .matrix, .store].map (Turn.ofEngine .commandStart c)
    ++ dueTurn (s.core c).goes (Turn.headsOf c ((s.core c).mode != .run) (spent || armed || !stops.isEmpty) request)
    ++ dueTurn spent (Turn.ofCore .timeAllowanceExpiry c)
    ++ dueTurn armed (Turn.ofCore .breakpointHit c)

/-- The tasks that run on beneath and hold completions alone retire before the issues of their cycle (R114). -/
def earlyRetirements (s : State) (c : CoreId) : List Turn :=
  ((s.core c).under.filter fun u => ((mget u.task s.tasks).map Task.heldRank) == some 1).map fun u =>
    { Turn.ofCore .taskRetirement c with a := u.task }

/-- The turns of a core after every issue; planes swap in a cycle that finds END and the STOPs issued (R309). -/
def coreLate (s : State) (c : CoreId) : List Turn :=
  let k := s.core c
  dueTurn (k.ended && (k.seq .ld).stopped && (k.seq .cmp).stopped && (k.seq .st).stopped) (Turn.ofCore .overlaySwap c)
    ++ k.under.map (fun u => { Turn.ofCore .taskRetirement c with a := u.task })
    ++ [Turn.ofCore .contextSaveComplete c, Turn.ofCore .debugCut c]
    ++ dueTurn (k.task.isSome && decide (65536 ≤ s.cycle - k.flushed)) (Turn.ofCore .accountFlush c)

/-- The event of the packet at the head of a slot. -/
def packetEvent (ty : Nat) : Instr :=
  match ty with
  | 2 => .wait
  | 3 => .signal
  | 4 => .reside
  | 5 => .note
  | _ => .launch

/-- The turns of a slot, in the order of R294's rows. -/
def slotTurns (s : State) (d : DieId) (i : Fin 256) : List Turn :=
  let x := (s.die d).slots.get i
  let us := s.cycle % Config.cyclesPerUs == 0
  if x.state = 0 then []
  else
    dueTurn (x.state == 4 || x.leaves.isSome || decide ((s.die d).nslot ≤ i.val)
          || (x.state == 1 && x.ridx == x.widx && decide (s.idleUs d x ≤ s.sinceBell x)))
        (Turn.ofSlot .idleTimeout d i)
      ++ dueTurn (x.state == 3 && !x.far) (Turn.ofSlot .waitSatisfied d i)
      ++ dueTurn (x.state == 3 && x.far && us) (Turn.ofSlot .sigfarPoll d i)
      ++ dueTurn (x.state == 1 && x.ridx != x.widx && decide (x.readyAt ≤ s.cycle))
          (Turn.ofSlot (packetEvent (fld (s.packet x) 0 8)) d i)
      ++ dueTurn (us && x.written != x.ridx) (Turn.ofSlot .ridxWriteback d i)

/-- The turns of a Helm core's failure without heartbeat, takeover and self-test (R410, R411, R414). -/
def helmTurns (s : State) (d : DieId) : List Turn :=
  let x := s.die d
  ((x.takeover.filter fun e => decide (e.2 ≤ s.cycle)).map fun e => { Turn.ofDie .helmCoreFailure d with a := e.1.val })
    ++ (((List.finRange 3).filter fun i => (x.helm.get i).status == 5
      && decide (silentCycles ≤ s.cycle - (x.helm.get i).beat)).map fun i => { Turn.ofDie .helmCoreFailure d with a := i.val })
    ++ ((List.finRange 3).filter fun i => (x.helm.get i).status == 3
      && decide (cyclesPerSecond ≤ s.cycle - (x.helm.get i).since)).map fun i =>
        { Turn.ofDie .helmSelfTestTimeout d with a := i.val }

/-- The turns of a die after every issue. -/
def dieTurns (s : State) (d : DieId) : List Turn :=
  let x := s.die d
  dueTurn (!x.pendOrder.isEmpty) (Turn.ofDie .queueMapping d) ++ (List.finRange 256).flatMap (slotTurns s d) ++ helmTurns s d
    ++ dueTurn (x.trace.openW) (Turn.ofDie .traceTimeRecord d)
    ++ dueTurn (x.trace.openW && x.trace.sper != 0 && s.cycle % x.trace.sper == 0) (Turn.ofDie .traceSample d)
    ++ dueTurn (s.cycle % (86400 * cyclesPerSecond) == 0) (Turn.ofDie .scrubPass d)

/-- The turns of tasks that wait for time (R206, R301). -/
def taskTurns (s : State) : List Turn :=
  s.tasks.flatMap fun t =>
    dueTurn (match t.2.standing with
      | .parked 2 time => decide (time ≤ s.timeUs)
      | _ => false) (Turn.ofNum .timeParkExpiry t.1)
      ++ dueTurn (t.2.standing == .queued && decide (t.2.aged < (s.timeUs - t.2.ready) / 65536)) (Turn.ofNum .ageingStep t.1)

/-- The turns of the residency engine (R78, R80, R81). -/
def pageTurns (s : State) : List Turn :=
  (s.contexts.flatMap fun x =>
    dueTurn ((x.2.state == 3 || x.2.state == 4) && x.2.waket != 0 && decide (x.2.waket ≤ s.timeUs + s.recallLead x.1 x.2))
        (Turn.ofNum .recallLeadExpiry x.1)
      ++ dueTurn (!x.2.plan.isEmpty || (s.migration x.1 x.2).isSome) (Turn.ofNum .pageMoveStart x.1))
    ++ (s.moves.filter fun m => decide (m.2.till ≤ s.cycle)).map fun m => Turn.ofNum .pageMoveComplete m.1

/-- The turns of the package: keys, heat and power (R357 to R360, R421). -/
def packageTurns (s : State) : List Turn :=
  dueTurn (s.keyBusy && decide (s.keyStart + 1 + Config.latency s.keyStart ≤ s.cycle)) (Turn.of .keyCommandDone)
    ++ dueTurn (s.cycle % (1000 * Config.cyclesPerUs) == 0) (Turn.of .plimTakesEffect)
    ++ dueTurn (if s.hot then decide (s.tmax.toNat < 100) else decide (105 ≤ s.tmax.toNat)) (Turn.of .heatGating)
    ++ dueTurn (s.cycle % Config.cyclesPerUs == 0) (Turn.of .telemetrySample)
    ++ dueTurn (s.cycle % Config.cyclesPerUs == 0) (Turn.of .powerGatingStep)
    ++ [0, 1, 2].flatMap fun i => dueTurn (s.trips i) (Turn.ofNum .trip i)

/-- The turns of a cycle, with the inputs `ins` of the outside (log 1). -/
def turnsOf (ins : List Turn) (s : State) : List Turn :=
  let cs := (List.finRange 288).filter fun c => !s.rests c
  let late := ins.filter isLate
  let stops := ins.filter fun t => isStopping t.instr
  let early := ins.filter fun t => !isLate t && !isStopping t.instr
  if s.railsOff then early ++ stops ++ late
  else
    ((List.finRange 4).filter fun d => match (s.die d).accT with
        | some t => decide (t ≤ s.cycle)
        | none => false).map (Turn.ofDie .accountingSampleDone)
      ++ early
      ++ (s.preempts.filter fun p => !p.ovfl && decide (p.deadline.getD (s.cycle + 1) ≤ s.cycle)).map
        (fun p => Turn.ofNum .preemptOverrun p.team)
      ++ cs.map (Turn.ofCore .resultLands) ++ retireTurns s cs ++ cs.flatMap (earlyRetirements s)
      ++ cs.flatMap (coreTurns s stops) ++ stops ++ [0, 1, 2, 3].flatMap (issuesOf s cs) ++ late ++ cs.flatMap (coreLate s)
      ++ dueTurn (!s.tasks.isEmpty) (Turn.of .dispatch) ++ taskTurns s ++ pageTurns s ++ (List.finRange 4).flatMap (dieTurns s)
      ++ packageTurns s

/-- The inputs that are due. -/
def State.dueInputs (s : State) : List Turn := (s.inputs.filter fun x => decide (x.1 ≤ s.cycle)).map (·.2)

/-- A cycle ends and the next begins: triggers of trace windows take effect, CYCLE advances, the cores and the package
take what time brings them, and the agenda is filled (R13, R320). While the rails are off, only the outside acts
(R421). -/
def nextCycle (s : State) : State :=
  let s := (List.finRange 4).foldl (fun s d => traceTick d s) s
  let s := (List.finRange 4).foldl (fun s d => helmCycle d s) (bootRom { s with cycle := s.cycle + 1, mended := [] })
  let s := if s.railsOff then s else (List.finRange 288).foldl (fun s c => beginCore c s) (settleAll (evictAll (dropParity s)))
  let ins := s.dueInputs
  { s with inputs := s.inputs.filter (fun x => !decide (x.1 ≤ s.cycle)), agenda := turnsOf ins s }

end Sys2Proof.Machine
end

