-- ==== Sys2Proof/Machine/Load.lean ====
section
/-! DEFINITION. A program loaded from outside the machine (log 14): one instruction word at position 0 of its stream, in a
task that holds core 0 and issues next. -/

namespace Sys2Proof.Machine

/-- A context entry as system software makes it, with a running task and every register zero (R22). -/
def Context.blank : Context := { Context.free with state := 1, lteam := 1 }

/-- A record of a context and a team, with the least partition and the greatest time allowance (R26, R56). -/
def TaskRec.blank (ctx team : Nat) : TaskRec where
  ctx := ctx
  team := team
  depth := 0
  cls := 0
  gang := false
  resume := false
  ndim := 1
  hord := 0
  img := 0
  rimg := 0
  lo := #v[0, 0, 0]
  hi := #v[1, 0, 0]
  gr := #v[1, 1, 1]
  areg := 0
  aspd := 0
  part := 0
  awr := 0
  atime := 2 ^ 32 - 1
  leases := []

/-- A task that holds a core. -/
def Task.blank (r : TaskRec) (c : CoreId) : Task where
  record := r
  dmr := 0
  dmrNext := none
  standing := .running c
  ready := 0
  inherited := 7
  aged := 0
  event := false
  pinned := false
  phased := false
  arrived := none
  epochs := []
  held := []
  tleft := r.atime
  leased := []
  grants := []
  phaseBar := none
  bcopies := 0
  charged := 0
  csig := 0
  regRun := false
  stops := []
  half := false

/-- A team of one live task. -/
def Team.blank (ctx : Nat) : Team := ⟨ctx, 1, 1, 0, none, false, .pkg, false, 0, 0, 0, false, none⟩

/-- The sequencer whose stream holds a kind of word (R29). -/
def streamOf : WordKind → Seq
  | .ctl => .ctl
  | .ld => .ld
  | .st => .st
  | .vec | .mat => .cmp

/-- A plane whose one stream holds a word at position 0 (R145). -/
def planeOf (kind : WordKind) (w : Nat) : Plane :=
  let p : BitVec 96 := BitVec.ofNat 96 w
  match kind with
  | .ctl => { Plane.empty with ctl := [BitVec.ofNat 32 w] }
  | .ld => { Plane.empty with ld := [p] }
  | .st => { Plane.empty with st := [p] }
  | .vec => { Plane.empty with cmp := [p] }
  | .mat => { Plane.empty with cmp := [BitVec.ofNat 96 (w / 2 ^ 96), p] }

/-- The stores of a word: core 0 runs a new task of context 1 whose stream holds it, the other streams have stopped, and its
sequencer's turn is next. -/
def loadWord (nbits w : Nat) (s : State) : State :=
  let kind := tableKind nbits w
  let q := streamOf kind
  let tid := s.nextTask
  let team := s.nextTeam
  let x := (mget 1 s.contexts).getD Context.blank
  let idle (r : Seq) : Sequencer := { Sequencer.fresh with stopped := r != q }
  { s with
    agenda := [Turn.issueOf 0 q]
    nextTask := tid + 1
    nextTeam := team + 1
    contexts := mput 1 x s.contexts
    teams := mput team (Team.blank 1) s.teams
    tasks := mput tid (Task.blank (TaskRec.blank 1 team) 0) s.tasks
  }.onCore 0 fun k => { k with
    task := some tid
    mode := .run
    plane := planeOf kind w
    seqs := #v[idle .ctl, idle .ld, idle .cmp, idle .st]
    faults := []
    faultAt := none }

end Sys2Proof.Machine
end

