-- ==== Sys2Proof/Machine/Step.lean ====
section
/-! DEFINITION. One step: the next turn of the agenda, or the passage of a cycle (log 1). -/

namespace Sys2Proof.Machine

/-- The state in which a turn is taken. -/
def State.takes (s : State) (t : Turn) (rest : List Turn) : State := { s with cur := t, agenda := rest }

/-- One step of the package: with an empty agenda a cycle passes; a sequencer's turn issues; an event or a started command
acts. -/
def step (s : State) : Host.Outcome State Fault Refusal :=
  match s.agenda with
  | [] => .next (nextCycle s)
  | t :: rest =>
    match t.kind with
    | .issue => issueTurn (s.takes t rest)
    | .heads => .next (headsTurn (s.takes t rest))
    | .act | .perform => exec t.instr (s.takes t rest)

/-- The state with an instruction word where the very next step fetches it (log 14). -/
def State.withFetchWord (s : State) (nbits w : Nat) : State := loadWord nbits w s

end Sys2Proof.Machine
end

