-- ==== Sys2Proof/Safety.lean ====
section
/-! DEFINITION. What counts as a safe run, and the terms in which claims speak: completion, frames, and the results that
the tables of the spec give, written as arithmetic on numbers. -/

namespace Sys2Proof.Machine

/-! ## Completion and frames -/

/-- An instruction or event is carried out in a state, and `Q` holds of the state it leaves: exec answers a next state,
neither a fault nor a refusal. -/
def Completes (i : Instr) (s : State) (Q : State → Prop) : Prop := ∃ t, exec i s = .next t ∧ Q t

/-- The turn is one in which the acting sequencer issues. -/
def State.Issuing (s : State) : Prop := s.cur.kind = .issue

/-- Every core but the acting one is unchanged. -/
def OtherCores (s t : State) : Prop := ∀ c, c ≠ s.cur.core → t.core c = s.core c

/-- Nothing of the package is changed but the acting core: not one byte of memory, no task, no context, no other core. -/
def OnlyMyCore (s t : State) : Prop :=
  t = { s with cores := t.cores } ∧ OtherCores s t ∧ ∀ a, rdByte t.mem a = rdByte s.mem a

/-- Of a core, only its registers with exposed latency and its sequencers may differ: not its pool, its tokens, its
guards, its queues, its special registers. -/
def OnlyRegisters (j k : Core) : Prop :=
  k = { j with x := k.x, f := k.f, b := k.b, bAt := k.bAt, bWild := k.bWild, h := k.h, slots := k.slots, pending := k.pending, seqs := k.seqs }

/-- Of a core's sequencers only `q` may differ. -/
def OnlySeq (q : Seq) (j k : Core) : Prop := ∀ r, r ≠ q → k.seq r = j.seq r

/-- Every register but the destination reads as before. -/
def OtherRegisters (d : Dest) (j k : Core) : Prop :=
  (∀ r, (∀ v, d ≠ .x r v) → k.xr r = j.xr r) ∧ (∀ r, (∀ v, d ≠ .f r v) → k.fr r = j.fr r)
    ∧ (∀ r, (∀ v, d ≠ .b r v) → k.b.get r = j.b.get r) ∧ (∀ r, (∀ v, d ≠ .h r v) → k.h.get r = j.h.get r)
    ∧ (∀ r, (∀ v, d ≠ .slot r v) → k.slots.get r = j.slots.get r)

/-- The register that `d` names holds the value of `d`; x0 holds zero and f0 true, whatever `d` says (R9, R173). -/
def Core.Holds (k : Core) : Dest → Prop
  | .x r v => k.xr r = if r = 0 then 0 else v
  | .f r v => k.fr r = if r = 0 then true else v
  | .b r v => k.b.get r = v
  | .h r v => k.h.get r = v
  | .slot r v => (k.slots.get r).phase = v

/-- The register that `d` names reads as before. -/
def SameAt (d : Dest) (j k : Core) : Prop :=
  match d with
  | .x r _ => k.xr r = j.xr r
  | .f r _ => k.fr r = j.fr r
  | .b r _ => k.b.get r = j.b.get r
  | .h r _ => k.h.get r = j.h.get r
  | .slot r _ => (k.slots.get r).phase = (j.slots.get r).phase

/-- No write of a register is in flight. -/
def Core.Quiet (k : Core) (d : Dest) : Prop := ∀ p ∈ k.pending, p.dest.same d = false

/-! ## Results of the integer instructions (R175 to R180) -/

/-- The eight bytes of a doubleword in reverse order. -/
def swap8 (a : Dword) : Dword :=
  a.extractLsb' 0 8 ++ a.extractLsb' 8 8 ++ a.extractLsb' 16 8 ++ a.extractLsb' 24 8 ++ a.extractLsb' 32 8
    ++ a.extractLsb' 40 8 ++ a.extractLsb' 48 8 ++ a.extractLsb' 56 8

/-- The result and exposed latency of the two-operand integer instructions but division (R171, R175). -/
def arithRule (k : Core) : Instr → Option (Dest × Nat)
  | .add d a b => some (.x d (BitVec.ofNat 64 ((k.xr a).toNat + (k.xr b).toNat)), 1)
  | .sub d a b => some (.x d (BitVec.ofInt 64 ((k.xr a).toInt - (k.xr b).toInt)), 1)
  | .and d a b => some (.x d (k.xr a &&& k.xr b), 1)
  | .or d a b => some (.x d (k.xr a ||| k.xr b), 1)
  | .xor d a b => some (.x d (k.xr a ^^^ k.xr b), 1)
  | .andn d a b => some (.x d (k.xr a &&& ~~~k.xr b), 1)
  | .sll d a b => some (.x d (BitVec.ofNat 64 ((k.xr a).toNat * 2 ^ ((k.xr b).toNat % 64))), 1)
  | .srl d a b => some (.x d (BitVec.ofNat 64 ((k.xr a).toNat / 2 ^ ((k.xr b).toNat % 64))), 1)
  | .sra d a b => some (.x d (BitVec.ofInt 64 ((k.xr a).toInt / (2 ^ ((k.xr b).toNat % 64) : Nat))), 1)
  | .rol d a b => some (.x d ((k.xr a <<< ((k.xr b).toNat % 64)) ||| (k.xr a >>> (64 - (k.xr b).toNat % 64))), 1)
  | .ror d a b => some (.x d ((k.xr a >>> ((k.xr b).toNat % 64)) ||| (k.xr a <<< (64 - (k.xr b).toNat % 64))), 1)
  | .mul d a b => some (.x d (BitVec.ofNat 64 ((k.xr a).toNat * (k.xr b).toNat)), 3)
  | .mulh d a b => some (.x d ((BitVec.ofInt 128 ((k.xr a).toInt * (k.xr b).toInt)).extractLsb' 64 64), 3)
  | .mulhn d a b => some (.x d ((BitVec.ofNat 128 ((k.xr a).toNat * (k.xr b).toNat)).extractLsb' 64 64), 3)
  | .min d a b => some (.x d (BitVec.ofInt 64 (Min.min (k.xr a).toInt (k.xr b).toInt)), 1)
  | .max d a b => some (.x d (BitVec.ofInt 64 (Max.max (k.xr a).toInt (k.xr b).toInt)), 1)
  | .minn d a b => some (.x d (BitVec.ofNat 64 (Nat.min (k.xr a).toNat (k.xr b).toNat)), 1)
  | .maxn d a b => some (.x d (BitVec.ofNat 64 (Nat.max (k.xr a).toNat (k.xr b).toNat)), 1)
  | _ => none

/-- The result and exposed latency of the divisions, with their corners (R171, R175, R176). -/
def divRule (k : Core) : Instr → Option (Dest × Nat)
  | .div d a b => some (.x d (if k.xr b = 0 then BitVec.ofInt 64 (-1)
      else BitVec.ofInt 64 ((k.xr a).toInt.tdiv (k.xr b).toInt)), 10)
  | .divn d a b => some (.x d (if k.xr b = 0 then BitVec.ofNat 64 (2 ^ 64 - 1)
      else BitVec.ofNat 64 ((k.xr a).toNat / (k.xr b).toNat)), 10)
  | .rem d a b => some (.x d (if k.xr b = 0 then k.xr a
      else BitVec.ofInt 64 ((k.xr a).toInt - (k.xr a).toInt.tdiv (k.xr b).toInt * (k.xr b).toInt)), 10)
  | .remn d a b => some (.x d (if k.xr b = 0 then k.xr a
      else BitVec.ofNat 64 ((k.xr a).toNat - (k.xr a).toNat / (k.xr b).toNat * (k.xr b).toNat)), 10)
  | _ => none

/-- The result of the unary integer instructions (R175). -/
def unaryRule (k : Core) : Instr → Option (Dest × Nat)
  | .clz d a => some (.x d (BitVec.ofNat 64 (((List.range 64).find? fun i => (k.xr a).getLsbD (63 - i)).getD 64)), 1)
  | .ctz d a => some (.x d (BitVec.ofNat 64 (((List.range 64).find? fun i => (k.xr a).getLsbD i).getD 64)), 1)
  | .popc d a => some (.x d (BitVec.ofNat 64 ((List.range 64).countP fun i => (k.xr a).getLsbD i)), 1)
  | .sextB d a => some (.x d (BitVec.ofInt 64 (sextN 8 ((k.xr a).toNat % 2 ^ 8))), 1)
  | .sextH d a => some (.x d (BitVec.ofInt 64 (sextN 16 ((k.xr a).toNat % 2 ^ 16))), 1)
  | .sextW d a => some (.x d (BitVec.ofInt 64 (sextN 32 ((k.xr a).toNat % 2 ^ 32))), 1)
  | .zextB d a => some (.x d (BitVec.ofNat 64 ((k.xr a).toNat % 2 ^ 8)), 1)
  | .zextH d a => some (.x d (BitVec.ofNat 64 ((k.xr a).toNat % 2 ^ 16)), 1)
  | .zextW d a => some (.x d (BitVec.ofNat 64 ((k.xr a).toNat % 2 ^ 32)), 1)
  | .bswap d a => some (.x d (swap8 (k.xr a)), 1)
  | _ => none

/-- The result and exposed latency of the immediate forms (R171, R177, R178). -/
def immRule (k : Core) : Instr → Option (Dest × Nat)
  | .addi d a imm => some (.x d (BitVec.ofInt 64 ((k.xr a).toInt + imm.toInt)), 1)
  | .andi d a imm => some (.x d (k.xr a &&& BitVec.ofInt 64 imm.toInt), 1)
  | .ori d a imm => some (.x d (k.xr a ||| BitVec.ofInt 64 imm.toInt), 1)
  | .xori d a imm => some (.x d (k.xr a ^^^ BitVec.ofInt 64 imm.toInt), 1)
  | .muli d a imm => some (.x d (BitVec.ofInt 64 ((k.xr a).toInt * imm.toInt)), 3)
  | .slli d a n => some (.x d (BitVec.ofNat 64 ((k.xr a).toNat * 2 ^ n.val)), 1)
  | .srli d a n => some (.x d (BitVec.ofNat 64 ((k.xr a).toNat / 2 ^ n.val)), 1)
  | .srai d a n => some (.x d (BitVec.ofInt 64 ((k.xr a).toInt / (2 ^ n.val : Nat))), 1)
  | .rori d a n => some (.x d ((k.xr a >>> n.val) ||| (k.xr a <<< (64 - n.val))), 1)
  | .li d imm => some (.x d (BitVec.ofInt 64 imm.toInt), 1)
  | .lhi d imm => some (.x d (BitVec.ofNat 64 (imm.toNat * 2 ^ 44 + (k.xr d).toNat % 2 ^ 44)), 1)
  | _ => none

/-- The flag that a compare or the flag logic writes (R179, R180). -/
def flagRule (k : Core) : Instr → Option (Dest × Nat)
  | .cmpEq d a b => some (.f d (decide ((k.xr a).toNat = (k.xr b).toNat)), 1)
  | .cmpNe d a b => some (.f d (decide ((k.xr a).toNat ≠ (k.xr b).toNat)), 1)
  | .cmpLt d a b => some (.f d (decide ((k.xr a).toInt < (k.xr b).toInt)), 1)
  | .cmpGe d a b => some (.f d (decide ((k.xr b).toInt ≤ (k.xr a).toInt)), 1)
  | .cmpLtn d a b => some (.f d (decide ((k.xr a).toNat < (k.xr b).toNat)), 1)
  | .cmpGen d a b => some (.f d (decide ((k.xr b).toNat ≤ (k.xr a).toNat)), 1)
  | .cmpLe d a b => some (.f d (decide ((k.xr a).toInt ≤ (k.xr b).toInt)), 1)
  | .cmpGt d a b => some (.f d (decide ((k.xr b).toInt < (k.xr a).toInt)), 1)
  | .cmpLen d a b => some (.f d (decide ((k.xr a).toNat ≤ (k.xr b).toNat)), 1)
  | .cmpGtn d a b => some (.f d (decide ((k.xr b).toNat < (k.xr a).toNat)), 1)
  | .cmpiEq d a imm => some (.f d (decide ((k.xr a).toInt = imm.toInt)), 1)
  | .cmpiNe d a imm => some (.f d (decide ((k.xr a).toInt ≠ imm.toInt)), 1)
  | .cmpiLt d a imm => some (.f d (decide ((k.xr a).toInt < imm.toInt)), 1)
  | .cmpiGe d a imm => some (.f d (decide (imm.toInt ≤ (k.xr a).toInt)), 1)
  | .cmpiLtn d a imm => some (.f d (decide ((k.xr a).toNat < codeN 64 imm.toInt)), 1)
  | .cmpiGen d a imm => some (.f d (decide (codeN 64 imm.toInt ≤ (k.xr a).toNat)), 1)
  | .cmpiLe d a imm => some (.f d (decide ((k.xr a).toInt ≤ imm.toInt)), 1)
  | .cmpiGt d a imm => some (.f d (decide (imm.toInt < (k.xr a).toInt)), 1)
  | .cmpiLen d a imm => some (.f d (decide ((k.xr a).toNat ≤ codeN 64 imm.toInt)), 1)
  | .cmpiGtn d a imm => some (.f d (decide (codeN 64 imm.toInt < (k.xr a).toNat)), 1)
  | .fand d a b => some (.f d (decide (k.fr a = true ∧ k.fr b = true)), 1)
  | .forF d a b => some (.f d (decide (k.fr a = true ∨ k.fr b = true)), 1)
  | .fxor d a b => some (.f d (decide (k.fr a ≠ k.fr b)), 1)
  | .fandn d a b => some (.f d (decide (k.fr a = true ∧ k.fr b = false)), 1)
  | .fnot d a => some (.f d (decide (k.fr a = false)), 1)
  | _ => none

/-- The result and exposed latency of an instruction that computes on registers alone. -/
def resultRule (k : Core) (i : Instr) : Option (Dest × Nat) :=
  arithRule k i <|> divRule k i <|> unaryRule k i <|> immRule k i <|> flagRule k i

/-! ## Fields of a handle (R60, R195) -/

/-- The lowest bit and the width of a handle's field (R60). -/
def fieldBits : HField → Nat × Nat
  | .buf => (0, 20) | .off => (20, 44) | .spc => (64, 1) | .hint => (65, 3) | .fmt => (68, 6) | .n0 => (80, 16)
  | .n1 => (96, 16) | .n2 => (112, 16) | .s1 => (128, 24) | .s2 => (152, 24) | .cur => (176, 32) | .xv => (208, 16)
  | .gsz => (224, 2) | .glay => (226, 1)

/-- S1, S2 and CUR are signed (R195). -/
def fieldSigned : HField → Bool
  | .s1 | .s2 | .cur => true
  | .buf | .off | .spc | .hint | .fmt | .n0 | .n1 | .n2 | .xv | .gsz | .glay => false

/-- The field of a handle as a number. -/
def Handle.field (h : Handle) (f : HField) : Nat := fld h.toNat (fieldBits f).1 (fieldBits f).2

/-- The value that HGETF reads (R195). -/
def Handle.reading (h : Handle) (f : HField) : Dword :=
  if fieldSigned f then BitVec.ofInt 64 (sextN (fieldBits f).2 (h.field f)) else BitVec.ofNat 64 (h.field f)

/-! ## The pool of a core as bytes (R56) -/

/-- A byte of the pool lies outside the `n` bytes from scratchpad offset `off`. -/
def Core.Outside (k : Core) (off n a : Nat) : Prop := a < k.spadBase + off ∨ k.spadBase + off + n ≤ a

/-- The pool of `k` is that of `j` but for the `n` bytes from scratchpad offset `off`. -/
def PoolElsewhere (off n : Nat) (j k : Core) : Prop := ∀ a, j.Outside off n a → rdByte k.pool a = rdByte j.pool a

/-- Of a core, only its pool, its stack pointer and trap depth and its sequencers may differ. -/
def OnlyPool (j k : Core) : Prop := k = { j with pool := k.pool, sp := k.sp, tdep := k.tdep, seqs := k.seqs }

/-! ## Transfers of control (R181 to R186) -/

/-- What a sequencer that has issued a transfer at position `p` does: the three instructions that follow it issue, and then
the target, or the fourth one, at cycle `cyc` at the earliest (R182, R183). -/
def DelaySlots (p : Nat) (target : Option Nat) (cyc : Nat) (q : Sequencer) : Prop :=
  q.pos = p + 1 ∧ (q.past 1).pos = p + 2 ∧ ((q.past 1).past 1).pos = p + 3
    ∧ (((q.past 1).past 1).past 1).pos = target.getD (p + 4) ∧ (((q.past 1).past 1).past 1).target = cyc
    ∧ (((q.past 1).past 1).past 1).delay = none

/-- The cycle in which the target in a branch-target register issues (R183). -/
def State.takenCycle (s : State) (b : BReg) : Nat :=
  match s.me.bAt.get b with
  | some p => Nat.max (s.cycle + 4) (p + 8)
  | none => s.cycle + 4

/-- The target, if the transfer is taken, and the cycle of what follows the delay slots (R181, R183). J to a position below
0 counts modulo 2^64, the model's choice (log 79). -/
def transferRule (s : State) : Instr → Option (Option Nat × Nat)
  | .j imm => some (some (codeN 64 ((s.pos : Int) + imm.toInt)), s.cycle + 4)
  | .br b f => some (if s.me.fr f = true then (some (s.me.target b), s.takenCycle b) else (none, s.cycle + 4))
  | .brNot b f => some (if s.me.fr f = false then (some (s.me.target b), s.takenCycle b) else (none, s.cycle + 4))
  | _ => none

/-- A step of the stack pointer to `sp` stays within [SPL, SPB] (R184). -/
def Core.StackRange (k : Core) (sp : Int) : Prop := (k.spl.toNat : Int) ≤ sp ∧ sp ≤ k.spb.toNat

/-! ## Interlocked results (R172) -/

/-- An instruction leaves one interlocked result outstanding, which lands `least` cycles on or later, and moves on. -/
def Awaits (s t : State) (least : Nat) (d : Dest) : Prop :=
  (∃ due, s.cycle + least ≤ due ∧ t.me.pending = s.me.pending ++ [⟨d, due, true, false⟩])
    ∧ t.me.seq s.cur.seq = (s.me.seq s.cur.seq).past 1 ∧ OnlySeq s.cur.seq s.me t.me

/-- Of the package, only the acting core and the counter of free values change. -/
def OnlyMyCoreTicks (s t : State) : Prop :=
  t = { s with cores := t.cores, free := t.free } ∧ OtherCores s t ∧ ∀ a, rdByte t.mem a = rdByte s.mem a

/-! ## The scratchpad instructions (R187, R189, R190) -/

/-- The access of a scratchpad instruction or of a load or store whose handle names the scratchpad: its size, its exact byte
offset, and its register; `none` for another instruction (R7, R187, R189). -/
def spadLoad (k : Core) : Instr → Option (Nat × Int × XReg)
  | .ldsB d a imm => some (1, (k.xr a).toNat + imm.toInt, d)
  | .ldsH d a imm => some (2, (k.xr a).toNat + imm.toInt * 2, d)
  | .ldsW d a imm => some (4, (k.xr a).toNat + imm.toInt * 4, d)
  | .ldsD d a imm => some (8, (k.xr a).toNat + imm.toInt * 8, d)
  | .ldB d h a imm => if (k.h.get h).spc then some (1, (k.h.get h).off.toNat + (k.xr a).toNat + imm.toInt, d) else none
  | .ldH d h a imm => if (k.h.get h).spc then some (2, (k.h.get h).off.toNat + (k.xr a).toNat + imm.toInt * 2, d) else none
  | .ldW d h a imm => if (k.h.get h).spc then some (4, (k.h.get h).off.toNat + (k.xr a).toNat + imm.toInt * 4, d) else none
  | .ldD d h a imm => if (k.h.get h).spc then some (8, (k.h.get h).off.toNat + (k.xr a).toNat + imm.toInt * 8, d) else none
  | _ => none

/-- The same of the stores. -/
def spadStore (k : Core) : Instr → Option (Nat × Int × XReg)
  | .stsB d a imm => some (1, (k.xr a).toNat + imm.toInt, d)
  | .stsH d a imm => some (2, (k.xr a).toNat + imm.toInt * 2, d)
  | .stsW d a imm => some (4, (k.xr a).toNat + imm.toInt * 4, d)
  | .stsD d a imm => some (8, (k.xr a).toNat + imm.toInt * 8, d)
  | .stB d h a imm => if (k.h.get h).spc then some (1, (k.h.get h).off.toNat + (k.xr a).toNat + imm.toInt, d) else none
  | .stH d h a imm => if (k.h.get h).spc then some (2, (k.h.get h).off.toNat + (k.xr a).toNat + imm.toInt * 2, d) else none
  | .stW d h a imm => if (k.h.get h).spc then some (4, (k.h.get h).off.toNat + (k.xr a).toNat + imm.toInt * 4, d) else none
  | .stD d h a imm => if (k.h.get h).spc then some (8, (k.h.get h).off.toNat + (k.xr a).toNat + imm.toInt * 8, d) else none
  | _ => none

/-- `off` is the scratchpad offset of an access of `n` bytes, and the access lies within the region. -/
def Core.SpadAccess (k : Core) (addr : Int) (n off : Nat) : Prop :=
  (off : Int) = addr ∧ off + n ≤ k.spadSize

/-- The access leaves the region: its offset is negative, or its last byte lies beyond it. -/
def Core.SpadMiss (k : Core) (addr : Int) (n : Nat) : Prop :=
  addr < 0 ∨ (k.spadSize : Int) < addr + n

/-! ## Tokens and streams (R30, R31, R197, R239, R267) -/

/-- The queue of a TSIG and of a TWAIT. -/
def givesTo : Instr → Option QReg
  | .tsig q | .tsigLdSt q | .tsigCmp q => some q
  | _ => none
def takesFrom : Instr → Option QReg
  | .twait q | .twaitLdSt q | .twaitCmp q => some q
  | _ => none

/-- The tokens that a queue may hold in this cycle: its ring's slots but the one that its consumer held when the cycle
began, or 63 (R30, R31). -/
def Token.limit (t : Token) : Nat := if t.bound then t.depth - b2n t.wasHeld else 63

/-- Every token queue but `q` is as before. -/
def OtherTokens (q : QReg) (j k : Core) : Prop := ∀ r, r ≠ q → k.tok.get r = j.tok.get r

/-- A sequencer stays where it is and charges a cause: its core is unchanged. -/
def Waits (s t : State) (why : Cause) (sub : Nat) : Prop :=
  t = { s with cur := { s.cur with why := why, sub := sub } }

/-- An instruction moves its sequencer on by one position and touches no other. -/
def MovesOn (s t : State) : Prop := t.me.seq s.cur.seq = (s.me.seq s.cur.seq).past 1 ∧ OnlySeq s.cur.seq s.me t.me

/-- The five rows of stream control with an operand or none, by LD and ST or by CMP. -/
def opensLoop : Instr → Option Nat
  | .loops n | .loopsCmp n => some n.toNat
  | _ => none
def jumpsBy : Instr → Option Int
  | .jump off | .jumpCmp off => some off.toInt
  | _ => none

/-! ## Allocation (R200) -/

/-- The request, the limit and the count of an ALLOC in granules (R58, R200). -/
def Core.request (k : Core) (a : XReg) (imm : BitVec 14) : Nat := (((k.xr a).toNat + imm.toInt) % 2 ^ 64).toNat
def Core.limitS (k : Core) (t : Task) : Nat := Nat.min (k.bndb - k.bnda) t.record.aspd
def Core.limitV (k : Core) (t : Task) : Nat := Nat.min k.bnda t.record.areg

/-- The acting core runs task `tid`, which is `t`. -/
def State.Runs (s : State) (tid : Nat) (t : Task) : Prop := s.me.task = some tid ∧ mget tid s.tasks = some t

/-- Of the tasks only `tid` changes, to `u`. -/
def OneTask (s t : State) (tid : Nat) (u : Task) : Prop :=
  mget tid t.tasks = some u ∧ ∀ j, j ≠ tid → mget j t.tasks = mget j s.tasks

/-- A task holds some updates more, which issued at `stamp`, in their place in the order of issue (R115, R207). -/
def HoldsAlso (es : List Held) (stamp : Nat) (t v : Task) : Prop :=
  v = { t with held := v.held } ∧ ∃ before after, t.held = before ++ after ∧ v.held = before ++ es ++ after
    ∧ (∀ g ∈ before, g.stamp ≤ stamp) ∧ ∀ g ∈ after.head?, stamp < g.stamp

/-! ## Requests to memory (R187, R191, R380) -/

/-- A request: its buffer, exact byte offset, bytes, kind and MASK bit. -/
structure Ask where
  buf : Nat
  addr : Int
  n : Nat
  act : Acts
  mask : Nat

/-- The size, handle, index register, displacement and register of a control load, and of a control store (R187). -/
def loadOf : Instr → Option (Nat × HReg × XReg × Int × XReg)
  | .ldB d h a imm => some (1, h, a, imm.toInt, d)
  | .ldH d h a imm => some (2, h, a, imm.toInt * 2, d)
  | .ldW d h a imm => some (4, h, a, imm.toInt * 4, d)
  | .ldD d h a imm => some (8, h, a, imm.toInt * 8, d)
  | _ => none
def storeOf : Instr → Option (Nat × HReg × XReg × Int × XReg)
  | .stB d h a imm => some (1, h, a, imm.toInt, d)
  | .stH d h a imm => some (2, h, a, imm.toInt * 2, d)
  | .stW d h a imm => some (4, h, a, imm.toInt * 4, d)
  | .stD d h a imm => some (8, h, a, imm.toInt * 8, d)
  | _ => none

/-- The function number, bytes and operands of an atomic (R191). -/
def atomOf : Instr → Option (Nat × Nat × Atom)
  | .aaddW o => some (0, 4, o) | .aminW o => some (1, 4, o) | .amaxW o => some (2, 4, o) | .aminnW o => some (3, 4, o)
  | .amaxnW o => some (4, 4, o) | .aandW o => some (5, 4, o) | .aorW o => some (6, 4, o) | .axorW o => some (7, 4, o)
  | .aswpW o => some (8, 4, o) | .acasW o => some (9, 4, o) | .afaddW o => some (10, 4, o) | .aldW o => some (11, 4, o)
  | .astW o => some (12, 4, o)
  | .aaddD o => some (0, 8, o) | .aminD o => some (1, 8, o) | .amaxD o => some (2, 8, o) | .aminnD o => some (3, 8, o)
  | .amaxnD o => some (4, 8, o) | .aandD o => some (5, 8, o) | .aorD o => some (6, 8, o) | .axorD o => some (7, 8, o)
  | .aswpD o => some (8, 8, o) | .acasD o => some (9, 8, o) | .afaddD o => some (10, 8, o) | .aldD o => some (11, 8, o)
  | .astD o => some (12, 8, o)
  | _ => none

/-- What an atomic leaves in memory (R191): from the old value, v and x(d+1), of `w` bits. -/
def atomRule (fn w old v v2 : Nat) : Nat :=
  match fn with
  | 0 => (old + v) % 2 ^ w
  | 1 => if sextN w v < sextN w old then v else old
  | 2 => if sextN w old < sextN w v then v else old
  | 3 => Nat.min old v
  | 4 => Nat.max old v
  | 5 => old &&& v
  | 6 => old ||| v
  | 7 => old ^^^ v
  | 8 => v
  | 9 => if old = v then v2 % 2 ^ w else old
  | 10 => addElem (if w = 32 then .f32 else .f64) old v
  | 11 => old
  | _ => v

/-- The request that a control load, a control store or an atomic makes of a buffer; none for a handle of the
scratchpad. -/
def askOf (k : Core) (i : Instr) : Option Ask :=
  match loadOf i, storeOf i, atomOf i with
  | some (n, h, a, disp, _), _, _ =>
    if (k.h.get h).spc then none
    else some ⟨(k.h.get h).buf.toNat, (k.h.get h).off.toNat + (k.xr a).toNat + disp, n, .read, 0⟩
  | _, some (n, h, a, disp, _), _ =>
    if (k.h.get h).spc then none
    else some ⟨(k.h.get h).buf.toNat, (k.h.get h).off.toNat + (k.xr a).toNat + disp, n, .write, 1⟩
  | _, _, some (_, n, o) =>
    if (k.h.get o.h).spc then none
    else some ⟨(k.h.get o.h).buf.toNat, ((k.h.get o.h).off.toNat + (k.xr o.a).toNat : Nat) / n * n, n, .atomic, 1⟩
  | _, _, _ => none

/-- The outcome of the checks of R380 for a request of task `t` on the acting core. -/
def State.ask (s : State) (t : Task) (q : Ask) : Req :=
  s.check (dieOf s.cur.core) t q.buf q.addr q.n q.act q.mask false

/-- A byte of memory lies outside the head Chart entries of some leaves, which the device updates (R67, R92). -/
def OffLeaves (ls : List Leaf) (a : Nat) : Prop := ∀ l ∈ ls, a < t1 l.head ∨ t1 l.head + 16 ≤ a

/-- No error of the environment stands in memory or in an SRAM structure: every line passes its ECC and its check and was
written under the key that it is read under (R90, R91, R388, R391, R396). -/
def State.Clean (s : State) : Prop := s.failing = [] ∧ s.checks = [] ∧ s.flaws = [] ∧ s.lineKeys = []

/-- No error stands, and no line of some bytes in the pages `ls` is poisoned in a copy on the way of the acting core's task or
at its home (R389, R390). -/
def State.Sound (s : State) (t : Task) (ls : List Leaf) (ks : List Nat) : Prop :=
  s.Clean ∧ ∀ k ∈ ks, let l := tagLine ls (k / 64)
    s.isPoisoned l = false ∧ ∀ m ∈ s.ownLevels s.cur.core t ++ s.outerLevels s.cur.core (64 * l), l ∉ m.bad

/-- No line of some bytes in the pages `ls` lies dirty in a memory-side cache under another tag than its page's (R91). -/
def State.Unhidden (s : State) (ls : List Leaf) (ks : List Nat) : Prop := ∀ k ∈ ks, s.hidden (tagLine ls (k / 64)) = none

/-- No level on a core's path holds a published line that is not yet at home (R95). -/
def State.PathEmpty (s : State) (c : CoreId) : Prop :=
  (s.core c).dirty = Copies.none ∧ (s.cluster c).dirty = Copies.none ∧ (s.die (dieOf c)).dirty = Copies.none

/-- Some cells lie under one tag each line, so that no two of them are one byte of memory (R91). -/
def OneTag (cs : Cells) : Prop := ∀ x ∈ cs, ∀ y ∈ cs, bareLine (x.1 / 64) = bareLine (y.1 / 64) → x.1 / 64 = y.1 / 64

/-- A core's publication of some cells at package scope meets nothing on its way: no error, no dirty line of its path, and no
line that lies dirty in a memory-side cache under another tag. -/
def State.FreeWay (s : State) (c : CoreId) (cs : Cells) : Prop :=
  s.Clean ∧ s.PathEmpty c ∧ (∀ x ∈ cs, s.hidden (x.1 / 64) = none) ∧ OneTag cs ∧ risingFrom 0 cs = true ∧ s.mem.wf = true

/-- The cells are at home, and no other byte of memory has changed. -/
def WrittenHome (s u : State) (cs : Cells) : Prop :=
  (∀ x ∈ cs, rdByte u.mem (bare x.1) = x.2) ∧ (∀ a, (∀ x ∈ cs, bare x.1 ≠ a) → rdByte u.mem a = rdByte s.mem a)
    ∧ u.mem.wf = true

/-- What an acquire at a scope leaves on the acting core's path (R96, R102): the copies of the lines that `p` names by a byte
are gone from the cache region at a scope of cluster or wider, from the cluster cache at one of die or wider, from the
memory-side cache at one of package or wider; no dirty line is gone, and no other cluster or die differs. -/
def Acquired (s u : State) (scope : Nat) (p : Nat → Bool) : Prop :=
  (1 ≤ scope → u.me.view = s.me.view.dropLines (lineHas p) ∧ u.me.own = s.me.own.take (!p ·))
    ∧ (scope = 0 → u.me.view = s.me.view ∧ u.me.own = s.me.own)
    ∧ (2 ≤ scope → u.cluster s.cur.core = { s.cluster s.cur.core with
        clean := (s.cluster s.cur.core).clean.dropLines (lineHas p) })
    ∧ (scope < 2 → u.cluster s.cur.core = s.cluster s.cur.core)
    ∧ (3 ≤ scope → u.die (dieOf s.cur.core) = { s.die (dieOf s.cur.core) with
        clean := (s.die (dieOf s.cur.core)).clean.dropLines (lineHas p) })
    ∧ (scope < 3 → u.die (dieOf s.cur.core) = s.die (dieOf s.cur.core))
    ∧ u.me.dirty = s.me.dirty ∧ (∀ j, j ≠ clusterOf s.cur.core → u.clusters.get j = s.clusters.get j)
    ∧ ∀ d, d ≠ dieOf s.cur.core → u.die d = s.die d

/-- Of the cores, only copies that they hold for reading change. -/
def OnlyViews (s t : State) : Prop :=
  ∀ c, t.core c = { s.core c with view := (t.core c).view, own := (t.core c).own }

/-- No level on the acting core's path holds a published line that is not yet at home, and the task holds nothing
provisional (R93, R95). -/
def State.PathClean (s : State) (t : Task) : Prop := t.epochs = [] ∧ t.held = [] ∧ s.PathEmpty s.cur.core

/-! ## Barrier objects (R112, R113, R378) -/

/-- PEND, ARM and ARR as an update leaves them before the flip check, and the number that a BARRANGE names. -/
def barMoves (w : Nat) : BarOp → Option (Int × Bool × Nat × Nat)
  | .init _ _ => none
  | .expect n => some (barPend w + n, true, barArr w, n)
  | .complete n => some (barPend w - n, barArm w, barArr w, n)
  | .arrive => some (barPend w, barArm w, barArr w + 1, 1)

/-- The update keeps PEND and ARR within their fields, and BEXPECT names less than 2^23 bytes. -/
def BarInRange (op : BarOp) (pend : Int) (arr : Nat) : Prop :=
  -(2 ^ 23) ≤ pend ∧ pend < 2 ^ 23 ∧ arr ≤ 65535 ∧ ∀ n, op = .expect n → n < 2 ^ 23

/-- The update that a posted barrier instruction makes, and its slot (R201). -/
def barOpOf (k : Core) : Instr → Option (KReg × BarOp)
  | .binit b a sc => some (b, .init ((k.xr a).toNat % 65536) sc.code)
  | .bexpect b a => some (b, .expect (k.xr a).toNat)
  | .barrive b => some (b, .arrive)
  | _ => none

/-! ## Commands of the engines (R29, R60, R218 to R286) -/

/-- The engine whose queue an instruction enters and the positions it takes; BCOPY and RADV are named apart. -/
def entersQueue (q : Seq) : Instr → Option (Engine × Nat)
  | .copy _ | .copyt _ | .copyc _ _ _ | .gather _ _ | .scatter _ _ | .fill _ | .redadd _ =>
    some (if q = .st then .store else .load, 1)
  | .pref _ _ _ _ => some (.load, 1)
  | .vadd _ | .vsub _ | .vmul _ | .vfma _ | .vfms _ | .vfnma _ | .vfnms _ | .vdiv _ | .vsqrt _ | .vrsqrt _ | .vrcp _
  | .vexp2 _ | .vlog2 _ | .vexp _ | .vtanh _ | .vmin _ | .vmax _ | .vabs _ | .vneg _ | .vclamp _ | .viadd _ | .visub _
  | .vimul _ | .vimulh _ | .vand _ | .vor _ | .vxor _ | .vandn _ | .vsll _ | .vsrl _ | .vsra _ | .vrol _ | .vpopc _
  | .vclz _ | .vclmul _ | .vclmulh _ | .vbswap _ | .vbrev _ | .vcmp _ _ _ _ _ _ _ | .vpand _ _ _ _ | .vpor _ _ _ _
  | .vpxor _ _ _ _ | .vpnot _ _ _ | .voteAny _ _ _ _ | .voteAll _ _ _ _ | .voteNone _ _ _ _ | .voteCnt _ _ _
  | .vcvt _ _ _ _ | .vpack _ | .vunpack _ _ | .vradd _ | .vrmax _ | .vrmin _ | .vargmax _ | .vtopk8 _ | .vperm _
  | .vbcast _ _ | .vsel _ | .viota _ _ _ _ _ | .vscan _ | .vmov _ => some (.vector, 1)
  | .mma _ | .mmab _ | .mmag _ | .mzero _ | .mld _ | .mst _ | .mstat _ | .mclr => some (.matrix, 2)
  | _ => none

/-- The queue of engine `e` takes command `m` of instruction `i` (R29, R60, R248): with its position, its cycle and its
handles as they are at issue. -/
def Enters (s t : State) (e : Engine) (i : Instr) (m : Cmd) : Prop :=
  (t.me.engine e).cmds = (s.me.engine e).cmds ++ [m] ∧ (t.me.engine e).next = ((s.me.engine e).next + 1) % 65536
    ∧ (∀ x, x ≠ e → t.me.engine x = s.me.engine x)
    ∧ m.instr = i ∧ m.word = s.cur.word ∧ m.num = (s.me.engine e).next ∧ m.task = s.myTid ∧ m.seq = s.cur.seq
    ∧ m.pos = s.pos ∧ m.issued = s.cycle ∧ m.vl = s.me.vl ∧ m.started = false ∧ m.guarded = false
    ∧ ∀ h ∈ m.handles, h = s.me.capture s.cur.seq h.1

/-- The turn performs command `m` of engine `e`, whose task is `t` and runs beneath no other (R41). -/
structure State.Performs (s : State) (e : Engine) (m : Cmd) (t : Task) : Prop where
  kind : s.cur.kind = .perform
  eng : s.cur.eng = e
  cmd : s.me.cmdOf e s.cur.a s.cur.num = some m
  task : mget m.task s.tasks = some t
  top : s.me.under.find? (·.task == s.cur.a) = none

/-- The performed command has started. -/
def HasStarted (s u : State) : Prop := (u.me.cmdOf s.cur.eng s.cur.a s.cur.num).map (·.started) = some true

/-- Bits of the scratchpad: an element of width `w` at a bit address (R61), and that it lies in the region. -/
def Core.spadBits (k : Core) (a : Int) (w : Nat) : Nat :=
  fld (rdNat k.pool (k.spadBase + (byteLo a).toNat) (byteHi a w - byteLo a).toNat) (a % 8).toNat w
def Core.spadHas (k : Core) (a : Int) (w : Nat) : Prop := 0 ≤ byteLo a ∧ byteHi a w ≤ k.spadSize

/-- The element of width `w` that lies at a place, where `rd` gives its bytes (R61, R122). -/
def placeBits (rd : Nat → Byte) (p : Place) (w : Nat) : Nat := fld (leNat (p.keys.map rd)) p.sh w

/-- Two elements share no bit. -/
def Apart (w : Nat) (p q : Place) : Prop :=
  (∀ k ∈ p.keys, k ∉ q.keys) ∨ (w < 8 ∧ p.keys = q.keys ∧ (p.sh + w ≤ q.sh ∨ q.sh + w ≤ p.sh))

/-! ## Transfers (R218 to R227) -/

/-- What a transfer moves: source and destination, the bit addresses of their elements in order, the value of each
destination element from the source's, and that their formats are admitted. -/
structure MoveRule where
  src : Opd
  dst : Opd
  sa : List Int
  da : List Int
  val : (Nat → Nat) → Nat → Nat
  formats : Bool

/-- COPY, COPYT, COPYC and FILL (R220, R223, R224): the shape is the destination's, or CNT elements. -/
def moveRule (m : Cmd) : Instr → Option MoveRule
  | .copy w =>
    let n := indices (countShape w.cnt (m.opd w.dh))
    some ⟨m.opd w.sh, m.opd w.dh, n.map fun i => (m.opd w.sh).bit w.soff.toInt i.1 i.2.1 i.2.2,
      n.map fun i => (m.opd w.dh).bit w.doff.toInt i.1 i.2.1 i.2.2, fun x j => x j,
      (m.opd w.dh).fmt.width == (m.opd w.sh).fmt.width⟩
  | .copyt w =>
    let n := indices (countShape w.cnt (m.opd w.dh))
    some ⟨m.opd w.sh, m.opd w.dh, n.map fun i => (m.opd w.sh).bit w.soff.toInt i.2.1 i.1 i.2.2,
      n.map fun i => (m.opd w.dh).bit w.doff.toInt i.1 i.2.1 i.2.2, fun x j => x j,
      (m.opd w.dh).fmt.width == (m.opd w.sh).fmt.width⟩
  | .copyc w mode prop =>
    let n := indices (countShape w.cnt (m.opd w.dh))
    some ⟨m.opd w.sh, m.opd w.dh, n.map fun i => (m.opd w.sh).bit w.soff.toInt i.1 i.2.1 i.2.2,
      n.map fun i => (m.opd w.dh).bit w.doff.toInt i.1 i.2.1 i.2.2,
      fun x j => (convert (m.opd w.sh).fmt (m.opd w.dh).fmt mode prop (some (m.opd w.sh).hd.xv.toNat) true 0 (x j)).1,
      (m.opd w.dh).fmt != .b1 && (m.opd w.sh).fmt != .b1⟩
  | .fill w =>
    let n := indices (countShape w.cnt (m.opd w.dh))
    some ⟨m.opd w.sh, m.opd w.dh, [(m.opd w.sh).bit w.soff.toInt 0 0 0],
      n.map fun i => (m.opd w.dh).bit w.doff.toInt i.1 i.2.1 i.2.2, fun x _ => x 0,
      (m.opd w.dh).fmt.width == (m.opd w.sh).fmt.width⟩
  | _ => none

/-- The row indices of a GATHER or SCATTER as bit addresses (R226), and the elements it moves, given the values of the
indices: row `j` of the one operand, row `x j` of the other. -/
def rowIndices (m : Cmd) (w : Xfer) (xh : HReg) (gather : Bool) : List Int :=
  (List.range (rowShape w.cnt (m.opd (if gather then w.dh else w.sh))).2.1).map fun (j : Nat) => (m.opd xh).bit 0 j 0 0
def rowRule (m : Cmd) (w : Xfer) (gather : Bool) (x : Nat → Int) : MoveRule :=
  let n := rowShape w.cnt (m.opd (if gather then w.dh else w.sh))
  let e := (List.range n.2.1).flatMap fun j => (List.range n.1).map fun i => (i, j)
  ⟨m.opd w.sh, m.opd w.dh,
    e.map fun p => (m.opd w.sh).bit w.soff.toInt p.1 (if gather then x p.2 else p.2) 0,
    e.map fun p => (m.opd w.dh).bit w.doff.toInt p.1 (if gather then p.2 else x p.2) 0,
    fun v j => v j, (m.opd w.dh).fmt.width == (m.opd w.sh).fmt.width⟩

/-- Every element of a transfer of the command `m` passes its checks in state `s` (R380, R383), and no error and no CHECK stops
it: where the elements lie. -/
structure State.Moves (s : State) (m : Cmd) (t : Task) (r : MoveRule) (ps qs : List Place) (ls ms : List Leaf) : Prop where
  clean : s.Clean
  src : ∃ kid integ, s.locate t r.src r.src.width r.sa .read 2 = .ok ps kid integ ls
    ∧ (r.src.hd.spc = false → checkStop integ (fetchElems s.cur.core m.task t r.src r.src.width ls ps s).1 = none)
  dst : ∃ kid integ, s.locate t r.dst r.dst.width r.da .write 3 = .ok qs kid integ ms
  nodup : ∀ q ∈ qs, q.keys.Nodup
  apart : qs.Pairwise (Apart r.dst.width)

/-- The values of a transfer's source elements. -/
def State.sourceOf (s : State) (m : Cmd) (t : Task) (r : MoveRule) (ls : List Leaf) (ps : List Place) (j : Nat) : Nat :=
  (((fetchElems s.cur.core m.task t r.src r.src.width ls ps s).1).getD j (0, false)).1

/-- A transfer starts (R93, R223, R232): every destination element takes its value from the source's `x`, at once in the
scratchpad, at its retirement in memory, there under the tag of its page; no other byte changes but the access bits of
leaves. -/
def MoveEffect (i : Instr) (s : State) (r : MoveRule) (x : Nat → Nat) (qs : List Place) (ls ms : List Leaf) (u : State) :
    Prop :=
  ∃ m, u.me.cmdOf s.cur.eng s.cur.a s.cur.num = some m ∧ m.instr = i ∧ m.started = true
    ∧ m.counted = ceilDiv (qs.length * r.dst.width) 8 ∧ OtherCores s u ∧ u.tasks = s.tasks
    ∧ u.me = { s.me with pool := u.me.pool, poison := u.me.poison, view := u.me.view, own := u.me.own
                         engines := u.me.engines }
    ∧ (∀ a, OffLeaves (ls ++ ms) a → rdByte u.mem a = rdByte s.mem a)
    ∧ (r.dst.hd.spc = true → u.me.pool.wf = true
      ∧ (∀ j q, qs[j]? = some q → placeBits (rdByte u.me.pool) q r.dst.width = r.val x j % 2 ^ r.dst.width)
      ∧ ∀ a, (∀ q ∈ qs, a ∉ q.keys) → rdByte u.me.pool a = rdByte s.me.pool a)
    ∧ (r.dst.hd.spc = false → u.me.pool = s.me.pool
      ∧ (∀ j q, qs[j]? = some q → 8 ≤ r.dst.width →
        placeBits (fun k => (mget (tagKey ms k) m.writes).getD 0) q r.dst.width = r.val x j % 2 ^ r.dst.width)
      ∧ ∀ k v, mget k m.writes = some v → ∃ q ∈ qs, ∃ b ∈ q.keys, k = tagKey ms b)

/-! ## Vectors (R242 to R264) -/

/-- What a vector instruction writes: its sources and the widths they are read in, its destination and the number of
vectors, its predicate and whether that masks the destination, the width of its elements, and element `i` of vector `v`
from L, the mask and the sources' vectors. -/
structure VecRule where
  srcs : List (Operand × Nat)
  dst : Operand
  dn : Nat
  pred : Option PReg
  masked : Bool
  width : Nat
  val : Lanes → Dword → (Nat → Nat → Lanes) → Nat → Nat → Nat

/-- Rules from one, two and three elements at the same place, and from lanes of 32 bits. -/
def VecRule.one (w : Vec1) (n : Nat) (f : Nat → Nat) : VecRule :=
  ⟨[(w.a, w.fmt.width)], w.d, n, w.pred, true, w.fmt.width, fun _ _ x v i => f (el (x 0 v) w.fmt.width i)⟩
def VecRule.two (w : Vec2) (n : Nat) (f : Nat → Nat → Nat) : VecRule :=
  ⟨[(w.a, w.fmt.width), (w.b, w.fmt.width)], w.d, n, w.pred, true, w.fmt.width,
    fun _ _ x v i => f (el (x 0 v) w.fmt.width i) (el (x 1 v) w.fmt.width i)⟩
def VecRule.three (w : Vec2) (n : Nat) (f : Nat → Nat → Nat → Nat) : VecRule :=
  ⟨[(w.a, w.fmt.width), (w.b, w.fmt.width), (w.d, w.fmt.width)], w.d, n, w.pred, true, w.fmt.width,
    fun _ _ x v i => f (el (x 0 v) w.fmt.width i) (el (x 1 v) w.fmt.width i) (el (x 2 v) w.fmt.width i)⟩
def VecRule.bits (w : Vec2) (n : Nat) (f : Word → Word → Word) : VecRule :=
  ⟨[(w.a, w.fmt.width), (w.b, w.fmt.width)], w.d, n, w.pred, true, 32, fun _ _ x v i =>
    (f (BitVec.ofNat 32 (el (x 0 v) 32 i)) (BitVec.ofNat 32 (el (x 1 v) 32 i))).toNat⟩

/-- An integer element of a format as a number (R251). -/
def elemVal (f : Fmt) (a : Nat) : Int := if f.isSigned then sextN f.width a else a

/-- The floating forms (R249, R250): each result is the exact one, rounded once to nearest even. -/
def floatRule (n : Nat) : Instr → Option VecRule
  | .vadd w => some (.two w n fun a b => rne w.fmt (addNum .rne (decodeF w.fmt a) (decodeF w.fmt b)))
  | .vsub w => some (.two w n fun a b => rne w.fmt (addNum .rne (decodeF w.fmt a) (negNum (decodeF w.fmt b))))
  | .vmul w => some (.two w n fun a b => rne w.fmt (mulNum (decodeF w.fmt a) (decodeF w.fmt b)))
  | .vfma w => some (.three w n fun a b d => rne w.fmt (fmaNum (decodeF w.fmt a) (decodeF w.fmt b) (decodeF w.fmt d)))
  | .vfms w => some (.three w n fun a b d =>
      rne w.fmt (fmaNum (decodeF w.fmt a) (decodeF w.fmt b) (negNum (decodeF w.fmt d))))
  | .vfnma w => some (.three w n fun a b d =>
      rne w.fmt (fmaNum (negNum (decodeF w.fmt a)) (decodeF w.fmt b) (decodeF w.fmt d)))
  | .vfnms w => some (.three w n fun a b d =>
      rne w.fmt (fmaNum (negNum (decodeF w.fmt a)) (decodeF w.fmt b) (negNum (decodeF w.fmt d))))
  | .vdiv w => some (.two w n fun a b => rne w.fmt (divNum (decodeF w.fmt a) (decodeF w.fmt b)))
  | .vsqrt w => some (.one w n fun a => rne w.fmt (sqrtNum (decodeF w.fmt a)))
  | .vrsqrt w => some (.one w n fun a => rne w.fmt (rsqrtNum (decodeF w.fmt a)))
  | .vrcp w => some (.one w n fun a => rne w.fmt (rcpNum (decodeF w.fmt a)))
  | .vexp2 w => some (.one w n fun a => rne w.fmt (exp2Num (decodeF w.fmt a)))
  | .vlog2 w => some (.one w n fun a => rne w.fmt (log2Num (decodeF w.fmt a)))
  | .vexp w => some (.one w n fun a => rne w.fmt (expNum (decodeF w.fmt a)))
  | .vtanh w => some (.one w n fun a => rne w.fmt (tanhNum (decodeF w.fmt a)))
  | .vmin w => some (.two w n fun a b => rne w.fmt (minNum (decodeF w.fmt a) (decodeF w.fmt b)))
  | .vmax w => some (.two w n fun a b => rne w.fmt (maxNum (decodeF w.fmt a) (decodeF w.fmt b)))
  | .vabs w => some (.one w n fun a => rne w.fmt (absNum (decodeF w.fmt a)))
  | .vneg w => some (.one w n fun a => rne w.fmt (negNum (decodeF w.fmt a)))
  | .vclamp w => some (.three w n fun a b d =>
      rne w.fmt (minNum (maxNum (decodeF w.fmt d) (decodeF w.fmt a)) (decodeF w.fmt b)))
  | _ => none

/-- The integer and bit forms (R251 to R253), modulo 2^width. -/
def bitsRule (n : Nat) : Instr → Option VecRule
  | .viadd w => some (.two w n fun a b => a + b)
  | .visub w => some (.two w n fun a b => codeN w.fmt.width ((a : Int) - b))
  | .vimul w => some (.two w n fun a b => a * b)
  | .vimulh w => some (.two w n fun a b =>
      codeN w.fmt.width (elemVal w.fmt a * elemVal w.fmt b / ((2 ^ w.fmt.width : Nat) : Int)))
  | .vand w => some (.bits w n fun a b => a &&& b)
  | .vor w => some (.bits w n fun a b => a ||| b)
  | .vxor w => some (.bits w n fun a b => a ^^^ b)
  | .vandn w => some (.bits w n fun a b => a &&& ~~~b)
  | .vsll w => some (.two w n fun a b => a * 2 ^ (b % w.fmt.width))
  | .vsrl w => some (.two w n fun a b => a / 2 ^ (b % w.fmt.width))
  | .vsra w => some (.two w n fun a b => codeN w.fmt.width (sextN w.fmt.width a / ((2 ^ (b % w.fmt.width) : Nat) : Int)))
  | .vrol w => some (.two w n fun a b => a * 2 ^ (b % w.fmt.width) + a / 2 ^ (w.fmt.width - b % w.fmt.width))
  | .vpopc w => some (.one w n fun a => (List.range w.fmt.width).countP fun j => bitAt a j)
  | .vclz w => some (.one w n fun a =>
      ((List.range w.fmt.width).find? fun j => bitAt a (w.fmt.width - 1 - j)).getD w.fmt.width)
  | .vclmul w => some (.two w n fun a b =>
      (List.range 64).foldl (fun r j => if bitAt b j then r ^^^ (a * 2 ^ j) else r) 0)
  | .vclmulh w => some (.two w n fun a b =>
      (List.range 64).foldl (fun r j => if bitAt b j then r ^^^ (a * 2 ^ j) else r) 0 / 2 ^ 64)
  | .vbswap w => some (.one w n fun a =>
      ((List.range (w.fmt.width / 8)).map fun j => fld a (w.fmt.width - 8 - 8 * j) 8 * 2 ^ (8 * j)).sum)
  | .vbrev w => some (.one w n fun a =>
      ((List.range w.fmt.width).map fun j => b2n (bitAt a (w.fmt.width - 1 - j)) * 2 ^ j).sum)
  | _ => none

/-- Conversion, packing, moves and permutes (R258, R259, R264); `xv` is the extra value of an F4 stream (R245). -/
def shiftRule (n : Nat) (xv : Option Nat) : Instr → Option VecRule
  | .vcvt w f mode prop => some ⟨[(w.a, f.width)], w.d, n, w.pred, true, w.fmt.width, fun l _ x v i =>
      if i < 2048 / Nat.max f.width w.fmt.width then
        (convert f w.fmt mode prop xv true (lane l i) (el (x 0 v) f.width i)).1 else 0⟩
  | .vpack w => some { VecRule.two w n (fun _ _ => 0) with
      val := fun _ _ x v i =>
        if i < 64 then el (x 0 v) w.fmt.width i else if i < 128 then el (x 1 v) w.fmt.width (i - 64) else 0 }
  | .vunpack w part => some { VecRule.one w n (fun _ => 0) with
      val := fun _ _ x v i =>
        if i < 64 then el (x 0 v) w.fmt.width (64 * part.val + i) else 0 }
  | .vperm w => some { VecRule.two w n (fun _ _ => 0) with
      val := fun _ _ x v i =>
        el (x 0 v) w.fmt.width (el (x 1 v) w.fmt.width i % (2048 / w.fmt.width)) }
  | .vbcast w j => some { VecRule.one w n (fun _ => 0) with
      val := fun _ _ x v _ => el (x 0 v) w.fmt.width j.toNat }
  | .vsel w => some { VecRule.two w n (fun _ _ => 0) with
      width := 32
      masked := false
      val := fun _ on x v i =>
        if on.getLsbD i then el (x 0 v) 32 i else el (x 1 v) 32 i }
  | .viota f p _ d start => some ⟨[], d, n, p, true, f.width, fun _ _ _ v i => start.toNat + v * (2048 / f.width) + i⟩
  | .vmov w => some { VecRule.one w n (fun _ => 0) with
      width := 32
      val := fun _ _ x v i => el (x 0 v) 32 i }
  | _ => none

/-- Element `k` of the 64 × VL elements that enter a reduction: the identity where its lane is masked off or beyond them
(R141). -/
def redElem (n : Nat) (ident : Nat) (on : Dword) (x : Nat → Nat → Lanes) (k : Nat) : Nat :=
  if k < 64 * n ∧ on.getLsbD (k % 64) = true then el (x 0 (k / 64)) 32 (k % 64) else ident

/-- The pairwise tree of R141 over 2^c elements from element `lo`. -/
def pairTree (op : Nat → Nat → Nat) (e : Nat → Nat) : Nat → Nat → Nat
  | 0, lo => e lo
  | c + 1, lo => op (pairTree op e c lo) (pairTree op e c (lo + 2 ^ c))

/-- The operations and identities of R260. -/
def sumOf (f : Fmt) (a b : Nat) : Nat :=
  if f = .f32 then rne .f32 (addNum .rne (decodeF .f32 a) (decodeF .f32 b)) else (a + b) % 2 ^ 32
def topOf (f : Fmt) (a b : Nat) : Nat :=
  if f = .f32 then rne .f32 (maxNum (decodeF .f32 a) (decodeF .f32 b)) else if elemVal f a < elemVal f b then b else a
def lowOf (f : Fmt) (a b : Nat) : Nat :=
  if f = .f32 then rne .f32 (minNum (decodeF .f32 a) (decodeF .f32 b)) else if elemVal f b < elemVal f a then b else a
def identOf (f : Fmt) (which : Nat) : Nat :=
  match f, which with
  | .f32, 0 => 0x80000000 | .f32, 1 => 0xFF800000 | .f32, _ => 0x7F800000
  | _, 0 => 0
  | .s32, 1 => 0x80000000 | _, 1 => 0
  | .s32, _ => 0x7FFFFFFF | _, _ => 0xFFFFFFFF

/-- Element `a` with index `j` ranks before element `b` with index `k` (R261): a NaN above +∞, the zeros equal, equal
elements by index. -/
def ranks (f : Fmt) (a j b k : Nat) : Bool :=
  let r (c : Nat) : Int :=
    if f = .f32 then
      if (decodeF .f32 c).isNan then 2 ^ 40 else if bitAt c 31 then -((c % 2 ^ 31 : Nat) : Int) else c
    else elemVal f c
  decide (r b < r a) || (decide (r a = r b) && decide (j < k))

/-- The index of the enabled element with `c` enabled ones before it (R261, R262). -/
def placed (n : Nat) (f : Fmt) (on : Dword) (x : Nat → Nat → Lanes) (c : Nat) : Option Nat :=
  let e (k : Nat) : Nat := el (x 0 (k / 64)) 32 (k % 64)
  (List.range (64 * n)).find? fun k => on.getLsbD (k % 64)
    && (List.range (64 * n)).countP (fun j => on.getLsbD (j % 64) && ranks f (e j) j (e k) k) == c

/-- The value and the index that VARGMAX and VTOPK8 write for it; a NaN is canonical. -/
def placedVal (n : Nat) (f : Fmt) (on : Dword) (x : Nat → Nat → Lanes) (c : Nat) : Nat :=
  match placed n f on x c with
  | some k =>
    if f = .f32 ∧ (decodeF .f32 (el (x 0 (k / 64)) 32 (k % 64))).isNan = true then canonNan .f32
    else el (x 0 (k / 64)) 32 (k % 64)
  | none => identOf f 1
def placedIdx (n : Nat) (f : Fmt) (on : Dword) (x : Nat → Nat → Lanes) (c : Nat) : Nat :=
  (placed n f on x c).getD 0xFFFFFFFF

/-- A reduction: one unmasked vector, zero beyond its results (R260). -/
def VecRule.red (w : Vec1) (f : Dword → (Nat → Nat → Lanes) → Nat → Nat) : VecRule :=
  ⟨[(w.a, w.fmt.width)], w.d, 1, w.pred, false, 32, fun _ on x _ i => f on x i⟩

/-- Reductions and scans (R260 to R263), over 64 × n elements. -/
def redRule (n : Nat) : Instr → Option VecRule
  | .vradd w => some (.red w fun on x i =>
      if i = 0 then pairTree (sumOf w.fmt) (redElem n (identOf w.fmt 0) on x) (treeLevels (64 * n)) 0 else 0)
  | .vrmax w => some (.red w fun on x i =>
      if i = 0 then pairTree (topOf w.fmt) (redElem n (identOf w.fmt 1) on x) (treeLevels (64 * n)) 0 else 0)
  | .vrmin w => some (.red w fun on x i =>
      if i = 0 then pairTree (lowOf w.fmt) (redElem n (identOf w.fmt 2) on x) (treeLevels (64 * n)) 0 else 0)
  | .vargmax w => some (.red w fun on x i =>
      if i = 0 then placedIdx n w.fmt on x 0 else if i = 1 then placedVal n w.fmt on x 0 else 0)
  | .vtopk8 w => some (.red w fun on x i =>
      if i < 8 then placedVal n w.fmt on x i else if i < 16 then placedIdx n w.fmt on x (i - 8) else 0)
  | .vscan w => some ⟨[(w.a, w.fmt.width)], w.d, n, w.pred, true, 32, fun _ on x v i =>
      (List.range (64 * v + i + 1)).foldl (fun r k => sumOf w.fmt r (redElem n (identOf w.fmt 0) on x k)) (identOf w.fmt 0)⟩
  | _ => none

/-- Vector `v` of a register operand. -/
def Core.vecAt (k : Core) (o : Operand) (v : Nat) : Lanes :=
  match o with
  | .latch => k.latch
  | .file e => (k.o[e.val + v]?).getD noLanes
  | .main e => k.mainRd (e.val + v)
  | .stream _ _ => noLanes

/-- The bit address of element `i` of vector `v` of a stream (R245). -/
def streamAt (m : Cmd) (h : HReg) (off : BitVec 16) (w v i : Nat) : Int := (m.opd h).bitW w off.toInt i v

/-- The first busy cycle of a vector command that starts now, in which it reads its first vectors: once the writes of earlier commands
to the main-file entries that it reads have landed, and its memory streams' data are there (R265). -/
def State.firstRead (s : State) (srcs : List (Operand × Nat)) (xs : List VSrc) : Nat :=
  Nat.max s.cycle (landedBy s.me (mainReads srcs 0)) + dataWait xs s

/-- A vector command that starts now reads every vector at once, as far as a program can see: it has no stream of the scratchpad, or one
vector whose first busy cycle is now (R34, R265). -/
def State.AtOnce (s : State) (srcs : List (Operand × Nat)) (n : Nat) (xs : List VSrc) : Prop :=
  (∀ x ∈ xs, x.late = false) ∨ (n = 1 ∧ s.firstRead srcs xs ≤ s.cycle)

/-- A source is a stream of the scratchpad, of handle `h` with displacement `off`. -/
def Cmd.spadStream (m : Cmd) (o : Operand × Nat) (h : HReg) (off : BitVec 16) : Prop :=
  o.1 = .stream h off ∧ (m.opd h).hd.spc = true

/-- A vector command reads on: the vectors still to read have the first busy cycles `reads`, and vector `v` of source `j` has been read
as `x j v`, unless it is one of a stream of the scratchpad still to read (R265). -/
def State.ReadsOn (s u : State) (m : Cmd) (srcs : List (Operand × Nat)) (n : Nat) (reads : List Nat) (x : Nat → Nat → Lanes) : Prop :=
  ∃ w, u.me.cmdOf s.cur.eng s.cur.a s.cur.num = some w ∧ w.started = true ∧ w.reads = reads ∧ w.stop = none
    ∧ w.got.length = srcs.length
    ∧ ∀ (j : Nat) (o : Operand × Nat), srcs[j]? = some o → ∀ v, v < n →
      ((∀ h off, ¬ m.spadStream o h off) ∨ v + reads.length < n) → (w.got.getD j []).getD v noLanes = x j v

/-- A command that reads on may take its next vector: its first busy cycle has come, nothing stops it, and its elements lie in the
scratchpad (R265). -/
structure State.ReadsNext (s : State) (m : Cmd) (srcs : List (Operand × Nat)) (n f : Nat) (rest : List Nat) : Prop where
  reads : m.reads = f :: rest
  due : f ≤ s.cycle
  going : m.started = true ∧ m.stop = none ∧ m.got.length = srcs.length ∧ ∀ l ∈ m.got, l.length = n
  intact : s.Clean
  within : rest.length < n
  widths : ∀ o ∈ srcs, o.2 ∈ [1, 4, 8, 16, 32, 64]
  held : ∀ o ∈ srcs, ∀ h off, m.spadStream o h off →
    ∀ i, i < perVec o.2 → s.me.spadHas (streamAt m h off o.2 (n - 1 - rest.length) i) o.2

/-- The vectors of a command that takes its next one now: that of a stream of the scratchpad is the bytes that stand there (R265). -/
def State.TakesNext (s : State) (m : Cmd) (srcs : List (Operand × Nat)) (n : Nat) (rest : List Nat) (x : Nat → Nat → Lanes) : Prop :=
  ∀ (j : Nat) (o : Operand × Nat), srcs[j]? = some o → ∀ v, v < n →
    (((∀ h off, ¬ m.spadStream o h off) ∨ v ≠ n - 1 - rest.length) → x j v = (m.got.getD j []).getD v noLanes)
    ∧ ∀ h off, m.spadStream o h off → v = n - 1 - rest.length →
        ∀ i, i < perVec o.2 → el (x j v) o.2 i = s.me.spadBits (streamAt m h off o.2 v i) o.2

/-- The command's own checks pass as it starts: its streams' handles, its register operands within their files, every element of its
streams, and no CHECK stops it (R244, R245, R383). -/
structure State.Fetches (s : State) (m : Cmd) (t : Task) (r : VecRule) (n : Nat) (xs : List VSrc) : Prop where
  fresh : m.reads = []
  handles : ∀ h ∈ streamsOf r.srcs, (m.opd h).reservedButFmt = none
  files : r.dst.isDest = true ∧ fileBad r.dst r.dn s.me = none ∧ ∀ o ∈ r.srcs, fileBad o.1 n s.me = none
  located : vecLocate s m t n r.srcs = .ok xs
  intact : s.Clean
  clean : (vecFetchAll s.cur.core m.task t n xs s).2.2.1 = none
  many : 0 < n

/-- A vector command starts and writes its destination under its mask, and L, which takes its last vector (R244 to R247).
`s'` is the state after its sources are read. -/
def VectorEffect (s s' : State) (r : VecRule) (x : Nat → Nat → Lanes) (u : State) : Prop :=
  let on := s.me.maskOf r.pred
  let writes (l : Fin 64) : Bool := !r.masked || on.getLsbD l.val
  ∃ new : Nat → Lanes,
    (∀ v i, v < r.dn → i < perVec r.width → el (new v) r.width i = r.val s.me.latch on x v i % 2 ^ r.width)
    ∧ (r.dst ≠ .latch → ∀ v, v < r.dn → ∀ l, (u.me.vecAt r.dst v).get l
        = if writes l then (new v).get l else (s.me.vecAt r.dst v).get l)
    ∧ (∀ l, u.me.latch.get l = if writes l then (new (r.dn - 1)).get l else (s.me.vecAt r.dst (r.dn - 1)).get l)
    ∧ (∀ j : Fin 16, (∀ e, r.dst = .file e → j.val < e.val ∨ e.val + r.dn ≤ j.val) → u.me.o.get j = s.me.o.get j)
    ∧ (∀ a, (∀ e, r.dst = .main e → a < 256 * e.val ∨ 256 * (e.val + r.dn) ≤ a) →
        rdByte u.me.pool a = rdByte s.me.pool a)
    ∧ u.me.pool.wf = true ∧ HasStarted s u ∧ u = { s' with cores := u.cores, free := u.free } ∧ OtherCores s u
    ∧ u.me = { s'.me with o := u.me.o, pool := u.me.pool, latch := u.me.latch, poison := u.me.poison
                          engines := u.me.engines }

/-! ## The matrix engine (R269 to R286) -/

/-- The value of an element of A or B as the format word reads it (R126, R275): block, row or column, and k. -/
def aBits (s : State) (m : Cmd) (w : Mat) (f : Fmt) (e : Nat × Nat × Nat) (k : Nat) : Nat :=
  s.me.spadBits ((m.opd w.ah).bitM f.width w.aoff.toInt (if w.ta then (e.2.1, k, e.1) else (k, e.2.1, e.1))) f.width
def bBits (s : State) (m : Cmd) (w : Mat) (f : Fmt) (e : Nat × Nat × Nat) (k : Nat) : Nat :=
  s.me.spadBits ((m.opd w.bh).bitM f.width w.boff.toInt (if w.tb then (k, e.2.2, e.1) else (e.2.2, k, e.1))) f.width

/-- The pool byte of a tile element, and its value. -/
def tileAt (k : Core) (w : Mat) (wc : Nat) (e : Nat × Nat × Nat) : Nat := k.accBase + tileOff w wc e
def tileVal (k : Core) (w : Mat) (wc : Nat) (e : Nat × Nat × Nat) : Nat := rdNat k.pool (tileAt k w wc e) wc

/-- A pool byte lies outside a word's tile elements and its counter word. -/
def OffTile (k : Core) (w : Mat) (wc a : Nat) : Prop :=
  (∀ e ∈ matElems w, a < tileAt k w wc e ∨ tileAt k w wc e + wc ≤ a) ∧ (a < counterAt k w ∨ counterAt k w + 4 ≤ a)

/-- A matrix command starts: of its core only the pool and the matrix queue change, and nothing of the rest. -/
def MatrixFrame (s u : State) : Prop :=
  u = { s with cores := u.cores } ∧ OtherCores s u ∧ HasStarted s u ∧ u.me.pool.wf = true
    ∧ u.me = { s.me with pool := u.me.pool, poison := u.me.poison, engines := u.me.engines }

/-- The performed command's writes of the scratchpad have all landed `n` cycles on or later, and then `P` holds (R286). -/
def LandsBy (s u : State) (n : Nat) (P : State → Prop) : Prop :=
  ∃ m, u.me.cmdOf s.cur.eng s.cur.a s.cur.num = some m
    ∧ ∀ now, s.cycle + n ≤ now → P (landPuts s.cur.eng m { u with cycle := now })

/-- The counters of a tile rise by some events, each to 65,535 at most (R140, R273). -/
def Counted (s u : State) (w : Mat) (ovf nanc : Nat) : Prop :=
  let c := rdNat s.me.pool (counterAt s.me w) 4
  rdNat u.me.pool (counterAt s.me w) 4 = Nat.min 65535 (fld c 0 16 + ovf) + Nat.min 65535 (fld c 16 16 + nanc) * 65536

/-- The accumulator of an element after an MMA or MMAB, with its overflows and NaNs (R135 to R137, R139, R278). -/
def sumRule (m : Cmd) (w : Mat) (af bf : Fmt) (a b : Nat → Nat) (acc : Nat) : Acc3 :=
  let ps := (List.range w.k.toNat).map fun k =>
    (matNum (m.opd w.ah) m.format af (a k), matNum (m.opd w.bh) m.format bf (b k))
  match pairRule af bf with
  | some (c, .each) => sumEach c (w.acc == .neg) ps acc
  | some (_, .blocks n) => sumBlocks n (w.acc == .neg) ps acc
  | some (_, .wrap) =>
    sumWrap (w.acc == .neg) ((List.range w.k.toNat).map fun k => (elemInt af (a k), elemInt bf (b k))) acc
  | none => (acc, 0, 0)

/-! ## Events (R29, R33, R41, R45) -/

/-- A command has a range in conflict with one of a command of another queue that issued before it (R33, R34, R236). -/
def Core.Clashes (k : Core) (e : Engine) (m : Cmd) : Prop :=
  ∃ x, x ≠ e ∧ ∃ y ∈ (k.engine x).cmds, y.slots = []
    ∧ (y.entered < m.entered ∨ (y.entered = m.entered ∧ (engIdx x).val < (engIdx e).val))
    ∧ ∃ a ∈ y.ranges, ∃ b ∈ m.ranges, (a.write = true ∨ b.write = true) ∧ a.lo < b.hi ∧ b.lo < a.hi

/-- The conditions of END (R41, R238). -/
structure Core.SwapReady (k : Core) (tid : Nat) : Prop where
  ended : k.ended = true
  runs : k.mode = .run
  ld : (k.seq .ld).stopped = true
  cmp : (k.seq .cmp).stopped = true
  st : (k.seq .st).stopped = true
  queues : ∀ e, k.plane.trailer.getLsbD (engIdx e).val = true → (k.engine e).cmds = []
  slots : ∀ e, ∀ m ∈ (k.engine e).cmds, m.task = tid → m.slots = []
  words : ∀ m ∈ (k.engine .matrix).cmds, m.task = tid → isTile m.instr = true → m.fmtWord.isSome = true

/-- Every core but `c` is unchanged. -/
def CoresBut (c : CoreId) (s t : State) : Prop := ∀ d, d ≠ c → t.core d = s.core d

/-- Of the dies only `d` may differ. -/
def DiesBut (d : DieId) (s t : State) : Prop := ∀ e, e ≠ d → t.die e = s.die e

/-- Of the whole package only die `d` may differ. -/
def OnlyDie (d : DieId) (s t : State) : Prop := t = { s with dies := t.dies } ∧ DiesBut d s t

/-- Of the whole package only memory may differ. -/
def OnlyMem (s t : State) : Prop := t = { s with mem := t.mem }

/-- The records of the two halves of a task (R44 step 6, R45): the first ends and the second begins at the middle of axis
`a`, a whole number of grains from its start. -/
def Halves (r : TaskRec) (a : Fin 3) (one two : TaskRec) : Prop :=
  let mid := r.lo.get a + r.gr.get a * ((r.hi.get a - r.lo.get a) / (2 * r.gr.get a))
  one = { r with depth := r.depth + 1, resume := false, hi := r.hi.set a.val mid a.isLt }
    ∧ two = { r with depth := r.depth + 1, resume := false, lo := r.lo.set a.val mid a.isLt }

end Sys2Proof.Machine
end

