-- ==== Sys2Proof/Certificates/Slice0/Obligations.lean ====
section
/-! DEFINITION. The statements about the TW-880 for the provers, family by family. -/

section

open Sys2Proof Sys2Proof.Machine

/-! ## The integer instructions (R171 to R180) -/

/-- R175: the two-operand integer instructions but division give the results of its table, with the latencies of R171.

R175: the unary forms.

R177, R178: the immediate forms, LI and LHI.

R179, R180: the compares and the flag logic. -/
def Obligations.ScalarResults : Prop :=
  (∀ (s : State) (i : Instr) (d : Dest) (lat : Nat), arithRule s.me i = some (d, lat) →
      exec i s = .next (advance (post d lat s)))
  ∧ (∀ (s : State) (i : Instr) (d : Dest) (lat : Nat), unaryRule s.me i = some (d, lat) →
      exec i s = .next (advance (post d lat s)))
  ∧ (∀ (s : State) (i : Instr) (d : Dest) (lat : Nat), immRule s.me i = some (d, lat) →
      exec i s = .next (advance (post d lat s)))
  ∧ (∀ (s : State) (i : Instr) (d : Dest) (lat : Nat), flagRule s.me i = some (d, lat) →
      exec i s = .next (advance (post d lat s)))

/-- R176: no division faults, and the corners have the results of its table. -/
def Obligations.DivisionResults : Prop :=
  ∀ (s : State) (i : Instr) (d : Dest) (lat : Nat), divRule s.me i = some (d, lat) →
    exec i s = .next (advance (post d lat s))

/-- R171: a result of exposed latency L is read from the L-th cycle after its issue and not before, where no other write of
its register is in flight.

R173: writes of one register take effect in issue order. A second write of a shorter latency is held until the first
lands, and then stands; a second of a longer latency stands once it lands. A VOTE's write stands over a write of the control
stream that lands in the same cycle, in whichever order they were issued. Writes to x0 and f0 are discarded. -/
def Obligations.LatencyAndOrder : Prop :=
  (∀ (s : State) (d : Dest) (lat n : Nat), 0 < lat → 0 < n → s.me.Quiet d →
      let k := (post d lat s).me.landDue (s.cycle + n)
      (lat ≤ n → k.Holds d) ∧ (n < lat → SameAt d s.me k))
  ∧ ((∀ (k : Core) (c m first second n : Nat) (d e : Dest), k.Quiet d → d.same e = true → 0 < m → 0 < first → 0 < second →
      m < n →
      let j := ((k.post c d first).post (c + m) e second).landDue (c + n)
      (n < first → SameAt d k j) ∧ (first ≤ n → n < m + second → j.Holds d) ∧ (first ≤ n → m + second ≤ n → j.Holds e))
    ∧ ∀ (k : Core) (c lat : Nat) (d e : Dest), k.Quiet d → d.same e = true → 0 < lat →
      let vote : Pending := ⟨e, c + lat, false, true⟩
      let j := k.post c d lat
      (({ k with pending := k.pending ++ [vote] }.post c d lat).landDue (c + lat)).Holds e
        ∧ ({ j with pending := j.pending ++ [vote] }.landDue (c + lat)).Holds e)

/-- The frame of the instructions that compute on registers alone: not one byte of memory or of the pool, no special
register, no other core, no other sequencer and no register but the destination changes in the issue cycle; the sequencer
moves on by one position. -/
def Obligations.RegisterFrame : Prop :=
  ∀ (s : State) (i : Instr) (d : Dest) (lat : Nat), resultRule s.me i = some (d, lat) →
    Completes i s fun t => OnlyMyCore s t ∧ OnlyRegisters s.me t.me ∧ OnlySeq s.cur.seq s.me t.me
      ∧ OtherRegisters d s.me t.me ∧ t.me.seq s.cur.seq = (s.me.seq s.cur.seq).past 1

/-! ## Handles and special registers (R60, R195, R197, R212) -/

/-- R195: HSETF replaces the named field and no other bit; HGETF reads it, S1, S2 and CUR sign-extended; HADV adds to
CUR modulo 2^32.

R60, R190: a handle is its 256 bits: what HST stores, HLD loads, and the reserved bits are zero.

R190: HLD loads 32 bytes as a handle, its reserved bits dropped; HST stores a handle's 32 bytes and no other.

Readings and choices of the model's own that it rests on: log 2 (the cycle in which an interlocked result lands). -/
def Obligations.Handles : Prop :=
  ((∀ (s : State) (h : HReg) (a : XReg) (f : HField), ∃ g : Handle,
      exec (.hsetf h a f) s = .next (advance (post (.h h g) 1 s))
        ∧ g.field f = (s.me.xr a).toNat % 2 ^ (fieldBits f).2 ∧ ∀ e, e ≠ f → g.field e = (s.me.h.get h).field e)
    ∧ (∀ (s : State) (d : XReg) (h : HReg) (f : HField),
      exec (.hgetf d h f) s = .next (advance (post (.x d ((s.me.h.get h).reading f)) 1 s)))
    ∧ ∀ (s : State) (h : HReg) (a : XReg), ∃ g : Handle,
      exec (.hadv h a) s = .next (advance (post (.h h g) 1 s))
        ∧ g.field .cur = ((s.me.h.get h).field .cur + (s.me.xr a).toNat) % 2 ^ 32
        ∧ ∀ e, e ≠ .cur → g.field e = (s.me.h.get h).field e)
  ∧ (∀ h : Handle, Handle.ofNat h.toNat = h ∧ h.toNat < 2 ^ 227 ∧ fld h.toNat 74 6 = 0)
  ∧ ((∀ (s : State) (h : HReg) (a : XReg) (imm : BitVec 9) (off : Nat),
      s.me.SpadAccess ((s.me.xr a).toNat + imm.toInt * 32) 32 off → s.me.poisoned (s.me.spadBase + off) 32 = false →
      s.flaws = [] →
      Completes (.hld h a imm) s fun t => OnlyMyCoreTicks s t
        ∧ t.me = { s.me with pending := t.me.pending, seqs := t.me.seqs }
        ∧ ∃ g : Handle, Awaits s t 3 (.h h g)
          ∧ ∀ f, g.field f = fld (rdNat s.me.pool (s.me.spadBase + off) 32) (fieldBits f).1 (fieldBits f).2)
    ∧ ∀ (s : State) (h : HReg) (a : XReg) (imm : BitVec 9) (off : Nat),
      s.me.SpadAccess ((s.me.xr a).toNat + imm.toInt * 32) 32 off → s.me.pool.wf = true →
      Completes (.hst h a imm) s fun t => OnlyMyCore s t ∧ t.me = { s.me with pool := t.me.pool, seqs := t.me.seqs }
        ∧ OnlySeq s.cur.seq s.me t.me ∧ t.me.seq s.cur.seq = (s.me.seq s.cur.seq).past 1 ∧ t.me.pool.wf = true
        ∧ rdNat t.me.pool (s.me.spadBase + off) 32 = (s.me.h.get h).toNat ∧ PoolElsewhere off 32 s.me t.me)

/-- R157, R212: SRD samples the special registers; SWR writes SPB, SPL and SP and leaves the others.

Readings and choices of the model's own that it rests on: log 7. -/
def Obligations.SpecialRegisters : Prop :=
  (∀ (s : State) (d : XReg) (r : SReg), exec (.srd d r) s = .next (advance (post (.x d (BitVec.ofNat 64 (s.sreg r))) 1 s)))
  ∧ (∀ s : State, s.sreg .cycle = s.cycle % 2 ^ 64 ∧ s.sreg .core = s.cur.core.val ∧ s.sreg .vl = s.me.vl
      ∧ s.sreg .spb = s.me.spb.toNat ∧ s.sreg .spl = s.me.spl.toNat ∧ s.sreg .sp = s.me.sp.toNat
      ∧ s.sreg .timeus = s.cycle / 940 % 2 ^ 64)
  ∧ (∀ (s : State) (t : Task), s.myTask = some t → s.sreg .dmr = t.dmr.toNat ∧ s.sreg .ctxn = t.record.ctx
      ∧ s.sreg .depth = t.record.depth ∧ s.sreg .tleft = t.tleft ∧ s.sreg .dlo0 = t.record.lo.get 0
      ∧ s.sreg .dhi0 = t.record.hi.get 0 ∧ s.sreg .dlo1 = t.record.lo.get 1 ∧ s.sreg .dhi1 = t.record.hi.get 1
      ∧ s.sreg .dlo2 = t.record.lo.get 2 ∧ s.sreg .dhi2 = t.record.hi.get 2)
  ∧ ∀ (s : State) (a : XReg) (r : SReg), Completes (.swr r a) s fun t => OnlyMyCore s t
      ∧ t.me = { s.me with spb := t.me.spb, spl := t.me.spl, sp := t.me.sp, seqs := t.me.seqs }
      ∧ t.me.seq s.cur.seq = (s.me.seq s.cur.seq).past 1 ∧ OnlySeq s.cur.seq s.me t.me
      ∧ t.me.spb.toNat = (if r = .spb then (s.me.xr a).toNat % 2 ^ 32 else s.me.spb.toNat)
      ∧ t.me.spl.toNat = (if r = .spl then (s.me.xr a).toNat % 2 ^ 32 else s.me.spl.toNat)
      ∧ t.me.sp.toNat = if r = .sp then (s.me.xr a).toNat % 2 ^ 32 else s.me.sp.toNat

/-! ## Transfers of control and the call stack (R181 to R186, R213, R377) -/

/-- R181 to R183: J and the branches. Three delay slots issue, and then the target at its cycle or the fourth position;
nothing but the sequencer changes. A target below position 0, on which the spec is silent, counts modulo 2^64 (log 79).

R181 to R183, R362: PT and PTR write a branch-target register with latency 1, and the cycle of the write is remembered; with
it that PTR's register lay above the size of the control section, so that no instruction stands at the target.

R171, R181: LOOP counts its register down, which its first delay slot reads, and transfers while the new value is not
0.

R239, R267: LOOPS opens a loop whose body runs once more for each LOOPE until its count is used up, JUMP goes to its
target two cycles later, and STOP ends the stream; a fifth open loop, or a LOOPE without one, raises LOOP. Nothing but the
sequencer changes.

Readings and choices of the model's own that it rests on: log 21, 79. -/
def Obligations.Branches : Prop :=
  (∀ (s : State) (i : Instr) (target : Option Nat) (cyc : Nat), transferRule s i = some (target, cyc) →
      Completes i s fun t => OnlyMyCore s t ∧ t.me = { s.me with seqs := t.me.seqs } ∧ OnlySeq s.cur.seq s.me t.me
        ∧ DelaySlots s.pos target cyc (t.me.seq s.cur.seq))
  ∧ (∀ (s : State) (b : BReg) (d : Dest) (i : Instr) (wild : Bool),
      ((∃ imm : BitVec 23, i = .pt b imm ∧ d = .b b (BitVec.ofInt 64 ((s.pos : Int) + imm.toInt)) ∧ wild = false)
        ∨ ∃ a : XReg, i = .ptr b a ∧ d = .b b (BitVec.ofNat 64 ((s.me.xr a).toNat % 2 ^ 23))
          ∧ (wild = true ↔ s.me.plane.ctl.length < (s.me.xr a).toNat)) →
      Completes i s fun t => OnlyMyCore s t ∧ OnlyRegisters s.me t.me ∧ OnlySeq s.cur.seq s.me t.me
        ∧ OtherRegisters d s.me t.me ∧ t.me.seq s.cur.seq = (s.me.seq s.cur.seq).past 1
        ∧ t.me.bAt.get b = some s.cycle ∧ t.me.bWild.get b = wild
        ∧ (∀ c, c ≠ b → t.me.bAt.get c = s.me.bAt.get c ∧ t.me.bWild.get c = s.me.bWild.get c)
        ∧ (s.me.Quiet d → (t.me.landDue (s.cycle + 1)).Holds d))
  ∧ (∀ (s : State) (b : BReg) (a : XReg), Completes (.loop b a) s fun t => OnlyMyCore s t ∧ OnlySeq s.cur.seq s.me t.me
      ∧ OtherRegisters (.x a 0) s.me t.me ∧ OnlyRegisters s.me t.me
      ∧ (s.me.Quiet (.x a 0) → (t.me.landDue (s.cycle + 1)).Holds (.x a (BitVec.ofInt 64 ((s.me.xr a).toInt - 1))))
      ∧ if s.me.xr a = 1 then DelaySlots s.pos none (s.cycle + 4) (t.me.seq s.cur.seq)
        else DelaySlots s.pos (some (s.me.target b)) (s.takenCycle b) (t.me.seq s.cur.seq))
  ∧ (∀ (s : State) (i : Instr),
      let q := s.me.seq s.cur.seq
      let Changes (f : Sequencer → Prop) : Prop := Completes i s fun u => OnlyMyCore s u
        ∧ u.me = { s.me with seqs := u.me.seqs } ∧ OnlySeq s.cur.seq s.me u.me ∧ f (u.me.seq s.cur.seq)
      (∀ n, opensLoop i = some n → q.delay = none →
        (q.loops.length < 4 → Changes fun r => r.pos = q.pos + 1
          ∧ r.loops = ⟨q.pos + 1, 0, if n = 0 then 1 else n⟩ :: q.loops)
        ∧ (4 ≤ q.loops.length → exec i s = .next (raise 0x0C q.loops.length 0 s)))
      ∧ ((i = .loope ∨ i = .loopeCmp) → q.delay = none →
        (q.loops = [] → exec i s = .next (raise 0x0C 0 0 s))
        ∧ ∀ l rest, q.loops = l :: rest →
          (l.count ≤ 1 → Changes fun r => r.pos = q.pos + 1 ∧ r.loops = rest)
          ∧ (1 < l.count → Changes fun r => r.pos = l.start
              ∧ r.loops = { l with count := l.count - 1, stop := q.pos } :: rest))
      ∧ (∀ off, jumpsBy i = some off → Changes fun r => r = { q with
          pos := codeN 64 ((q.pos : Int) + off), hold := s.cycle + 2, holdCause := .branch })
      ∧ ((i = .stop ∨ i = .stopCmp) → Changes fun r => r = { q with stopped := true }))

/-- R181, R184: CALL pushes its position + 4 below SP and transfers to bb; only the eight bytes pushed change.

R181, R183 to R185: RET transfers to the position on the stack, and its target issues at c + 6. -/
def Obligations.CallsAndReturns : Prop :=
  (∀ (s : State) (b : BReg) (sp : Nat), s.me.sp.toNat = sp + 8 → s.me.StackRange sp → sp + 8 ≤ s.me.spadSize →
      s.me.pool.wf = true →
      Completes (.call b) s fun t => OnlyMyCore s t ∧ OnlyPool s.me t.me ∧ OnlySeq s.cur.seq s.me t.me
        ∧ t.me.sp.toNat = sp ∧ t.me.tdep = s.me.tdep ∧ t.me.pool.wf = true
        ∧ t.me.spadRd sp 8 = (s.pos + 4) % 2 ^ 64 ∧ PoolElsewhere sp 8 s.me t.me
        ∧ DelaySlots s.pos (some (s.me.target b)) (s.takenCycle b) (t.me.seq s.cur.seq))
  ∧ (∀ (s : State), s.me.StackRange (s.me.sp.toNat + 8 : Nat) → s.me.sp.toNat + 8 ≤ s.me.spadSize → s.flaws = [] →
      Completes .ret s fun t => OnlyMyCore s t ∧ t.me = { s.me with sp := t.me.sp, seqs := t.me.seqs }
        ∧ OnlySeq s.cur.seq s.me t.me ∧ t.me.sp.toNat = s.me.sp.toNat + 8
        ∧ DelaySlots s.pos (some (s.me.spadRd s.me.sp.toNat 8)) (s.cycle + 6) (t.me.seq s.cur.seq))

/-- R213: TRAP, once every exposed write has landed: its frame holds the next position, the code and the flags; the depth
rises, and the instruction at b7 issues at c + 4, without delay slots. Before that it waits, and nothing of the core
changes.

R173, R213: RTE takes the flags f1 to f15 and the position from the frame that lies at SP, whoever wrote it; a flag with an
earlier write in flight takes its bit behind that write.

R213: RTE after TRAP goes on behind the TRAP with the stack pointer, the depth and every flag and register of before,
whatever time has passed. -/
def Obligations.Traps : Prop :=
  ((∀ (s : State) (code : BitVec 16) (sp : Nat), s.me.sp.toNat = sp + 16 → s.me.StackRange sp →
      sp + 16 ≤ s.me.spadSize → s.me.pool.wf = true → s.me.tdep < 255 → (∀ p ∈ s.me.pending, p.interlocked = true) →
      Completes (.trap code) s fun t => OtherCores s t ∧ (∀ a, rdByte t.mem a = rdByte s.mem a) ∧ t.tasks = s.tasks
        ∧ OnlyPool s.me t.me ∧ OnlySeq s.cur.seq s.me t.me ∧ t.me.sp.toNat = sp ∧ t.me.tdep = s.me.tdep + 1
        ∧ t.me.pool.wf = true ∧ PoolElsewhere sp 16 s.me t.me
        ∧ t.me.spadRd sp 8 = (s.pos + 1) % 2 ^ 64 ∧ t.me.spadRd (sp + 8) 2 = code.toNat
        ∧ (∀ f : FReg, bitAt (t.me.spadRd (sp + 10) 2) f.val = s.me.fr f) ∧ t.me.spadRd (sp + 12) 4 = 0
        ∧ (t.me.seq s.cur.seq).pos = s.me.target 7 ∧ (t.me.seq s.cur.seq).hold = s.cycle + 4
        ∧ (t.me.seq s.cur.seq).delay = none)
    ∧ ∀ (s : State) (code : BitVec 16), (∃ p ∈ s.me.pending, p.interlocked = false) →
      Completes (.trap code) s fun t => t.cores = s.cores ∧ t.cur.why = .trap)
  ∧ (∀ s : State, 0 < s.me.tdep → s.me.StackRange (s.me.sp.toNat + 16 : Nat) → s.me.sp.toNat + 16 ≤ s.me.spadSize →
      s.flaws = [] →
      Completes .rte s fun t => OtherCores s t ∧ t.tasks = s.tasks ∧ (∀ a, rdByte t.mem a = rdByte s.mem a)
        ∧ t.me = { s.me with f := t.me.f, pending := t.me.pending, sp := t.me.sp, tdep := t.me.tdep, seqs := t.me.seqs }
        ∧ OnlySeq s.cur.seq s.me t.me ∧ t.me.sp.toNat = s.me.sp.toNat + 16 ∧ t.me.tdep + 1 = s.me.tdep
        ∧ (∀ f, f ≠ 0 → s.me.Quiet (.f f false) → t.me.fr f = bitAt (s.me.spadRd (s.me.sp.toNat + 10) 2) f.val)
        ∧ (∀ f, f ≠ 0 → (∃ p ∈ s.me.pending, p.vote = false ∧ p.dest.same (.f f false) = true) →
          t.me.fr f = s.me.fr f
          ∧ ⟨.f f (bitAt (s.me.spadRd (s.me.sp.toNat + 10) 2) f.val), s.cycle + 1, false, false⟩ ∈ t.me.pending)
        ∧ (t.me.seq s.cur.seq).pos = s.me.spadRd s.me.sp.toNat 8 ∧ (t.me.seq s.cur.seq).hold = s.cycle + 4)
  ∧ (∀ (s t : State) (code : BitVec 16) (sp now : Nat), s.me.sp.toNat = sp + 16 → s.me.StackRange sp →
      s.me.StackRange (sp + 16 : Nat) → sp + 16 ≤ s.me.spadSize → s.me.pool.wf = true → s.me.tdep < 255 →
      (∀ p ∈ s.me.pending, p.interlocked = true) → s.pos + 1 < 2 ^ 64 → s.flaws = [] → exec (.trap code) s = .next t →
      Completes .rte { t with cycle := now } fun u => u.me.sp = s.me.sp ∧ u.me.tdep = s.me.tdep
        ∧ (∀ f, u.me.fr f = s.me.fr f) ∧ (∀ r, u.me.xr r = s.me.xr r) ∧ (∀ r, u.me.b.get r = s.me.b.get r)
        ∧ (u.me.seq s.cur.seq).pos = s.pos + 1 ∧ (u.me.seq s.cur.seq).hold = now + 4
        ∧ (u.me.seq s.cur.seq).delay = none ∧ OtherCores s u)

/-- R184, R366, R377: a step of the stack out of [SPL, SPB] raises STACK and has no other effect; a TRAP at depth 255
raises TRAPDEPTH, and an RTE at depth 0 is an illegal instruction.

R366, R390: a scratchpad access out of its region raises OPRANGE with the first offset outside it and the region's
size; a load of poisoned pool bytes raises POISON with the pool byte. Nothing is loaded or stored.

R382, R391: a load of pool bytes whose line has an uncorrectable SRAM error raises POOLSRAM with the pool byte, and the error is
met.

R361, R372: a fault of a sequencer stops its core in that cycle: the core keeps every register and position, and waits
for the delivery; no other core, no task and no byte of memory changes. -/
def Obligations.ControlFaults : Prop :=
  ((∀ (s : State) (b : BReg), ¬ s.me.StackRange ((s.me.sp.toNat : Int) - 8) →
      exec (.call b) s = .next (raise 0x05 (((s.me.sp.toNat : Int) - 8) % 2 ^ 64).toNat
        (s.me.spb.toNat * 2 ^ 32 + s.me.spl.toNat) s))
    ∧ (∀ s : State, ¬ s.me.StackRange (s.me.sp.toNat + 8 : Nat) →
      exec .ret s = .next (raise 0x05 (s.me.sp.toNat + 8) (s.me.spb.toNat * 2 ^ 32 + s.me.spl.toNat) s))
    ∧ (∀ (s : State) (code : BitVec 16), (∀ p ∈ s.me.pending, p.interlocked = true) →
      (s.me.tdep = 255 → exec (.trap code) s = .next (raise 0x14 code.toNat 0 s))
      ∧ (s.me.tdep ≠ 255 → ¬ s.me.StackRange ((s.me.sp.toNat : Int) - 16) →
        exec (.trap code) s = .next (raise 0x05 (((s.me.sp.toNat : Int) - 16) % 2 ^ 64).toNat
          (s.me.spb.toNat * 2 ^ 32 + s.me.spl.toNat) s)))
    ∧ ∀ s : State, s.me.tdep = 0 → exec .rte s = .next (raise 0x01 s.cur.word 0 s))
  ∧ ((∀ (s : State) (i : Instr) (n : Nat) (addr : Int) (d : XReg),
      (spadLoad s.me i = some (n, addr, d) ∨ spadStore s.me i = some (n, addr, d)) → s.me.SpadMiss addr n →
      exec i s = .next (raise 0x09 ((if addr < 0 then addr else Max.max addr s.me.spadSize) % 2 ^ 64).toNat
        s.me.spadSize s))
    ∧ ∀ (s : State) (i : Instr) (n off : Nat) (addr : Int) (d : XReg), spadLoad s.me i = some (n, addr, d) →
      s.me.SpadAccess addr n off →
      (s.flaws = [] → s.me.poisoned (s.me.spadBase + off) n = true →
        exec i s = .next (raise 0x2A 0 (s.me.spadBase + off) s))
      ∧ ∀ a, s.poolFlaw s.cur.core (keysFrom (s.me.spadBase + off) n) = some a →
        exec i s = .next (raise 0x2B a 0 (meetPool s.cur.core s.myCtxN (keysFrom (s.me.spadBase + off) n) s)))
  ∧ (∀ (s : State) (cause i0 i1 : Nat), s.me.task.isSome = true → s.me.faultAt = none →
      let t := raise cause i0 i1 s
      t = { s with cores := t.cores, cur := { s.cur with why := .trap, sub := 0 } } ∧ OtherCores s t
        ∧ t.me = { s.me with faults := t.me.faults, faultAt := some s.cycle, mode := .fault }
        ∧ t.me.faults = s.me.faults ++ [⟨cause, s.cur.seq, 15, (s.me.seq s.cur.seq).pos, 0, i0 % 2 ^ 64, i1 % 2 ^ 64, false⟩])

/-! ## The scratchpad (R187, R189, R190) -/

/-- R187, R189: a load from the scratchpad leaves the bytes zero-extended for its register, 3 cycles on or later.

R187, R189: a store to the scratchpad writes the low bytes of its register and no other byte.

Readings and choices of the model's own that it rests on: log 2. -/
def Obligations.ScratchpadAccess : Prop :=
  (∀ (s : State) (i : Instr) (n off : Nat) (addr : Int) (d : XReg), spadLoad s.me i = some (n, addr, d) →
      s.me.SpadAccess addr n off → s.me.poisoned (s.me.spadBase + off) n = false → s.flaws = [] →
      Completes i s fun t => OnlyMyCoreTicks s t ∧ t.me = { s.me with pending := t.me.pending, seqs := t.me.seqs }
        ∧ Awaits s t 3 (.x d (BitVec.ofNat 64 (rdNat s.me.pool (s.me.spadBase + off) n))))
  ∧ (∀ (s : State) (i : Instr) (n off : Nat) (addr : Int) (d : XReg), spadStore s.me i = some (n, addr, d) →
      s.me.SpadAccess addr n off → s.me.pool.wf = true →
      Completes i s fun t => OnlyMyCore s t ∧ t.me = { s.me with pool := t.me.pool, seqs := t.me.seqs }
        ∧ OnlySeq s.cur.seq s.me t.me ∧ t.me.seq s.cur.seq = (s.me.seq s.cur.seq).past 1 ∧ t.me.pool.wf = true
        ∧ rdNat t.me.pool (s.me.spadBase + off) n = (s.me.xr d).toNat % 2 ^ (8 * n) ∧ PoolElsewhere off n s.me t.me)

/-! ## Tokens, guards, the format queue and allocation (R30, R31, R35, R197 to R200, R234, R363, R364) -/

/-- R30, R31, R197, R234, R239, R267: TSIG in each stream. By the producer of a queue below its limit it adds a token, and
on a bound queue moves the producer position on; it waits at the limit, with the count, the held slot and the unexecuted
RADVs as they stood when the cycle began, and for the writes and VOTEs of R196 and R257; by another sequencer, or on an unused queue, it
raises TOKEN.

R30, R31, R197, R234, R236: TWAIT in each stream. By the consumer of a queue that held a token before this cycle it
takes one; on a bound queue the slot held before becomes free for the task's commands that wait for it, and the oldest
filled slot is held; it waits on an empty queue; another sequencer's raises TOKEN. -/
def Obligations.Tokens : Prop :=
  (∀ (s : State) (i : Instr) (q : QReg), givesTo i = some q →
      let t := s.me.tok.get q
      (t.used = true → t.prod = s.cur.seq → t.wasRadvs = 0 → t.was < t.limit → s.mayTsig = true →
        Completes i s fun u => OnlyMyCore s u ∧ u.me = { s.me with tok := u.me.tok, seqs := u.me.seqs } ∧ MovesOn s u
          ∧ OtherTokens q s.me u.me
          ∧ u.me.tok.get q = { t with count := t.count + 1, p := if t.bound then (t.p + 1) % t.depth else t.p })
      ∧ (t.used = true → t.prod = s.cur.seq → (t.wasRadvs ≠ 0 ∨ t.limit ≤ t.was ∨ s.mayTsig = false) →
        Completes i s fun u => Waits s u .token q.val)
      ∧ ((t.used = false ∨ t.prod ≠ s.cur.seq) → exec i s = .next (raise 0x0B q.val (seqIdx s.cur.seq).val s)))
  ∧ (∀ (s : State) (i : Instr) (q : QReg), takesFrom i = some q →
      let t := s.me.tok.get q
      (t.used = true → t.cons = s.cur.seq → 0 < t.was →
        Completes i s fun u => OnlyMyCore s u
          ∧ u.me = { s.me with tok := u.me.tok, seqs := u.me.seqs, engines := u.me.engines } ∧ MovesOn s u
          ∧ OtherTokens q s.me u.me
          ∧ u.me.tok.get q = (if t.bound = true then
              { t with count := t.count - 1, held := true, hs := t.oldest, oldest := (t.oldest + 1) % t.depth }
            else { t with count := t.count - 1 })
          ∧ ((t.bound = false ∨ t.held = false) → u.me.engines = s.me.engines)
          ∧ (t.bound = true → t.held = true → ∀ e, (u.me.engine e).cmds.map (·.slots)
              = (s.me.engine e).cmds.map fun m =>
                if some m.task = s.me.task then m.slots.filter fun w => w != (q, t.hs) else m.slots))
      ∧ (t.used = true → t.cons = s.cur.seq → t.was = 0 → Completes i s fun u => Waits s u .token q.val)
      ∧ ((t.used = false ∨ t.cons ≠ s.cur.seq) → exec i s = .next (raise 0x0B q.val (seqIdx s.cur.seq).val s)))

/-- R35, R197 to R199, R364: TCNT reads a count and changes nothing else; GSET and GSETI push into a guard slot of eight
values; FQW pushes into the format queue of sixteen words, waits while it is full, and raises FQOVER when no tile command
can pop one. -/
def Obligations.QueuesOfTheControlStream : Prop :=
  (∀ (s : State) (d : XReg) (q : QReg),
    exec (.tcnt d q) s = .next (advance (post (.x d (BitVec.ofNat 64 (s.me.tok.get q).count)) 1 s)))
  ∧ (∀ (s : State) (i : Instr) (g : GReg) (v : Bool), ((∃ f, i = .gset g f ∧ v = s.me.fr f) ∨ i = .gseti g v) →
    ((s.me.guards.get g).length < 8 → Completes i s fun u => OnlyMyCore s u
      ∧ u.me = { s.me with guards := u.me.guards, seqs := u.me.seqs } ∧ MovesOn s u
      ∧ u.me.guards.get g = s.me.guards.get g ++ [v] ∧ ∀ r, r ≠ g → u.me.guards.get r = s.me.guards.get r)
    ∧ (8 ≤ (s.me.guards.get g).length → Completes i s fun u => Waits s u .guard 0))
  ∧ ∀ (s : State) (a : XReg),
    (s.me.fq.length < 16 → Completes (.fqw a) s fun u => OnlyMyCore s u
      ∧ u.me = { s.me with fq := s.me.fq ++ [s.me.xr a], seqs := u.me.seqs } ∧ MovesOn s u)
    ∧ (16 ≤ s.me.fq.length → (s.me.seq .cmp).stopped = false → Completes (.fqw a) s fun u => Waits s u .format 0)
    ∧ (16 ≤ s.me.fq.length → (s.me.seq .cmp).stopped = true →
        (∀ m ∈ (s.me.engine .matrix).cmds, isTile m.instr = true → m.started = true) →
        exec (.fqw a) s = .next (raise 0x07 (s.me.xr a).toNat 0 s))

/-- R58, R200: an ALLOC within the limit gives the next free position and raises the count of its region; the next ALLOC
starts behind it.

R44, R363: an ALLOC beyond the limit raises ALLOWANCE in a pinned task, DEPTH in an unpinned one of depth 16, and
GRAIN where no axis can be halved; nothing is allocated. -/
def Obligations.Allocation : Prop :=
  (∀ (s : State) (d a : XReg) (imm : BitVec 14) (tid : Nat) (t : Task), s.Runs tid t →
      (s.me.allocS + s.me.request a imm ≤ s.me.limitS t → Completes (.allocS d a imm) s fun u => OnlyMyCore s u
        ∧ u.me.allocS = s.me.allocS + s.me.request a imm
        ∧ u.me = { s.me with allocS := u.me.allocS, x := u.me.x, pending := u.me.pending, seqs := u.me.seqs }
        ∧ MovesOn s u ∧ OtherRegisters (.x d 0) s.me u.me
        ∧ (s.me.Quiet (.x d 0) → (u.me.landDue (s.cycle + 1)).Holds (.x d (BitVec.ofNat 64 (65536 * s.me.allocS)))))
      ∧ (s.me.allocV + s.me.request a imm ≤ s.me.limitV t → Completes (.allocV d a imm) s fun u => OnlyMyCore s u
        ∧ u.me.allocV = s.me.allocV + s.me.request a imm
        ∧ u.me = { s.me with allocV := u.me.allocV, x := u.me.x, pending := u.me.pending, seqs := u.me.seqs }
        ∧ MovesOn s u ∧ OtherRegisters (.x d 0) s.me u.me
        ∧ (s.me.Quiet (.x d 0) → (u.me.landDue (s.cycle + 1)).Holds (.x d (BitVec.ofNat 64 (256 * s.me.allocV))))))
  ∧ (∀ (s : State) (d a : XReg) (imm : BitVec 14) (tid : Nat) (t : Task) (i : Instr) (which : Nat), s.Runs tid t →
      ((i = .allocS d a imm ∧ which = 0 ∧ s.me.limitS t < s.me.allocS + s.me.request a imm)
        ∨ (i = .allocV d a imm ∧ which = 1 ∧ s.me.limitV t < s.me.allocV + s.me.request a imm)) →
      (t.pinned = true → exec i s = .next (raise 0x10 which (s.me.request a imm) s))
      ∧ (t.pinned = false → t.record.depth = 16 → exec i s = .next (raise 0x12 which 16 s))
      ∧ (t.pinned = false → t.record.depth ≠ 16 → splitAxis t.record [0, 1, 2] [] = none →
        exec i s = .next (raise 0x11 which (t.record.lo.get 0) s)))

/-! ## Tasks, events and system instructions (R36, R54, R203 to R208, R214, R215) -/

/-- R54, R207, R215: NOP moves on; WFE takes the event flag or waits for it; SEV and WAKE of an unpinned task are held with
its provisional effects, in issue order.

R53, R54, R207: SEV of a pinned task sets the event flag of every task of its context that runs, and queues those
parked for EVENT; WAKE of a pinned task queues every task that a parked context holds. The sequencer moves on, and no
task of another context changes. -/
def Obligations.Events : Prop :=
  ((∀ s : State, Completes .nop s fun u => OnlyMyCore s u ∧ u.me = { s.me with seqs := u.me.seqs } ∧ MovesOn s u)
    ∧ (∀ (s : State) (tid : Nat) (t : Task), s.Runs tid t →
      (t.event = true → Completes .wfe s fun u => OneTask s u tid { t with event := false }
        ∧ u = { s with tasks := u.tasks, cores := u.cores } ∧ OtherCores s u ∧ u.me = { s.me with seqs := u.me.seqs }
        ∧ MovesOn s u)
      ∧ (t.event = false → Completes .wfe s fun u => Waits s u .idle 0))
    ∧ ∀ (s : State) (tid : Nat) (t : Task) (i : Instr) (e : Held), s.Runs tid t → t.pinned = false →
      ((i = .sev ∧ e = .sev (4 * s.cycle)) ∨ ∃ a, i = .wake a ∧ e = .wake ((s.me.xr a).toNat % 2 ^ 16) (4 * s.cycle)) →
      Completes i s fun u => (∃ v, OneTask s u tid v ∧ HoldsAlso [e] (4 * s.cycle) t v)
        ∧ u = { s with tasks := u.tasks, cores := u.cores } ∧ OtherCores s u ∧ u.me = { s.me with seqs := u.me.seqs }
        ∧ MovesOn s u)
  ∧ ((∀ (s : State) (tid : Nat) (t : Task), s.Runs tid t → t.pinned = true → risingFrom 0 s.tasks = true →
      Completes .sev s fun u => MovesOn s u ∧ u.cores = (advance s).cores
        ∧ ∀ (n : Nat) (w : Task), mget n s.tasks = some w → ∃ v, mget n u.tasks = some v
          ∧ (w.record.ctx ≠ t.record.ctx → v = w)
          ∧ (w.record.ctx = t.record.ctx → ∀ c, w.standing = .running c → v = { w with event := true })
          ∧ (w.record.ctx = t.record.ctx → ∀ x, w.standing = .parked 1 x → v.standing = .queued)
          ∧ (w.record.ctx = t.record.ctx → ∀ x y, w.standing = .parked x y → x ≠ 1 → v = w))
    ∧ ∀ (s : State) (tid : Nat) (t : Task) (a : XReg) (x : Context), s.Runs tid t → t.pinned = true →
      risingFrom 0 s.tasks = true → (s.me.xr a).toNat % 2 ^ 16 ≠ 0 →
      mget ((s.me.xr a).toNat % 2 ^ 16) s.contexts = some x → (x.state = 3 ∨ x.state = 4) → x.fault = false →
      x.world = false →
      Completes (.wake a) s fun u => MovesOn s u ∧ u.cores = (advance s).cores
        ∧ ∀ (n : Nat) (w : Task), mget n s.tasks = some w → ∃ v, mget n u.tasks = some v
          ∧ (w.record.ctx ≠ (s.me.xr a).toNat % 2 ^ 16 → v = w)
          ∧ (w.record.ctx = (s.me.xr a).toNat % 2 ^ 16 → ∀ p q, w.standing = .parked p q → v.standing = .queued))

/-- R25, R28, R204: SPAWN makes a task of the spawner's team and context from the record in the scratchpad, at depth 0,
pins the spawner, counts the task in its team and holds the control stream to c + 4; a record that fails its checks raises
RESERVED with the doubleword and the bit, and makes no task.

R36, R41, R208, R214: END is the last instruction of its stream; DMRW before the task's first PHASE gives the DMR that the task
takes as the cycle ends, and raises DOMAIN after it; BRK acts as NOP with debug stops disabled, and stops the task with them enabled. -/
def Obligations.SpawnAndEnd : Prop :=
  (∀ (s : State) (a : XReg) (tid off : Nat) (t : Task), s.Runs tid t → s.cur.seq = .ctl →
      off = (s.me.xr a).toNat / 128 * 128 → off + 128 ≤ s.me.spadSize → tid < s.nextTask → s.flaws = [] →
      (recordBit (s.me.spadRd off 128) (s.me.spadRd off 128) = none →
        Completes (.spawn a) s fun u => u.nextTask = s.nextTask + 1
          ∧ (∃ v, mget s.nextTask u.tasks = some v ∧ v.standing = .queued ∧ v.record.ctx = t.record.ctx
            ∧ v.record.team = t.record.team ∧ v.record.depth = 0 ∧ v.record.resume = false ∧ v.record.gang = false
            ∧ v.record.cls = Nat.max t.record.cls (fld (s.me.spadRd off 128) 45 3)
            ∧ v.record.img = fld (s.me.spadRd off 128) 64 56)
          ∧ mget tid u.tasks = some { t with pinned := true }
          ∧ (∀ m, mget t.record.team s.teams = some m → mget t.record.team u.teams = some { m with live := m.live + 1 })
          ∧ OtherCores s u ∧ u.me = { s.me with seqs := u.me.seqs } ∧ OnlySeq .ctl s.me u.me
          ∧ (u.me.seq .ctl).hold = s.cycle + 4
          ∧ ((s.me.seq .ctl).delay = none → (u.me.seq .ctl).pos = s.pos + 1))
      ∧ ∀ b, recordBit (s.me.spadRd off 128) (s.me.spadRd off 128) = some b →
        exec (.spawn a) s = .next (raise 0x02 (fld (s.me.spadRd off 128) (b / 64 * 64) 64) b s))
  ∧ ((∀ s : State, Completes .endT s fun u => OnlyMyCore s u ∧ u.me = { s.me with ended := true, seqs := u.me.seqs }
      ∧ OnlySeq .ctl s.me u.me ∧ u.me.seq .ctl = { s.me.seq .ctl with stopped := true })
    ∧ (∀ (s : State) (a : XReg) (tid : Nat) (t : Task), s.Runs tid t →
      (t.phased = false → Completes (.dmrw a) s fun u => MovesOn s u ∧ OtherCores s u
        ∧ u = { s with tasks := u.tasks, cores := u.cores } ∧ u.me = { s.me with seqs := u.me.seqs }
        ∧ ∃ w : Dword, OneTask s u tid { t with dmrNext := some w }
          ∧ ∀ b : Nat, w.getLsbD b = ((s.me.xr a).getLsbD b && (decide (b < 4) || (decide (8 ≤ b) && decide (b < 48)))))
      ∧ (t.phased = true → exec (.dmrw a) s = .next (raise 0x13 t.dmr.toNat 7 s)))
    ∧ ∀ (s : State) (code : BitVec 16),
      (s.debugOn (dieOf s.cur.core) s.myCtxN = false → Completes (.brk code) s fun u => OnlyMyCore s u
        ∧ u.me = { s.me with seqs := u.me.seqs } ∧ MovesOn s u)
      ∧ (s.debugOn (dieOf s.cur.core) s.myCtxN = true → (∀ p ∈ s.me.pending, p.interlocked = true) →
        Completes (.brk code) s fun u => OtherCores s u
          ∧ u.me = { s.me with mode := .debug 0 code.toNat 0, stopAt := some s.cycle, stopGo := false
                               stopFrom := u.me.stopFrom, seqs := u.me.seqs }
          ∧ (s.me.mode = .run → u.me.stopFrom = none) ∧ MovesOn s u))

/-! ## Memory (R63 to R69, R93 to R111, R187 to R194, R380 to R383) -/

/-- R64, R380, R382, R383: a control load, a store or an atomic on a buffer takes the first of the first five checks that
it fails as its fault, with that check's INFO0 and INFO1; a request whose page is in motion waits, and one that fails has
no effect.

R63 to R69, R380: a request that passes gives each of its bytes the physical byte of the leaf that translates its
address, in the buffer's interleave, and that leaf passes the checks of MASK, WORLD and KEY and is not in motion. The order of
an interleaved T1 page's steps is a free value within the page (log 86). -/
def Obligations.RequestChecks : Prop :=
  (∀ (s : State) (t : Task) (x : Context) (i : Instr) (q : Ask), s.myTask = some t →
      mget t.record.ctx s.contexts = some x → askOf s.me i = some q →
      let off := q.addr
      let b := s.buffer x q.buf
      let info := q.buf % 2 ^ 20 + (off % 2 ^ 44).toNat * 2 ^ 20
      let bad1 : Prop := x.btlen ≤ q.buf ∨ b.len = 0 ∨ b.reserved = true ∨ 4 ≤ b.ilv ∨ 2 ≤ b.integ
      let bad2 : Prop := off < 0 ∨ (b.len : Int) < off + q.n
      let bad3 : Prop := (q.act = .read ∧ b.rd = false) ∨ (q.act = .write ∧ b.wr = false) ∨ (q.act = .atomic ∧ b.at' = false)
      let bad4 : Prop := b.owner ≠ 0 ∧ b.owner ≠ t.record.ctx
      let bad5 : Prop := leased t.grants q.buf off.toNat q.n = false
      (bad1 → exec i s = .next (raise 0x20 info x.btlen s))
      ∧ (¬ bad1 → bad2 → exec i s = .next (raise 0x21 info b.len s))
      ∧ (¬ bad1 → ¬ bad2 → bad3 → exec i s = .next (raise 0x22 info q.act.code s))
      ∧ (¬ bad1 → ¬ bad2 → ¬ bad3 → bad4 → exec i s = .next (raise 0x23 info b.owner s))
      ∧ (¬ bad1 → ¬ bad2 → ¬ bad3 → ¬ bad4 → bad5 → exec i s = .next (raise 0x24 info 0 s))
      ∧ (s.ask t q = .wait → Completes i s fun u => Waits s u .memory 0)
      ∧ ∀ c i0 i1, s.ask t q = .bad c i0 i1 → exec i s = .next (raise c i0 i1 s))
  ∧ (∀ (s : State) (t : Task) (x : Context) (q : Ask) (ks : List Nat) (kid integ : Nat) (ls : List Leaf),
      mget t.record.ctx s.contexts = some x → s.ask t q = .ok ks kid integ ls →
      let b := s.buffer x q.buf
      let va := b.vbase + q.addr.toNat
      ks.length = q.n ∧ integ = b.integ ∧ ∀ j < q.n, ∃ l : Leaf, s.walk x (va + j) = .ok l
        ∧ (∃ p < l.size, ks[j]? = some (l.tier * 2 ^ 52 + (l.frame * 4096 + p) % 2 ^ 52)
          ∧ ((l.tier ≠ 1 ∨ (b.ilv ≠ 1 ∧ b.ilv ≠ 2)) → p = (va + j) % l.size)
          ∧ (l.tier = 1 → b.ilv = 1 → p % 256 = (va + j) % 256)
          ∧ (l.tier = 1 → b.ilv = 2 → p % 4096 = (va + j) % 4096))
        ∧ l.mig = false
        ∧ bitAt l.mask q.mask = true ∧ (l.world = true → x.world = true) ∧ l.keyid = b.keyid
        ∧ (l.keyid = 0 → l.world = true) ∧ (s.keys[l.keyid]?).bind id ≠ none)

/-- R97, R187, R188: a load whose request passes leaves the bytes that its task sees zero-extended for its register, by
interlock: its own latest store of a byte, provisional or published, where it has one and no page of it has just moved, and the
byte at home where no level on its path holds a copy of the line and no phase keeps a snapshot of the byte. It stores nothing:
memory outside the leaves' access bits, the pool and the tasks are unchanged.

R93, R187, R188: a store whose request passes and whose footprint stays within AWR puts the low bytes of its register
into the task's phase buffer, under the tag of their page, and nothing else there; not one byte of memory changes outside the leaves' access bits, and no
copy is dropped but at the first translation of a page after its move.

Readings and choices of the model's own that it rests on: log 2, log 8 and log 10. -/
def Obligations.LoadsAndStores : Prop :=
  (∀ (s : State) (i : Instr) (n : Nat) (h : HReg) (a : XReg) (disp : Int) (d : XReg) (q : Ask) (t : Task)
      (ks : List Nat) (kid integ : Nat) (ls : List Leaf),
      loadOf i = some (n, h, a, disp, d) → askOf s.me i = some q → s.myTask = some t → s.ask t q = .ok ks kid integ ls →
      s.Sound t ls ks → s.mem.wf = true →
      Completes i s fun u => ∃ bs : List Byte, bs.length = ks.length
        ∧ Awaits s u 1 (.x d (BitVec.ofNat 64 (leNat bs)))
        ∧ (∀ (j k : Nat) (b : Byte), ks[j]? = some k → isAperture k = false →
            bufferByte t.epochs (tagKey ls k) = some b → bs[j]? = some b)
        ∧ (∀ (j k : Nat) (b : Byte), ks[j]? = some k → isAperture k = false → bufferByte t.epochs (tagKey ls k) = none →
            (∀ l ∈ ls, l.head ∉ s.moved) → levelByte [s.me.own, s.me.dirty] (tagKey ls k) = some b → bs[j]? = some b)
        ∧ (∀ j k : Nat, ks[j]? = some k → isAperture k = false → (∀ e ∈ s.snaps, e.key ≠ tagKey ls k) → OffLeaves ls k →
            (∀ m ∈ s.ownLevels s.cur.core t ++ s.outerLevels s.cur.core k, m.holds (tagLine ls (k / 64)) = false) →
            bs[j]? = some (s.homeByte (tagKey ls k)))
        ∧ (∀ a, OffLeaves ls a → rdByte u.mem a = rdByte s.mem a) ∧ u.mem.wf = true
        ∧ u = { s with mem := u.mem, cores := u.cores, clusters := u.clusters, dies := u.dies, moved := u.moved, free := u.free }
        ∧ OtherCores s u
        ∧ u.me = { s.me with view := u.me.view, own := u.me.own, pending := u.me.pending, seqs := u.me.seqs })
  ∧ (∀ (s : State) (i : Instr) (n : Nat) (h : HReg) (a : XReg) (disp : Int) (d : XReg) (q : Ask) (tid : Nat) (t : Task)
      (ks : List Nat) (kid integ : Nat) (ls : List Leaf),
      storeOf i = some (n, h, a, disp, d) → askOf s.me i = some q → s.Runs tid t → s.ask t q = .ok ks kid integ ls →
      ks.any isAperture = false → (t.store ((ks.map (tagKey ls)).zip (leBytes n (s.me.xr d).toNat))).footLines.length ≤ t.record.awr →
      s.mem.wf = true →
      Completes i s fun u => ∃ v : Task, OneTask s u tid v ∧ v = { t with epochs := v.epochs }
        ∧ (ks.Nodup → ∀ j k : Nat, ks[j]? = some k →
            bufferByte v.epochs (tagKey ls k) = some (BitVec.ofNat 8 ((s.me.xr d).toNat / 256 ^ j)))
        ∧ (∀ k, k ∉ ks.map (tagKey ls) → bufferByte v.epochs k = bufferByte t.epochs k)
        ∧ (∀ a, OffLeaves ls a → rdByte u.mem a = rdByte s.mem a) ∧ u.mem.wf = true
        ∧ u = { s with tasks := u.tasks, mem := u.mem, policy := u.policy, cores := u.cores, clusters := u.clusters
                       dies := u.dies, moved := u.moved }
        ∧ OtherCores s u ∧ u.me = { s.me with view := u.me.view, own := u.me.own, seqs := u.me.seqs } ∧ MovesOn s u
        ∧ ((∀ l ∈ ls, l.head ∉ s.moved) → u.me.view = s.me.view ∧ u.me.own = s.me.own ∧ u.clusters = s.clusters ∧ u.dies = s.dies
          ∧ u.moved = s.moved))

/-- R43, R103 to R106, R191: an atomic whose request passes, with no older store command outstanding and nothing newer than
home on its path, leaves in memory what its function gives from the old value and its register, and the old value
zero-extended for its register (AST: none); it pins its task, and any order but rlx holds the control sequencer. Every
other byte of memory is unchanged outside the leaves' access bits.

R105, R107, R366, R390: an atomic whose handle names the scratchpad raises OPSPACE; one that meets a poisoned line
raises CHECK where its buffer has INTEG = 1 and POISON elsewhere; one that waits for an older store command moves on, pins its task and holds its sequencer without touching
memory, and keeps its operands as they stood in its issue cycle (R171).

Readings and choices of the model's own that it rests on: log 2 and log 23. -/
def Obligations.Atomics : Prop :=
  (∀ (s : State) (i : Instr) (fn n : Nat) (o : Atom) (q : Ask) (tid : Nat) (t : Task) (ks : List Nat) (kid integ : Nat)
      (ls : List Leaf) (key : Nat),
      atomOf i = some (fn, n, o) → askOf s.me i = some q → s.Runs tid t → s.ask t q = .ok ks kid integ ls →
      ks = keysFrom key n → ks.map (tagKey ls) = keysFrom (tagKey ls key) n → isAperture key = false → s.Sound t ls ks →
      s.PathClean t → s.Unhidden ls ks → s.storesBefore s.cycle = false → s.Issuing → s.cur.seq = .ctl → s.mem.wf = true → (∀ j, j < n → OffLeaves ls (key + j)) →
      let old := rdNat s.mem key n
      let v := (s.me.xr o.d).toNat % 2 ^ (8 * n)
      Completes i s fun u => u.mem.wf = true
        ∧ rdNat u.mem key n = atomRule fn (8 * n) old v (s.me.xr (o.d + 1)).toNat % 2 ^ (8 * n)
        ∧ (∀ a, (a < key ∨ key + n ≤ a) → OffLeaves ls a → rdByte u.mem a = rdByte s.mem a)
        ∧ (∃ w : Task, OneTask s u tid w ∧ w = { t with pinned := true, epochs := w.epochs })
        ∧ OtherCores s u
        ∧ u.me = { s.me with view := u.me.view, own := u.me.own, pending := u.me.pending, seqs := u.me.seqs }
        ∧ OnlySeq .ctl s.me u.me ∧ (u.me.seq .ctl).pos = ((s.me.seq .ctl).past 1).pos
        ∧ (o.ord ≠ .rlx → s.cycle < (u.me.seq .ctl).hold ∧ (u.me.seq .ctl).holdCause = .memory)
        ∧ (fn = 12 → u.me.pending = s.me.pending)
        ∧ (fn ≠ 12 → ∃ due, s.cycle < due
            ∧ u.me.pending = s.me.pending ++ [⟨.x o.d (BitVec.ofNat 64 old), due, true, false⟩]))
  ∧ (∀ (s : State) (i : Instr) (fn n : Nat) (o : Atom), atomOf i = some (fn, n, o) →
      ((s.me.h.get o.h).spc = true → exec i s = .next (raise 0x0A o.h.val 0 s))
      ∧ ∀ (q : Ask) (tid : Nat) (t : Task) (ks : List Nat) (kid integ : Nat) (ls : List Leaf),
        askOf s.me i = some q → s.Runs tid t → s.ask t q = .ok ks kid integ ls → isAperture (ks.headD 0) = false →
        (s.Clean → ∀ pa, s.homeAt ls ks = some pa →
          exec i s = .next (raise (if integ = 1 then 0x29 else 0x2A) (q.buf % 2 ^ 20 + q.addr.toNat % 2 ^ 44 * 2 ^ 20) pa s))
        ∧ (s.Clean → s.homeAt ls ks = none → (o.ord = .rel ∨ o.ord = .ar) → s.storesBefore s.cycle = true → s.Issuing → s.cur.seq = .ctl →
          Completes i s fun u => OneTask s u tid { t with pinned := true } ∧ OtherCores s u
            ∧ u = { s with tasks := u.tasks, cores := u.cores } ∧ u.me = { s.me with seqs := u.me.seqs }
            ∧ OnlySeq .ctl s.me u.me
            ∧ u.me.seq .ctl = { (s.me.seq .ctl).past 1 with
                acting := some (.stores (.atomic fn n (ks.map (tagKey ls)) (s.me.h.get o.h).hint.toNat ls o.d
                  ((s.me.xr o.d).toNat % 2 ^ (8 * n)) (s.me.xr (o.d + 1)).toNat o.ord o.scope) s.cycle) }))

/-- R96, R102, R109, R110, R192: FENCE.acq drops the clean copies of every line on the core's path up to its scope, in the cache
region, the cluster cache and the memory-side cache, and no dirty line; FENCE.rel of an unpinned task closes its epoch at the
scope; FENCE.ar does both. The sequencer is held, and memory is unchanged.

R94, R97, R102, R109, R110, R192: FENCE.rel and FENCE.ar of a pinned task publish its phase buffer at the scope: at core scope
into the published lines of the core, at cluster scope into those of the cluster cache, at package scope or wider to the
bytes' homes and to no other byte; the task goes on reading the bytes as its own until an acquire.

R109, R110, R193: FLUSH and INV of a handle of the scratchpad act on no line and take one cycle; INV of a buffer range
that passes its checks drops the clean copies of the lines in the range, on the core's path up to its scope, and changes no
byte of memory. FLUSH of an unpinned task closes its epoch and changes no byte of memory; of a pinned task at package scope or
wider it brings the buffered bytes of the range, and no other, to their homes.

Readings and choices of the model's own that it rests on: log 2, log 23, log 68 and log 70. -/
def Obligations.Fences : Prop :=
  (∀ (s : State) (sc : Scope) (i : Instr) (tid : Nat) (t : Task), s.Runs tid t → s.Issuing → s.cur.seq = .ctl →
      (i = .fenceAcq sc ∨ (t.pinned = false ∧ s.storesBefore s.cycle = false ∧ (i = .fenceRel sc ∨ i = .fenceAr sc))) →
      Completes i s fun u => OtherCores s u
        ∧ u = { s with tasks := u.tasks, cores := u.cores, clusters := u.clusters, dies := u.dies, free := u.free }
        ∧ u.me = { s.me with view := u.me.view, own := u.me.own, seqs := u.me.seqs } ∧ OnlySeq .ctl s.me u.me
        ∧ (u.me.seq .ctl).pos = ((s.me.seq .ctl).past 1).pos ∧ s.cycle < (u.me.seq .ctl).hold
        ∧ (i ≠ .fenceRel sc → Acquired s u sc.code fun _ => true)
        ∧ (i ≠ .fenceRel sc → 1 ≤ sc.code → u.me.view = Copies.none ∧ u.me.own = Copies.none)
        ∧ (i ≠ .fenceRel sc → 2 ≤ sc.code → (u.cluster s.cur.core).clean = Copies.none)
        ∧ (i ≠ .fenceRel sc → 3 ≤ sc.code → (u.die (dieOf s.cur.core)).clean = Copies.none)
        ∧ (i = .fenceRel sc → u.me.view = s.me.view ∧ u.me.own = s.me.own ∧ u.clusters = s.clusters ∧ u.dies = s.dies)
        ∧ (i = .fenceAcq sc → u.tasks = s.tasks)
        ∧ (i ≠ .fenceAcq sc → ∀ e es, t.epochs = es ++ [e] → e.scope = none →
            OneTask s u tid { t with epochs := es ++ [{ e with scope := some sc }] }))
  ∧ (∀ (s : State) (sc : Scope) (i : Instr) (tid : Nat) (t : Task) (cs eng : Cells) (ps : List Nat), s.Runs tid t →
      s.Issuing → s.cur.seq = .ctl → t.pinned = true → t.epochs = [⟨none, cs, ps, eng⟩] → s.storesBefore s.cycle = false →
      (i = .fenceRel sc ∨ i = .fenceAr sc) →
      let n : Copies := (⟨cs, ps⟩ : Copies).take fun _ => true
      Completes i s fun u => OtherCores s u ∧ OneTask s u tid { t with epochs := [] }
        ∧ u.me = { s.me with view := u.me.view, own := u.me.own, dirty := u.me.dirty, seqs := u.me.seqs }
        ∧ OnlySeq .ctl s.me u.me ∧ (u.me.seq .ctl).pos = ((s.me.seq .ctl).past 1).pos
        ∧ s.cycle < (u.me.seq .ctl).hold
        ∧ (i = .fenceRel sc → u.me.own = n.atop s.me.own)
        ∧ (i = .fenceAr sc → 1 ≤ sc.code → u.me.view = Copies.none ∧ u.me.own = Copies.none)
        ∧ (i = .fenceAr sc → 2 ≤ sc.code → (u.cluster s.cur.core).clean = Copies.none)
        ∧ (i = .fenceAr sc → 3 ≤ sc.code → (u.die (dieOf s.cur.core)).clean = Copies.none)
        ∧ (sc = .core → u.mem = s.mem ∧ u.me.dirty = n.atop s.me.dirty ∧ u.clusters = s.clusters ∧ u.dies = s.dies)
        ∧ (sc = .cl → s.me.dirty = Copies.none → s.policy = [] → u.mem = s.mem ∧ u.me.dirty = Copies.none
          ∧ (u.cluster s.cur.core).dirty = n.atop (s.cluster s.cur.core).dirty)
        ∧ (3 ≤ sc.code → s.FreeWay s.cur.core cs → WrittenHome s u cs ∧ u.PathEmpty s.cur.core))
  ∧ ((∀ (s : State) (sc : Scope) (h : HReg) (a : XReg) (i : Instr), (i = .flush sc h a ∨ i = .inv sc h a) →
      (s.me.h.get h).spc = true →
      Completes i s fun u => OnlyMyCore s u ∧ u.me = { s.me with seqs := u.me.seqs } ∧ MovesOn s u)
    ∧ ∀ (s : State) (sc : Scope) (h : HReg) (a : XReg) (tid : Nat) (t : Task) (x : Context) (b : Buffer) (n : Nat),
      s.Runs tid t → mget t.record.ctx s.contexts = some x → (s.me.h.get h).spc = false → s.Issuing → s.cur.seq = .ctl →
      n = (if s.me.xr a = 0 then (s.buffer x (s.me.h.get h).buf.toNat).len - (s.me.h.get h).off.toNat
        else (s.me.xr a).toNat) →
      s.checkEntry x t.record.ctx (s.me.h.get h).buf.toNat (s.me.h.get h).off.toNat n none = .ok b →
      let va := b.vbase + (s.me.h.get h).off.toNat
      let covers : Nat → Bool := s.inRange b.ilv va (va + n)
      (Completes (.inv sc h a) s fun u => OtherCores s u
        ∧ u = { s with cores := u.cores, clusters := u.clusters, dies := u.dies, free := u.free }
        ∧ s.cycle < (u.me.seq .ctl).hold ∧ OnlySeq .ctl s.me u.me
        ∧ u.me = { s.me with view := u.me.view, own := u.me.own, seqs := u.me.seqs } ∧ Acquired s u sc.code covers)
      ∧ (t.pinned = false → s.storesBefore s.cycle = false → Completes (.flush sc h a) s fun u => OtherCores s u
        ∧ u = { s with tasks := u.tasks, cores := u.cores, free := u.free } ∧ s.cycle < (u.me.seq .ctl).hold
        ∧ OnlySeq .ctl s.me u.me ∧ u.me = { s.me with seqs := u.me.seqs }
        ∧ ∀ e es, t.epochs = es ++ [e] → e.scope = none →
            OneTask s u tid { t with epochs := es ++ [{ e with scope := some sc }] })
      ∧ ∀ e : Epoch, t.pinned = true → s.storesBefore s.cycle = false → 3 ≤ sc.code → t.epochs = [e] → e.scope = none →
        s.FreeWay s.cur.core e.cells →
        Completes (.flush sc h a) s fun u => OtherCores s u ∧ s.cycle < (u.me.seq .ctl).hold ∧ OnlySeq .ctl s.me u.me
          ∧ WrittenHome s u (e.cells.filter fun c => covers (bare c.1)) ∧ u.PathEmpty s.cur.core
          ∧ OneTask s u tid { t with epochs := [e.without covers] })

/-- R42, R102, R120, R194: COMMIT pins its task and publishes its phase buffer at package scope: each byte of it is then at
home, every other byte of memory is unchanged, and the buffer is empty. In a pinned task with an empty buffer it takes one
cycle.

R36, R37, R111, R194, R366: PHASE at task level publishes and goes on. At an enabled level of a gang it arrives: it
waits while another member of the domain has not arrived, and flips at once when it is the last. Where the level is not
enabled, or the team, whatever the task's own record says, is no gang, it raises DOMAIN.

Readings and choices of the model's own that it rests on: log 23. -/
def Obligations.CommitAndPhases : Prop :=
  (∀ (s : State) (tid : Nat) (t : Task) (cs eng : Cells), s.Runs tid t → s.Issuing → s.cur.seq = .ctl →
      s.storesBefore s.cycle = false → t.epochs = [⟨none, cs, [], eng⟩] → t.held = [] → s.FreeWay s.cur.core cs →
      Completes .commit s fun u => OneTask s u tid { t with pinned := true, epochs := [] }
        ∧ WrittenHome s u cs ∧ u.PathEmpty s.cur.core ∧ OtherCores s u
        ∧ u.me = { s.me with view := u.me.view, own := u.me.own, seqs := u.me.seqs } ∧ OnlySeq .ctl s.me u.me
        ∧ (u.me.seq .ctl).pos = ((s.me.seq .ctl).past 1).pos
        ∧ ((t.pinned = false ∨ cs ≠ []) → s.cycle < (u.me.seq .ctl).hold)
        ∧ (t.pinned = true → cs = [] → u.me.seq .ctl = (s.me.seq .ctl).past 1))
  ∧ (∀ (s : State) (l : Level) (tid : Nat) (t : Task), s.Runs tid t → s.Issuing → s.cur.seq = .ctl →
      t.standing = .running s.cur.core →
      (l ≠ .task → ((domainOf l t.dmr).isNone = true ∨ s.gangTeam t.record = false) →
        exec (.phase l) s = .next (raise 0x13 t.dmr.toNat (levelCode l) s))
      ∧ ((l = .task ∨ ((domainOf l t.dmr).isSome = true ∧ s.gangTeam t.record = true)) → s.PathClean t →
          s.storesBefore s.cycle = false →
        Completes (.phase l) s fun u => (∀ a, rdByte u.mem a = rdByte s.mem a)
          ∧ (u.me.seq .ctl).pos = ((s.me.seq .ctl).past 1).pos
          ∧ (l = .task → (u.me.seq .ctl).acting = none ∧ OtherCores s u
              ∧ OneTask s u tid { t with pinned := true, phased := true, epochs := [] })
          ∧ (l ≠ .task → s.tasks = [(tid, t)] → (u.me.seq .ctl).acting = none ∧ OtherCores s u
              ∧ OneTask s u tid { t with pinned := true, phased := true, epochs := [], arrived := none })
          ∧ (∀ (j : Nat) (v : Task), l ≠ .task → (j, v) ∈ s.tasks → v.arrived = none →
              (∀ r, mget r s.tasks ≠ none → r = j ∨ r = tid) → j ≠ tid → risingFrom 0 s.tasks = true →
              sameDomain l t v = true →
              (u.me.seq .ctl).acting = some (.phase l) ∧ OtherCores s u
                ∧ OneTask s u tid { t with pinned := true, phased := true, epochs := [], arrived := some l })))

/-! ## Barrier objects (R112 to R116, R201, R202, R378) -/

/-- R113, R378: the updates of a barrier object with the flip check after each, the update that leaves PEND below zero
with ARM = 1 (BAROVER) and the update that is out of range (BARRANGE).

R115, R201, R202, R366: BINIT, BEXPECT and BARRIVE update the object that their slot names: at once and in place where
it lies in the scratchpad, and with the task's held updates where it lies in memory and the task is unpinned. An unbound slot
raises BARSLOT; a BINIT of a scratchpad object at another scope than .core raises RESERVED; BAROVER and BARRANGE name the
object's address, and the instruction that raises them does not advance and leaves its slot. -/
def Obligations.BarrierObjects : Prop :=
  (∀ w : Nat,
      (∀ t c, t < 2 ^ 16 → c < 8 → ∃ u, barUpdate w (.init t c) = (u, none) ∧ barPend u = 0 ∧ barArm u = false
        ∧ barPh u = false ∧ barTgt u = t ∧ barArr u = 0 ∧ barScp u = c ∧ barNwait u = 0)
      ∧ ∀ (op : BarOp) (pend : Int) (arm : Bool) (arr n : Nat), barMoves w op = some (pend, arm, arr, n) →
        (¬ BarInRange op pend arr → barUpdate w op = (w, some (0x0F, n)))
        ∧ (BarInRange op pend arr → ∃ u f, barUpdate w op = (u, f) ∧ barTgt u = barTgt w ∧ barScp u = barScp w
          ∧ barNwait u = barNwait w
          ∧ (arm = true → pend < 0 → op ≠ .arrive → barPend u = pend ∧ barArm u = false ∧ barPh u = barPh w
            ∧ barArr u = arr ∧ f = some (0x0E, (pend % 2 ^ 64).toNat))
          ∧ (arm = true → pend = 0 → barTgt w ≤ arr → barPend u = 0 ∧ barArm u = false ∧ barPh u = !barPh w
            ∧ barArr u = 0 ∧ f = none)
          ∧ ((arm = false ∨ 0 < pend ∨ (pend = 0 ∧ arr < barTgt w)) → barPend u = pend ∧ barArm u = arm
            ∧ barPh u = barPh w ∧ barArr u = arr ∧ f = none)))
  ∧ (∀ (s : State) (i : Instr) (k : KReg) (op : BarOp) (tid : Nat) (t : Task), barOpOf s.me i = some (k, op) →
      s.Runs tid t → s.me.faultAt = none →
      let b := s.me.slots.get k
      (b.bound = false → exec i s = .next (raise 0x0D k.val 0 s))
      ∧ (b.bound = true → b.spad = true → (∀ a sc, i = .binit k a sc → sc ≠ .core →
          exec i s = .next (raise 0x02 sc.code 0 s)))
      ∧ (b.bound = true → b.spad = true → (∀ a sc, i = .binit k a sc → sc = .core) → s.me.pool.wf = true → s.flaws = [] →
          Completes i s fun u => ∃ v f, barUpdate (s.me.spadRd b.addr 16) op = (v, f)
            ∧ u.me.spadRd b.addr 16 = v % 2 ^ 128 ∧ PoolElsewhere b.addr 16 s.me u.me ∧ u.me.pool.wf = true
            ∧ OtherCores s u ∧ (∀ a, rdByte u.mem a = rdByte s.mem a) ∧ u.tasks = s.tasks
            ∧ (f = none → u.me = { s.me with pool := u.me.pool, slots := u.me.slots, seqs := u.me.seqs } ∧ MovesOn s u
              ∧ (∀ j, j ≠ k → u.me.slots.get j = s.me.slots.get j)
              ∧ (∀ a sc, i = .binit k a sc → u.me.slots.get k = { b with phase := false })
              ∧ ((∀ a sc, i ≠ .binit k a sc) → u.me.slots.get k = b))
            ∧ ∀ c n, f = some (c, n) → u.me.slots = s.me.slots ∧ u.me.seqs = s.me.seqs
              ∧ u.me.faults = s.me.faults ++ [⟨c, s.cur.seq, 15, s.pos, 0, b.addr % 2 ^ 64, n % 2 ^ 64, false⟩])
      ∧ (b.bound = true → b.spad = false → t.pinned = false → Completes i s fun u =>
          (∃ v, OneTask s u tid v ∧ HoldsAlso [.bar ⟨false, s.cur.core, t.record.ctx, b.addr⟩ op.code.1 op.code.2 []
            (4 * s.cycle) .ctl s.pos 0] (4 * s.cycle) t v)
          ∧ OtherCores s u ∧ u = { s with tasks := u.tasks, cores := u.cores }
          ∧ u.me = { s.me with slots := u.me.slots, seqs := u.me.seqs } ∧ MovesOn s u))

/-- R116, R201: BSLOT binds a slot to an object of the scratchpad and takes its PH by interlock. BWAIT passes where the
object's PH differs from the slot's bit, which it toggles, and else waits, counted in NWAIT; BTEST makes the same comparison
without waiting and writes it to its flag. An object in memory with a reserved bit set raises RESERVED, and one whose path has
failed LINK (R417); of memory they change the object and the access bits of its page's leaf only. Where the object lies in
memory, its page's marking must leave it and its translation as they are.

Readings and choices of the model's own that it rests on: log 2, log 23, log 89 and log 92. -/
def Obligations.BarrierWaits : Prop :=
  ∀ (s : State) (k : KReg),
    let b := s.me.slots.get k
    let r := s.slotRef k
    let w := s.barRead r
    let s' := markBar s.cur.core r false s
    let readable : Prop := b.bound = true ∧ (b.spad = true → s.flaws = []) ∧ (b.spad = false → s.barLink s.cur.core r = none)
      ∧ barSpare r w = none ∧ s'.barRead r = w
    let MemoryKept (u : State) : Prop :=
      ∀ a, (b.spad = true ∨ OffLeaves (s.barLeaf r).toList a) → rdByte u.mem a = rdByte s.mem a
    (b.spad = true → w = s.me.spadRd b.addr 16 ∧ barSpare r w = none ∧ s' = s)
    ∧ (∀ (h : HReg) (a : XReg) (off : Nat), (s.me.h.get h).spc = true →
      s.me.SpadAccess (((s.me.h.get h).off.toNat + (s.me.xr a).toNat : Nat) / 16 * 16 : Nat) 16 off → s.flaws = [] →
      Completes (.bslot k h a) s fun u => OnlyMyCoreTicks s u
        ∧ u.me = { s.me with slots := u.me.slots, pending := u.me.pending, seqs := u.me.seqs }
        ∧ (u.me.slots.get k).bound = true ∧ (u.me.slots.get k).spad = true ∧ (u.me.slots.get k).addr = off
        ∧ (∀ j, j ≠ k → u.me.slots.get j = s.me.slots.get j)
        ∧ Awaits s u 1 (.slot k (bitAt (s.me.spadRd off 16) 25)))
    ∧ (b.bound = true → b.spad = false →
      (∀ i0 i1, s.barLink s.cur.core r = some (i0, i1) → exec (.bwait k) s = .next (raise 0x40 i0 i1 s)
        ∧ ∀ f, exec (.btest f k) s = .next (raise 0x40 i0 i1 s))
      ∧ (s.barLink s.cur.core r = none → ∀ j, barSpare r w = some j →
        exec (.bwait k) s = .next (raise 0x02 (fld w (j / 64 * 64) 64) j s)
          ∧ ∀ f, exec (.btest f k) s = .next (raise 0x02 (fld w (j / 64 * 64) 64) j s)))
    ∧ (readable → bitAt w 25 ≠ b.phase →
      (Completes (.bwait k) s fun u => MovesOn s u ∧ OtherCores s u ∧ MemoryKept u
        ∧ u.me = { s.me with slots := u.me.slots, view := u.me.view, own := u.me.own, seqs := u.me.seqs }
        ∧ u.me.slots.get k = { b with phase := !b.phase } ∧ ∀ j, j ≠ k → u.me.slots.get j = s.me.slots.get j)
      ∧ ∀ f : FReg, Completes (.btest f k) s fun u => Awaits s u 1 (.f f true) ∧ OtherCores s u ∧ MemoryKept u
        ∧ u.me = { s.me with slots := u.me.slots, view := u.me.view, own := u.me.own, pending := u.me.pending
                             seqs := u.me.seqs }
        ∧ u.me.slots.get k = { b with phase := !b.phase } ∧ ∀ j, j ≠ k → u.me.slots.get j = s.me.slots.get j)
    ∧ (b.bound = true → b.spad = true → s.flaws = [] → bitAt w 25 = b.phase → s.me.pool.wf = true → s.cur.seq = .ctl →
      (Completes (.bwait k) s fun u => u.cur.why = .barrier ∧ OtherCores s u
        ∧ (∀ a, rdByte u.mem a = rdByte s.mem a) ∧ u.me = { s.me with pool := u.me.pool, seqs := u.me.seqs }
        ∧ OnlySeq .ctl s.me u.me ∧ u.me.seq .ctl = { (s.me.seq .ctl).past 1 with acting := some (.barrier k) }
        ∧ PoolElsewhere b.addr 16 s.me u.me ∧ barNwait (u.me.spadRd b.addr 16) = (barNwait w + 1) % 2 ^ 16
        ∧ u.me.spadRd b.addr 16 % 2 ^ 72 = w % 2 ^ 72)
      ∧ ∀ f : FReg, Completes (.btest f k) s fun u => Awaits s u 1 (.f f false) ∧ OnlyMyCoreTicks s u
        ∧ u.me = { s.me with pending := u.me.pending, seqs := u.me.seqs })
    ∧ (∀ a, readable → b.spad = false → bitAt w 25 = b.phase → s.cur.seq = .ctl → s'.barKey r = some a →
      isAperture a = false → a + 16 ≤ 2 ^ 54 → s.Clean → (∀ j ∈ s'.barKeys r, s.hidden (j / 64) = none) → s.mem.wf = true →
      (Completes (.bwait k) s fun u => u.cur.why = .barrier ∧ OtherCores s u ∧ u.mem.wf = true
        ∧ u.me = { s.me with view := u.me.view, own := u.me.own, seqs := u.me.seqs } ∧ OnlySeq .ctl s.me u.me
        ∧ u.me.seq .ctl = { (s.me.seq .ctl).past 1 with acting := some (.barrier k) }
        ∧ barNwait (rdNat u.mem a 16) = (barNwait w + 1) % 2 ^ 16 ∧ rdNat u.mem a 16 % 2 ^ 72 = w % 2 ^ 72
        ∧ ∀ c, (c < a ∨ a + 16 ≤ c) → OffLeaves (s.barLeaf r).toList c → rdByte u.mem c = rdByte s.mem c)
      ∧ ∀ f : FReg, Completes (.btest f k) s fun u => Awaits s u 1 (.f f false) ∧ OtherCores s u ∧ MemoryKept u
        ∧ u = { s with mem := u.mem, cores := u.cores, clusters := u.clusters, dies := u.dies, moved := u.moved, free := u.free }
        ∧ u.me = { s.me with view := u.me.view, own := u.me.own, pending := u.me.pending, seqs := u.me.seqs })
    ∧ (b.bound = false → exec (.bwait k) s = .next (raise 0x0D k.val 0 s)
      ∧ ∀ f, exec (.btest f k) s = .next (raise 0x0D k.val 0 s))

/-! ## Leaving a core, REPART, pool objects and CHRD (R49 to R52, R59, R83, R174, R206, R209 to R211, R216) -/

/-- R43, R51, R52, R174, R206, R209: YIELD, PARK and CSW wait until every exposed write has landed; then they pin their task
and its queues drain before its save. CSW in a non-secure task raises PRIV, and one that names no saved run raises RESERVED;
it takes the named record with its leases, and waits while they cannot be granted (R71). A PARK with a reserved word raises
RESERVED, and one with WPEND set publishes, clears WPEND and goes on.

Readings and choices of the model's own that it rests on: log 2 and log 90. -/
def Obligations.Leaving : Prop :=
  ∀ (s : State) (tid : Nat) (t : Task) (x : Context), s.Runs tid t → mget t.record.ctx s.contexts = some x →
    let Drains (i : Instr) (why : Leave) : Prop := Completes i s fun u => u.cur.why = .switch ∧ OtherCores s u
      ∧ u.me = { s.me with mode := .drain why, seqs := u.me.seqs } ∧ MovesOn s u
      ∧ mget tid u.tasks = some { t with pinned := true } ∧ (∀ a, rdByte u.mem a = rdByte s.mem a)
    let settled : Prop := ∀ p ∈ s.me.pending, p.interlocked = true
    (settled → Drains .yield .yield)
    ∧ (¬ settled → Completes .yield s fun u => Waits s u .switch 0)
    ∧ (∀ a : XReg, let w := (s.me.xr a).toNat
      (settled → (fld w 32 4 = 0 ∨ 3 < fld w 32 4) → exec (.park a) s = .next (raise 0x02 w 32 s))
      ∧ (settled → 1 ≤ fld w 32 4 → fld w 32 4 ≤ 3 → 2 ^ 36 ≤ w → ∃ b, 36 ≤ b ∧ bitAt w b = true ∧ fld w 36 (b - 36) = 0
          ∧ exec (.park a) s = .next (raise 0x02 w b s))
      ∧ (1 ≤ fld w 32 4 → fld w 32 4 ≤ 3 → w < 2 ^ 36 → settled → x.wpend = false →
          Drains (.park a) (.park (w % 2 ^ 32) (fld w 32 4)))
      ∧ (1 ≤ fld w 32 4 → fld w 32 4 ≤ 3 → w < 2 ^ 36 → settled → x.wpend = true → s.cur.seq = .ctl →
          (s.storesBefore s.cycle = true → Completes (.park a) s fun u => u.cur.why = .switch ∧ OtherCores s u
            ∧ mget tid u.tasks = some { t with pinned := true } ∧ u.contexts = s.contexts
            ∧ u.me.seq .ctl = { (s.me.seq .ctl).past 1 with acting := some (.stores .park s.cycle) })
          ∧ (s.storesBefore s.cycle = false → s.PathClean t → Completes (.park a) s fun u => u.cur.why = .switch
            ∧ OtherCores s u ∧ (∀ a, rdByte u.mem a = rdByte s.mem a) ∧ mget tid u.tasks = some { t with pinned := true }
            ∧ mget t.record.ctx u.contexts = some { x with wpend := false } ∧ u.me.mode = s.me.mode
            ∧ (u.me.seq .ctl).pos = ((s.me.seq .ctl).past 1).pos ∧ s.cycle < (u.me.seq .ctl).hold
            ∧ (u.me.seq .ctl).holdCause = .switch))
      ∧ (¬ settled → Completes (.park a) s fun u => Waits s u .switch 0))
    ∧ ∀ (a : XReg) (i : Instr) (reg : Bool), ((i = .csw a ∧ reg = false) ∨ (i = .cswReg a ∧ reg = true)) →
      let w := (s.me.xr a).toNat
      (x.world = false → exec i s = .next (raise 0x04 s.cur.word 0 s))
      ∧ (x.world = true → settled → w < 2 ^ 48 → w % 2 ^ 16 ≠ 0 →
        ((mget (w % 2 ^ 16) s.contexts).map (·.state)).getD 0 ≠ 0 →
        (s.savedTask (w % 2 ^ 16) (w / 2 ^ 16) = none → exec i s = .next (raise 0x02 w 0 s))
        ∧ ∀ j v, s.savedTask (w % 2 ^ 16) (w / 2 ^ 16) = some j → j ≠ tid → mget j s.tasks = some v →
          (s.grantable v = false → Completes i s fun u => Waits s u .switch 0)
          ∧ (s.grantable v = true → Completes i s fun u => u.cur.why = .switch ∧ OtherCores s u
            ∧ u.me = { s.me with mode := .drain (.csw reg j), seqs := u.me.seqs } ∧ MovesOn s u
            ∧ mget tid u.tasks = some { t with pinned := true }
            ∧ ∃ hs, mget j u.tasks = some { v with standing := .staged s.cur.core, leased := hs }
              ∧ (s.cowPages v = [] → hs = s.leaseHeads v
                ∧ u.mem = (hs.foldl (fun s h => setLcnt h (· + 1) s) s).mem)))

/-- R59, R211, R368, R394: REPART with a legal word, where no unretired command touches a granule that changes region, sets the
boundaries, keeps the bytes of the granules that keep their place in their region, clears the others, and lowers the
allocation counts to their regions; a word that breaks R56 raises PARTITION, and one that must wait changes nothing. Where
granules leave the cache region it waits for every miss, and for the provisional lines as long as the cluster cache cannot take
them, which is a free value.

Readings and choices of the model's own that it rests on: log 8 and log 94. -/
def Obligations.Repartition : Prop :=
  ∀ (s : State) (a : XReg),
    let w := (s.me.xr a).toNat % 2 ^ 32
    let shrinks : Prop := s.me.bndc < fld w 16 7
    let waits : Prop := s.me.touchesChange (fld w 0 7) (fld w 8 7) (fld w 16 7) = true ∨ (shrinks ∧ s.me.missing = true)
    let spills : Prop := shrinks ∧ ∃ t, s.myTask = some t ∧ ∃ e ∈ t.epochs, e.cells ≠ []
    (partOk w = false → exec (.repart a) s = .next (raise 0x15 w 1 s))
    ∧ (partOk w = true → waits → Completes (.repart a) s fun u => Waits s u .repart 0)
    ∧ (partOk w = true → ¬ waits → spills → Config.spillBlocked s.free = true →
      Completes (.repart a) s fun u => Waits { s with free := s.free + 1 } u .repart 0)
    ∧ (partOk w = true → ¬ waits → (spills → Config.spillBlocked s.free = false) → s.me.pool.wf = true →
      Completes (.repart a) s fun u => OtherCores s u ∧ MovesOn s u
        ∧ ((¬ shrinks ∨ s.policy = []) → ∀ a, rdByte u.mem a = rdByte s.mem a)
        ∧ u.cur.why = .repart
        ∧ u.me = { s.me with pool := u.me.pool, poison := u.me.poison, bnda := u.me.bnda, bndb := u.me.bndb
                             bndc := u.me.bndc, allocV := u.me.allocV, allocS := u.me.allocS, seqs := u.me.seqs
                             view := u.me.view, dirty := u.me.dirty }
        ∧ (fld w 16 7 ≤ s.me.bndc → u.me.view = s.me.view ∧ u.me.dirty = s.me.dirty)
        ∧ u.me.bnda = fld w 0 7 ∧ u.me.bndb = fld w 8 7 ∧ u.me.bndc = fld w 16 7
        ∧ u.me.allocV = Nat.min s.me.allocV u.me.bnda ∧ u.me.allocS = Nat.min s.me.allocS (u.me.bndb - u.me.bnda)
        ∧ ∀ b, rdByte u.me.pool b =
          if regionOf s.me.bnda s.me.bndb s.me.bndc (b / 65536) = regionOf u.me.bnda u.me.bndb u.me.bndc (b / 65536)
              ∧ (regionOf s.me.bnda s.me.bndb s.me.bndc (b / 65536)).1 ≠ 3
          then rdByte s.me.pool b else 0)

/-- R83, R210, R387: SNAPO binds an entry to the object's current version, one more binding of it, or for a writer to a new
version that shares its pages: of memory it rewrites the entry and maps the version's pages. SNAPC ends a reader's binding,
and after the release of a writer makes its version current; of memory it rewrites the entry. The sub-codes of SNAP say why one
has no effect, and an entry that is not valid raises BUFFER.

R63, R83: the rewritten entry reads back with its POOL, PWR, VER and OBJ, and with its VBASE where it is bound, every other field
as before; no byte outside the entry changes. A page of a bound version is mapped at the leaf that the Chart has for it: the
page's frame in T2, and for a reader MASK bits 1, 3 and 6 clear; no byte outside the entries of that page changes.

R216: CHRD reads the head leaf that translates an address, FRAME and KEYID as zero for a non-secure task, and zeros
where no valid leaf does; both registers are interlocked, and nothing is stored. A handle of the scratchpad raises
OPSPACE, a head entry in a line that cannot be read raises POISON, and a home die that cannot be reached LINK.

Readings and choices of the model's own that it rests on: log 2, log 35, log 36, log 71 and log 81. -/
def Obligations.PoolObjectsAndChart : Prop :=
  (∀ (s : State) (a b : XReg) (x : Context) (tid : Nat) (t : Task), s.Runs tid t →
      mget t.record.ctx s.contexts = some x → s.cur.seq = .ctl →
      let i := (s.me.xr a).toNat % 2 ^ 20
      let o := (s.me.xr b).toNat % 2 ^ 32
      let e := s.buffer x i
      let bad : Prop := x.btlen ≤ i ∨ e.len = 0 ∨ e.reserved = true ∨ 4 ≤ e.ilv ∨ 2 ≤ e.integ
      let Held (u : State) : Prop := OtherCores s u ∧ u.me = { s.me with seqs := u.me.seqs } ∧ OnlySeq .ctl s.me u.me
        ∧ (u.me.seq .ctl).pos = ((s.me.seq .ctl).past 1).pos ∧ s.cycle < (u.me.seq .ctl).hold ∧ u.tasks = s.tasks
      let Bound (wr : Bool) (ver : Nat) (p : PoolObj) (ps : List (Nat × Nat)) (u : State) : Prop :=
        let s' := { s with objects := mput o p s.objects }
        mget o u.objects = some p
          ∧ u.mem = (mapVersion x (!wr) (p.baseOf ver) ps (bindEntry x i true wr ver o (some (p.baseOf ver % 2 ^ 56)) s')).mem
      (∀ wr : Bool, let y := if wr then Instr.snapoWr a b else .snapoRd a b
        (bad → exec y s = .next (raise 0x20 i x.btlen s))
        ∧ (¬ bad → s.entryLeased t.record.ctx i = true → exec y s = .next (raise 0x2C i 1 s))
        ∧ (¬ bad → s.entryLeased t.record.ctx i = false →
          (e.pool = true → exec y s = .next (raise 0x2C i 3 s))
          ∧ (e.pool = false → mget o s.objects = none → exec y s = .next (raise 0x2C i 5 s))
          ∧ ∀ p, e.pool = false → mget o s.objects = some p →
            (wr = true → p.writer ≠ none → exec y s = .next (raise 0x2C i 2 s))
            ∧ (wr = true → p.writer = none → p.current = 2 ^ 32 - 1 → exec y s = .next (raise 0x2C i 6 s))
            ∧ ∀ n ps, mget p.current p.versions = some (n, ps) →
              (wr = false → Completes y s fun u => Held u
                ∧ Bound false p.current { p with versions := mput p.current (n + 1, ps) p.versions } ps u)
              ∧ (wr = true → p.writer = none → p.current ≠ 2 ^ 32 - 1 → Completes y s fun u => Held u
                ∧ Bound true (p.current + 1)
                  { p with versions := mput (p.current + 1) (1, ps) p.versions, writer := some (p.current + 1) } ps u)))
      ∧ (s.Issuing →
        (bad → exec (.snapc a) s = .next (raise 0x20 i x.btlen s))
        ∧ (¬ bad → s.entryLeased t.record.ctx i = true → exec (.snapc a) s = .next (raise 0x2C i 1 s))
        ∧ (¬ bad → s.entryLeased t.record.ctx i = false → e.pool = false →
          exec (.snapc a) s = .next (raise 0x2C i 4 s))
        ∧ ∀ p n ps, ¬ bad → s.entryLeased t.record.ctx i = false → e.pool = true → e.pwr = false →
          mget e.obj s.objects = some p → mget e.ver p.versions = some (n, ps) → risingFrom 0 p.versions = true →
          Completes (.snapc a) s fun u => Held u ∧ u.mem = (bindEntry x i false false 0 0 none s).mem
            ∧ ∃ p', mget e.obj u.objects = some p' ∧ p'.current = p.current ∧ p'.writer = p.writer
              ∧ mget e.ver p'.versions = (if p.current ≠ e.ver ∧ n ≤ 1 then none else some (n - 1, ps))
              ∧ ∀ v, v ≠ e.ver → mget v p'.versions = mget v p.versions)
      ∧ ∀ p n ps, ¬ bad → s.entryLeased t.record.ctx i = false → e.pool = true → e.pwr = true →
          mget e.obj s.objects = some p → p.current ≠ e.ver → mget e.ver p.versions = some (n, ps) →
          risingFrom 0 p.versions = true →
          (∀ i1, s.poolCut (dieOf s.cur.core) e = some i1 → exec (.snapc a) s = .next (raise 0x40 i i1 s))
          ∧ (s.poolCut (dieOf s.cur.core) e = none → s.storesBefore s.cycle = true →
            Completes (.snapc a) s fun u => OtherCores s u ∧ u.objects = s.objects ∧ u.mem = s.mem
              ∧ mget tid u.tasks = some { t with pinned := true }
              ∧ u.me.seq .ctl = { (s.me.seq .ctl).past 1 with acting := some (.stores (.snapc i) s.cycle) })
          ∧ (s.poolCut (dieOf s.cur.core) e = none → s.storesBefore s.cycle = false → s.PathClean t →
            Completes (.snapc a) s fun u => OtherCores s u
              ∧ mget tid u.tasks = some { t with pinned := true } ∧ s.cycle < (u.me.seq .ctl).hold
              ∧ u.mem = (bindEntry x i false false 0 0 none s).mem
              ∧ ∃ p', mget e.obj u.objects = some p' ∧ p'.current = e.ver ∧ p'.writer = none
                ∧ mget e.ver p'.versions = some (n - 1, ps)
                ∧ ∀ v, v ≠ e.ver → v ≠ p.current → mget v p'.versions = mget v p.versions))
  ∧ ((∀ (s : State) (x : Context) (i : Nat) (pool pwr : Bool) (ver obj : Nat) (base : Option Nat), ver < 2 ^ 32 →
      obj < 2 ^ 32 → (∀ v ∈ base, v < 2 ^ 56) → s.mem.wf = true →
      let u := bindEntry x i pool pwr ver obj base s
      let a := t1 (x.btbase + 32 * i)
      OnlyMem s u ∧ u.mem.wf = true ∧ (∀ c, (c < a ∨ a + 32 ≤ c) → rdByte u.mem c = rdByte s.mem c)
        ∧ u.buffer x i = { s.buffer x i with
            pool := pool, pwr := pwr, ver := ver, obj := obj, vbase := base.getD (s.buffer x i).vbase
            reserved := (u.buffer x i).reserved }
        ∧ ((s.buffer x i).reserved = false → (u.buffer x i).reserved = false))
    ∧ ∀ (s : State) (x : Context) (reader : Bool) (base n f : Nat), s.mem.wf = true →
      let u := mapVersion x reader base [(n, f)] s
      (∀ e, s.walk x (base + 4096 * n) = .error e → u = s)
      ∧ (∀ l, s.walk x (base + 4096 * n) = .ok l → OnlyMem s u ∧ u.mem.wf = true
        ∧ fld (rdNat u.mem (t1 l.head) 16) 5 2 = 2 ∧ fld (rdNat u.mem (t1 l.head) 16) 32 40 = f % 2 ^ 40
        ∧ fld (rdNat u.mem (t1 l.head) 16) 8 8 = (if reader = true then l.mask &&& 0xB5 else l.mask)
        ∧ ∀ c, (c < t1 l.head ∨ t1 l.head + 16 * entriesOf (fld l.bits 2 3) ≤ c) → rdByte u.mem c = rdByte s.mem c)
      ∧ ∀ ps, mapVersion x reader base ((n, f) :: ps) s = mapVersion x reader base ps u)
  ∧ (∀ (s : State) (d : XReg) (h : HReg) (a : XReg) (tid : Nat) (t : Task) (x : Context), s.Runs tid t →
      mget t.record.ctx s.contexts = some x →
      ((s.me.h.get h).spc = true → exec (.chrd d h a) s = .next (raise 0x0A h.val 0 s))
      ∧ ∀ (off : Nat) (b : Buffer), (s.me.h.get h).spc = false →
        off = (s.me.h.get h).off.toNat + (s.me.xr a).toNat →
        s.checkEntry x t.record.ctx (s.me.h.get h).buf.toNat off 1 none = .ok b →
        let va := (b.vbase + off) % 2 ^ 56
        let i0 := (s.me.h.get h).buf.toNat + off % 2 ^ 44 * 2 ^ 20
        let home := Config.homeDie (walkEnd (s.walk x va))
        (s.ringPath (dieOf s.cur.core) home = false → exec (.chrd d h a) s = .next (raise 0x40 i0 (home.val * 256) s))
        ∧ (s.ringPath (dieOf s.cur.core) home = true →
          (∀ e, s.chartPoison va (s.walk x va) = some e →
            exec (.chrd d h a) s = .next (raise 0x2A i0 (e / 64 * 64) s))
          ∧ (s.chartPoison va (s.walk x va) = none → Completes (.chrd d h a) s fun u => OnlyMyCoreTicks s u
            ∧ u.me = { s.me with pending := u.me.pending, seqs := u.me.seqs } ∧ MovesOn s u
            ∧ ∃ lo hi p q, s.cycle < p ∧ s.cycle < q
              ∧ u.me.pending = s.me.pending ++ [⟨.x d lo, p, true, false⟩, ⟨.x (d + 1) hi, q, true, false⟩]
              ∧ (∀ e, s.walk x va = .error e → lo = 0 ∧ hi = 0)
              ∧ ∀ l, s.walk x va = .ok l → l.bits < 2 ^ 128 →
                fld lo.toNat 0 16 = fld l.bits 0 16
                ∧ fld lo.toNat 16 7 = (if x.world = true then fld l.bits 16 7 else 0)
                ∧ fld lo.toNat 23 9 = fld l.bits 23 9
                ∧ fld lo.toNat 32 32 = (if x.world = true then fld l.bits 32 32 else 0)
                ∧ fld hi.toNat 0 8 = (if x.world = true then fld l.bits 64 8 else 0)
                ∧ fld hi.toNat 8 56 = fld l.bits 72 56)))

/-! ## Commands: issue, operands and transfers (R29 to R34, R60, R61, R218 to R238) -/

/-- R29, R60, R218, R244, R276: a transfer, vector or matrix word is queued in its engine, with its handles, its position
and VL as they are in the cycle of its issue, and its sequencer moves on past it; while the queue holds sixteen commands it
waits.

R43, R230, R231, R237: BCOPY is queued in the load engine and pins its task. RADV of the producer of a bound queue
with a free slot is queued and moves the producer position on; it waits where no slot was free when the cycle began; by another sequencer or on an
unbound queue it raises TOKEN. -/
def Obligations.CommandIssue : Prop :=
  (∀ (s : State) (i : Instr) (e : Engine) (n : Nat), entersQueue s.cur.seq i = some (e, n) → s.Issuing →
      s.cur.instr = i →
      (16 ≤ (s.me.engine e).cmds.length → Completes i s fun u => Waits s u .queueFull (engIdx e).val)
      ∧ ((s.me.engine e).cmds.length < 16 → Completes i s fun u => ∃ m, Enters s u e i m ∧ OnlyMyCore s u
        ∧ u.me = { s.me with engines := u.me.engines, seqs := u.me.seqs } ∧ OnlySeq s.cur.seq s.me u.me
        ∧ u.me.seq s.cur.seq = (s.me.seq s.cur.seq).past n))
  ∧ ((∀ (s : State) (w : Xfer) (tid : Nat) (t : Task), s.Runs tid t → s.Issuing → s.cur.instr = .bcopy w →
      (16 ≤ (s.me.engine .load).cmds.length → Completes (.bcopy w) s fun u => Waits s u .queueFull 0)
      ∧ ((s.me.engine .load).cmds.length < 16 → (s.me.seq s.cur.seq).delay = none →
        Completes (.bcopy w) s fun u => ∃ m, Enters s u .load (.bcopy w) m ∧ m.task = tid
          ∧ OneTask s u tid { t with pinned := true } ∧ OtherCores s u ∧ u = { s with cores := u.cores, tasks := u.tasks }
          ∧ u.me = { s.me with engines := u.me.engines, seqs := u.me.seqs } ∧ MovesOn s u))
    ∧ ∀ (s : State) (g : Option Guard) (q : QReg), s.Issuing → s.cur.instr = .radv g q →
      let t := s.me.tok.get q
      let e : Engine := if s.cur.seq = .st then .store else .load
      ((t.used = false ∨ t.bound = false ∨ t.prod ≠ s.cur.seq) →
        exec (.radv g q) s = .next (raise 0x0B q.val (seqIdx s.cur.seq).val s))
      ∧ (t.used = true → t.bound = true → t.prod = s.cur.seq →
        (t.depth ≤ t.was + t.wasRadvs + b2n t.wasHeld → Completes (.radv g q) s fun u => Waits s u .token q.val)
        ∧ (t.was + t.wasRadvs + b2n t.wasHeld < t.depth → 16 ≤ (s.me.engine e).cmds.length →
          Completes (.radv g q) s fun u => Waits s u .queueFull (engIdx e).val)
        ∧ (t.was + t.wasRadvs + b2n t.wasHeld < t.depth → (s.me.engine e).cmds.length < 16 →
          Completes (.radv g q) s fun u => ∃ m, Enters s u e (.radv g q) m ∧ OnlyMyCore s u
            ∧ u.me = { s.me with engines := u.me.engines, seqs := u.me.seqs, tok := u.me.tok } ∧ MovesOn s u
            ∧ OtherTokens q s.me u.me ∧ u.me.tok.get q = { t with p := (t.p + 1) % t.depth, radvs := t.radvs + 1 })))

/-- R61, R220, R366: an operand in the scratchpad: each of its elements is the bits at its bit address; an element that
leaves the region raises OPRANGE with the first offset outside it.

R244, R245, R366: the sources of a vector command: L, the operand file and the main file by vector, a stream of the
scratchpad by the bits at its elements' addresses. A command whose handles, file entries or elements fail a check raises
that fault and writes nothing.

Readings and choices of the model's own that it rests on: log 30 and log 32. -/
def Obligations.Operands : Prop :=
  (∀ (s : State) (tid : Nat) (t : Task) (o : Opd) (w : Nat) (as : List Int) (a : Acts) (mask : Nat), o.hd.spc = true →
      0 < w → s.flaws = [] →
      ((∀ x ∈ as, s.me.spadHas x w) → ∃ ps, s.locate t o w as a mask = .ok ps 0 0 [] ∧ ps.length = as.length
        ∧ (fetchElems s.cur.core tid t o w [] ps s).2 = s
        ∧ ∀ (j : Nat) (x : Int), as[j]? = some x →
          ((fetchElems s.cur.core tid t o w [] ps s).1.getD j (0, false)).1 = s.me.spadBits x w
          ∧ ∃ p, ps[j]? = some p ∧ placeBits (rdByte s.me.pool) p w = s.me.spadBits x w)
      ∧ ∀ (pre post : List Int) (x : Int), as = pre ++ x :: post → (∀ y ∈ pre, s.me.spadHas y w) → ¬ s.me.spadHas x w →
        s.locate t o w as a mask
          = .bad (0x09, codeN 64 (if byteLo x < 0 then byteLo x else max (byteLo x) s.me.spadSize), s.me.spadSize))
  ∧ ((∀ (s : State) (m : Cmd) (t : Task) (n : Nat) (srcs : List (Operand × Nat)), s.flaws = [] →
      (∀ o ∈ srcs, o.2 ∈ [1, 4, 8, 16, 32, 64]) →
      (∀ o ∈ srcs, ∀ h off, o.1 = .stream h off → (m.opd h).hd.spc = true
        ∧ ∀ v i, v < n → i < perVec o.2 → s.me.spadHas (streamAt m h off o.2 v i) o.2) →
      ∃ xs, vecLocate s m t n srcs = .ok xs ∧
        let q := vecFetchAll s.cur.core m.task t n xs s
        q.2.2.1 = none ∧ q.2.2.2 = s ∧ q.1.length = srcs.length
          ∧ ∀ (j : Nat) (o : Operand × Nat), srcs[j]? = some o → ∀ v, v < n →
            let x := (q.1.getD j []).getD v noLanes
            ((∀ h off, o.1 ≠ .stream h off) → x = s.me.vecAt o.1 v)
            ∧ ∀ h off, o.1 = .stream h off → ∀ i, i < perVec o.2 →
              el x o.2 i = s.me.spadBits (streamAt m h off o.2 v i) o.2)
    ∧ ∀ (s : State) (i : Instr) (m : Cmd) (t : Task) (r : VecRule), s.Performs .vector m t →
      (floatRule m.vl i = some r ∨ bitsRule m.vl i = some r ∨ redRule m.vl i = some r ∨ ∃ xv, shiftRule m.vl xv i = some r) →
      m.reads = [] →
      let own := (streamsOf r.srcs).map (fun h => (m.opd h).reservedButFmt) ++ fileBad r.dst r.dn s.me
        :: r.srcs.map fun o => fileBad o.1 m.vl s.me
      (∀ f, firstOf own = some f → exec i s = .next (raiseCmd .vector m f.1 f.2.1 f.2.2 s))
      ∧ (firstOf own = none →
        (∀ f, vecLocate s m t m.vl r.srcs = .error (some f) → exec i s = .next (raiseCmd .vector m f.1 f.2.1 f.2.2 s))
        ∧ (vecLocate s m t m.vl r.srcs = .error none → exec i s = .next s)))

/-- R93, R220, R223, R224, R232, R383: COPY, COPYT, COPYC and FILL move every element of their shape once every check has
passed. A command whose own fields or elements fail a check raises that fault and moves nothing, and one that meets a page
in motion waits.

R226, R227: GATHER and SCATTER read their whole index list first, and then move the rows that it names; of a GATHER of more
than 64 rows from memory the base dies read the rows.

Readings and choices of the model's own that it rests on: log 32 and log 42. -/
def Obligations.Transfers : Prop :=
  (∀ (s : State) (i : Instr) (m : Cmd) (t : Task) (r : MoveRule), s.Performs s.cur.eng m t →
      m.instr = i → moveRule m i = some r →
      (∀ f, xferBad m r.dst r.src r.formats = some f → exec i s = .next (raiseCmd s.cur.eng m f.1 f.2.1 f.2.2 s))
      ∧ (xferBad m r.dst r.src r.formats = none →
        (∀ f, s.locate t r.src r.src.width r.sa .read 2 = .bad f →
          exec i s = .next (raiseCmd s.cur.eng m f.1 f.2.1 f.2.2 s))
        ∧ (s.locate t r.src r.src.width r.sa .read 2 = .wait → exec i s = .next s)
        ∧ ∀ ps qs ls ms, s.Moves m t r ps qs ls ms → s.me.pool.wf = true → s.mem.wf = true →
          Completes i s (MoveEffect i s r (s.sourceOf m t r ls ps) qs ls ms)))
  ∧ (∀ (s : State) (w : Xfer) (xh : HReg) (gather : Bool) (m : Cmd) (t : Task) (i : Instr),
      s.Performs s.cur.eng m t → i = (if gather then .gather w xh else .scatter w xh) → m.instr = i →
      let x := m.opd xh
      let formats := (m.opd w.dh).fmt.width == (m.opd w.sh).fmt.width
      (∀ f, xferBad m (m.opd w.dh) (m.opd w.sh) formats = some f →
        exec i s = .next (raiseCmd s.cur.eng m f.1 f.2.1 f.2.2 s))
      ∧ (xferBad m (m.opd w.dh) (m.opd w.sh) formats = none → x.reserved = none →
        (Fmt.isIndex x.fmt = false → exec i s = .next (raiseCmd s.cur.eng m 0x08 x.hd.fmt.toNat xh.val s))
        ∧ ∀ xs kid integ ls, Fmt.isIndex x.fmt = true → s.Clean →
          s.locate t x x.width (rowIndices m w xh gather) .read 2 = .ok xs kid integ ls →
          let f := fetchElems s.cur.core m.task t x x.width ls xs s
          let s1 := f.2
          let idx (j : Nat) : Int := let v := (f.1.getD j (0, false)).1
            if x.fmt.isSigned then sextN x.width v else v
          let r := rowRule m w gather idx
          (x.hd.spc = false → checkStop integ f.1 = none) →
          ∀ ps qs ls ms, s1.Moves m t r ps qs ls ms → s1.me.pool.wf = true → s1.mem.wf = true →
            let base := gather && !r.src.hd.spc && decide (64 < (rowShape w.cnt (m.opd w.dh)).2.1)
            let s2 := if base = true then baseRows s.cur.core t ls ps s1 else s1
            (r.src.hd.spc = false → ∀ kid integ ls', s1.locate t r.src r.src.width r.sa .read 2 = .ok ps kid integ ls' →
              checkStop integ (fetchElems s.cur.core m.task t r.src r.src.width ls ps s2).1 = none) →
            Completes i s (MoveEffect i s1 r (s2.sourceOf m t r ls ps) qs ls ms)))

/-- R44, R115, R228: REDADD within its write allowance holds one addition for each element with the provisional effects of
an unpinned task; in a pinned task it adds the element to the value at its home and leaves the sum there.

Readings and choices of the model's own that it rests on: log 42. -/
def Obligations.Reductions : Prop :=
  ∀ (s : State) (w : Xfer) (m : Cmd) (t : Task), s.Performs .store m t → m.instr = .redadd w →
    let dst := m.opd w.dh
    let src := m.opd w.sh
    let ix := indices (countShape w.cnt dst)
    m.barBad = none → dst.reserved = none → src.reserved = none → dst.hd.spc = false → src.hd.spc = true →
    dst.fmt = src.fmt → Fmt.isRedadd dst.fmt = true →
    ∀ ps qs kid integ ls, (∀ i ∈ ix, s.me.spadHas (src.bit w.soff.toInt i.1 i.2.1 i.2.2) src.width) →
    s.locate t src src.width (ix.map fun i => src.bit w.soff.toInt i.1 i.2.1 i.2.2) .read 2 = .ok ps 0 0 [] →
    s.locate t dst dst.width (ix.map fun i => dst.bit w.doff.toInt i.1 i.2.1 i.2.2) .redadd 3 = .ok qs kid integ ls →
    s.Clean → redPoison s t integ dst ls (ix.map fun i => dst.bit w.doff.toInt i.1 i.2.1 i.2.2) qs = none →
    (∀ v ∈ (fetchElems s.cur.core m.task t src src.width [] ps s).1, v.2 = false) → s.mem.wf = true →
    let stamp := 4 * m.issued + (seqIdx m.seq).val
    let added := (qs.zip ix).map fun e => Held.redadd (e.1.keys.map (tagKey ls)) dst.hd.fmt.toNat
      (s.me.spadBits (src.bit w.soff.toInt e.2.1 e.2.2.1 e.2.2.2) src.width) stamp m.seq m.pos m.num
      (dst.request (dst.bit w.doff.toInt e.2.1 e.2.2.1 e.2.2.2)) false
    (t.pinned = false → (∀ v, HoldsAlso added stamp t v → v.footLines.length ≤ t.record.awr) →
      Completes (.redadd w) s fun u => (∃ v, OneTask s u m.task v ∧ HoldsAlso added stamp t v) ∧ HasStarted s u
        ∧ OtherCores s u ∧ u.me = { s.me with view := u.me.view, own := u.me.own, engines := u.me.engines }
        ∧ u.mem.wf = true ∧ ∀ a, OffLeaves ls a → rdByte u.mem a = rdByte s.mem a)
    ∧ ∀ key, t.pinned = true → ix = [(0, 0, 0)] → qs = [⟨keysFrom key (dst.width / 8), 0⟩] → s.PathClean t →
      isAperture key = false → (keysFrom key (dst.width / 8)).map (tagKey ls) = keysFrom (tagKey ls key) (dst.width / 8) →
      s.Unhidden ls (keysFrom key (dst.width / 8)) →
      (∀ j, j < dst.width / 8 → OffLeaves ls (key + j)) →
      Completes (.redadd w) s fun u => HasStarted s u ∧ OtherCores s u ∧ u.mem.wf = true
        ∧ rdNat u.mem key (dst.width / 8) = addElem dst.fmt (rdNat s.mem key (dst.width / 8))
            (s.me.spadBits (src.bit w.soff.toInt 0 0 0) src.width) % 2 ^ dst.width
        ∧ ∀ a, (a < key ∨ key + dst.width / 8 ≤ a) → OffLeaves ls a → rdByte u.mem a = rdByte s.mem a

/-- R229, R231, R237: PREF starts and loads nothing that a program can see: only the count of dropped lines may change.
BCOPY waits for the store commands issued before it and for one of its die's 24 BTEs, and then hands its runs to it (R12,
R231); where an element fails a check, the first one's fault is raised, its source's before its destination's (R424). RADV waits until every older command of its queue has retired, and then gives its token and is gone.

Readings and choices of the model's own that it rests on: log 27 and log 28. -/
def Obligations.PrefetchBulkAndAdvance : Prop :=
  (∀ (s : State) (g : Option Guard) (sh : HReg) (soff : BitVec 24) (cnt : BitVec 12) (m : Cmd) (t : Task),
    s.Performs .load m t → (m.opd sh).reserved = none → s.mem.wf = true →
    Completes (.pref g sh soff cnt) s fun u => HasStarted s u ∧ OtherCores s u ∧ u.tasks = s.tasks
      ∧ u.me = { s.me with engines := u.me.engines } ∧ u.mem.wf = true
      ∧ let c := t1 ((s.die (dieOf s.cur.core)).mring + 12)
        ∀ a, (a < c ∨ c + 6 ≤ a) → rdByte u.mem a = rdByte s.mem a)
  ∧ (∀ (s : State) (w : Xfer) (m : Cmd) (t : Task), s.Performs .load m t →
    let dst := m.opd w.dh
    let src := m.opd w.sh
    let from' (o : Opd) (d : BitVec 24) : Int := byteLo (o.bit d.toInt 0 0 0)
    let len := if w.cnt = 0 then ceilDiv (Shape.size src.shape * src.width) 8 else 4096 * w.cnt.toNat
    m.barBad = none → dst.reserved = none → src.reserved = none → dst.hd.spc = false → src.hd.spc = false →
    src.bit w.soff.toInt 0 0 0 % 512 = 0 → dst.bit w.doff.toInt 0 0 0 % 512 = 0 →
    ((∃ e ∈ (s.me.engine .store).cmds, e.issued < m.issued) → exec (.bcopy w) s = .next s)
    ∧ (s.freeBte (dieOf s.cur.core) = none → exec (.bcopy w) s = .next s)
    ∧ ((∀ i < 24, (∃ b, ∃ k, mget k s.bulks = some b ∧ dieOf b.core = dieOf s.cur.core ∧ b.bte = i)
        ∨ ∃ b, ∃ k, mget k s.moves = some b ∧ b.die = dieOf s.cur.core ∧ b.bte = i) →
      s.freeBte (dieOf s.cur.core) = none)
    ∧ ((∀ e ∈ (s.me.engine .store).cmds, m.issued ≤ e.issued) →
      ∀ bte ks kid integ ls qs kid' integ' ms, s.freeBte (dieOf s.cur.core) = some bte →
      bulkLoc s t src (from' src w.soff) len .read 5 = .ok ks kid integ ls →
      bulkLoc s t dst (from' dst w.doff) len .write 6 = .ok qs kid' integ' ms →
      Completes (.bcopy w) s fun u => HasStarted s u ∧ OtherCores s u
        ∧ (∃ b, mget (m.task * 65536 + m.num) u.bulks = some b ∧ b.task = m.task ∧ b.core = s.cur.core ∧ b.num = m.num
          ∧ b.src = ks.map (tagKey ls) ∧ b.dst = qs.map (tagKey ms) ∧ b.len = len ∧ b.bar = m.bar ∧ b.bte = bte ∧ s.cycle < b.till
          ∧ 47 * len ≤ 10000 * (b.till - s.cycle))
        ∧ ∃ v, mget m.task u.tasks = some v ∧ v.bcopies = t.bcopies + 1)
    ∧ ((∀ e ∈ (s.me.engine .store).cmds, m.issued ≤ e.issued) → s.freeBte (dieOf s.cur.core) ≠ none →
      (∀ ks kid integ ls qs kid' integ' ms, ¬ (bulkLoc s t src (from' src w.soff) len .read 5 = .ok ks kid integ ls
        ∧ bulkLoc s t dst (from' dst w.doff) len .write 6 = .ok qs kid' integ' ms)) →
      ∀ a i j, bulkFirst s t src dst (from' src w.soff) (from' dst w.doff) len = some (.bad a i j) →
        exec (.bcopy w) s = .next (raiseCmd s.cur.eng m a i j s)))
  ∧ ∀ (s : State) (g : Option Guard) (q : QReg) (m : Cmd) (t : Task), s.Performs s.cur.eng m t →
    (∀ x rest, (s.me.engine s.cur.eng).cmds = x :: rest → (x.task ≠ m.task ∨ x.num ≠ m.num) →
      exec (.radv g q) s = .next s)
    ∧ (∀ rest, (s.me.engine s.cur.eng).cmds = m :: rest → s.me.task = some m.task →
      Completes (.radv g q) s fun u => OnlyMyCore s u ∧ u.me = { s.me with tok := u.me.tok, engines := u.me.engines }
        ∧ OtherTokens q s.me u.me
        ∧ u.me.tok.get q = { s.me.tok.get q with count := (s.me.tok.get q).count + 1, radvs := (s.me.tok.get q).radvs - 1 }
        ∧ (u.me.engine s.cur.eng).cmds
          = (s.me.engine s.cur.eng).cmds.filter fun x => !(x.task == m.task && x.num == m.num))

/-! ## The vector engine (R242 to R264) -/

/-- R244 to R247, R249 to R253, R258, R259, R264: the elementwise vector instructions: arithmetic, bit operations,
conversion, packing, moves and permutes.

R141, R260 to R263: the reductions, rankings and scans.

R34, R246, R265: a command without a stream of the scratchpad, or of one vector whose first busy cycle has come, reads and writes as it
starts; any other reads on, each vector of such a stream in its first busy cycle, and writes with the last.

Readings and choices of the model's own that it rests on: log 9, log 30 and log 42. -/
def Obligations.VectorArithmetic : Prop :=
  (∀ (s : State) (i : Instr) (m : Cmd) (t : Task) (r : VecRule) (xs : List VSrc), s.Performs .vector m t →
      (floatRule m.vl i = some r ∨ bitsRule m.vl i = some r
        ∨ shiftRule m.vl (match i with
          | .vcvt w _ _ _ => streamXv m w.a
          | _ => none) i = some r) →
      s.Fetches m t r m.vl xs → s.AtOnce r.srcs m.vl xs → s.me.pool.wf = true →
      let q := vecFetchAll s.cur.core m.task t m.vl xs s
      Completes i s (VectorEffect s q.2.2.2 r fun j v => (q.1.getD j []).getD v noLanes))
  ∧ (∀ (s : State) (i : Instr) (m : Cmd) (t : Task) (r : VecRule) (xs : List VSrc), s.Performs .vector m t →
      redRule m.vl i = some r → m.vl ≤ 64 → r.srcs.all (fun o => o.2 == 32) = true →
      s.Fetches m t r m.vl xs → s.AtOnce r.srcs m.vl xs → s.me.pool.wf = true →
      let q := vecFetchAll s.cur.core m.task t m.vl xs s
      Completes i s (VectorEffect s q.2.2.2 r fun j v => (q.1.getD j []).getD v noLanes))
  ∧ (∀ (s : State) (i : Instr) (m : Cmd) (t : Task) (r : VecRule) (xs : List VSrc), s.Performs .vector m t →
      (floatRule m.vl i = some r ∨ bitsRule m.vl i = some r ∨ redRule m.vl i = some r
        ∨ shiftRule m.vl (match i with
          | .vcvt w _ _ _ => streamXv m w.a
          | _ => none) i = some r) →
      s.Fetches m t r m.vl xs → ¬ s.AtOnce r.srcs m.vl xs →
      let q := vecFetchAll s.cur.core m.task t m.vl xs s
      Completes i s fun u => HasStarted s u ∧ OtherCores s u ∧ u.tasks = q.2.2.2.tasks ∧ u.mem = q.2.2.2.mem
        ∧ u.me = { q.2.2.2.me with engines := u.me.engines }
        ∧ ∃ reads, (∀ f ∈ reads, s.cycle < f) ∧ reads.Pairwise (· < ·)
          ∧ reads.length = m.vl - (if s.firstRead r.srcs xs ≤ s.cycle then 1 else 0)
          ∧ s.ReadsOn u m r.srcs m.vl reads fun j v => (q.1.getD j []).getD v noLanes)
  ∧ (∀ (s : State) (i : Instr) (m : Cmd) (t : Task) (r : VecRule) (f : Nat) (rest : List Nat), s.Performs .vector m t →
      (floatRule m.vl i = some r ∨ bitsRule m.vl i = some r ∨ (redRule m.vl i = some r ∧ m.vl ≤ 64
          ∧ r.srcs.all (fun o => o.2 == 32) = true)
        ∨ shiftRule m.vl (match i with
          | .vcvt w _ _ _ => streamXv m w.a
          | _ => none) i = some r) →
      r.dst.isDest = true → fileBad r.dst r.dn s.me = none → s.ReadsNext m r.srcs m.vl f rest → s.me.pool.wf = true →
      ∃ x, s.TakesNext m r.srcs m.vl rest x
        ∧ (rest ≠ [] → Completes i s fun u => s.ReadsOn u m r.srcs m.vl rest x ∧ OnlyMyCore s u
            ∧ u.me = { s.me with engines := u.me.engines })
        ∧ (rest = [] → Completes i s (VectorEffect s s r x)))

/-- R248, R254 to R257, R264, R390: VCMP writes all 64 bits of its predicate, from the first element of each lane, and zero
where its own predicate masks; the predicate logic writes one predicate; a VOTE's result lands in the flag or in x62 in the
next cycle, and a poisoned predicate raises POISON; VSETN sets VL as CMP issues it.

Readings and choices of the model's own that it rests on: log 31 and log 67. -/
def Obligations.Predicates : Prop :=
  (∀ (s : State) (fmt : Fmt) (pred : Option PReg) (g : Option Guard) (pd : PReg) (cond : VCond) (a b : Operand) (m : Cmd)
    (t : Task) (xs : List VSrc), s.Performs .vector m t →
    let srcs := [(a, fmt.width), (b, fmt.width)]
    m.reads = [] →
    (∀ h ∈ streamsOf srcs, (m.opd h).reservedButFmt = none) → (∀ o ∈ srcs, fileBad o.1 1 s.me = none) →
    vecLocate s m t 1 srcs = .ok xs → (vecFetchAll s.cur.core m.task t 1 xs s).2.2.1 = none →
    let q := vecFetchAll s.cur.core m.task t 1 xs s
    let x (j l : Nat) : Nat := el ((q.1.getD j []).getD 0 noLanes) fmt.width (l * 32 / fmt.width)
    (s.AtOnce srcs 1 xs → Completes (.vcmp fmt pred g pd cond a b) s fun u => HasStarted s u
      ∧ u = { q.2.2.2 with cores := u.cores, free := u.free } ∧ OtherCores s u ∧ u.me = { q.2.2.2.me with p := u.me.p, poison := u.me.poison, engines := u.me.engines }
      ∧ (∀ c, c ≠ pd → u.me.p.get c = s.me.p.get c)
      ∧ ∀ l : Fin 64, (u.me.p.get pd).getLsbD l.val
        = ((s.me.maskOf pred).getLsbD l.val && vcond fmt cond (x 0 l.val) (x 1 l.val)))
    ∧ (¬ s.AtOnce srcs 1 xs → s.Clean → Completes (.vcmp fmt pred g pd cond a b) s fun u => HasStarted s u ∧ OtherCores s u
      ∧ u.me = { q.2.2.2.me with engines := u.me.engines }
      ∧ s.ReadsOn u m srcs 1 [s.firstRead srcs xs] fun j v => (q.1.getD j []).getD v noLanes))
  ∧ (∀ (s : State) (fmt : Fmt) (pred : Option PReg) (g : Option Guard) (pd : PReg) (cond : VCond) (a b : Operand) (m : Cmd)
    (t : Task) (f : Nat), s.Performs .vector m t →
    let srcs := [(a, fmt.width), (b, fmt.width)]
    s.ReadsNext m srcs 1 f [] →
    ∃ y, s.TakesNext m srcs 1 [] y ∧
      let x (j l : Nat) : Nat := el (y j 0) fmt.width (l * 32 / fmt.width)
      Completes (.vcmp fmt pred g pd cond a b) s fun u => HasStarted s u ∧ OnlyMyCore s u
        ∧ u.me = { s.me with p := u.me.p, poison := u.me.poison, engines := u.me.engines }
        ∧ (∀ c, c ≠ pd → u.me.p.get c = s.me.p.get c)
        ∧ ∀ l : Fin 64, (u.me.p.get pd).getLsbD l.val
          = ((s.me.maskOf pred).getLsbD l.val && vcond fmt cond (x 0 l.val) (x 1 l.val)))
  ∧ (∀ (s : State) (i : Instr) (pd : PReg) (v : Dword) (m : Cmd) (t : Task), s.Performs .vector m t →
    ((∃ g pa pb, i = .vpand g pd pa pb ∧ v = s.me.p.get pa &&& s.me.p.get pb)
      ∨ (∃ g pa pb, i = .vpor g pd pa pb ∧ v = s.me.p.get pa ||| s.me.p.get pb)
      ∨ (∃ g pa pb, i = .vpxor g pd pa pb ∧ v = s.me.p.get pa ^^^ s.me.p.get pb)
      ∨ ∃ g pa, i = .vpnot g pd pa ∧ v = ~~~ s.me.p.get pa) →
    Completes i s fun u => HasStarted s u ∧ OnlyMyCore s u ∧ u.me.p.get pd = v
      ∧ u.me = { s.me with p := u.me.p, poison := u.me.poison, engines := u.me.engines }
      ∧ ∀ c, c ≠ pd → u.me.p.get c = s.me.p.get c)
  ∧ (∀ (s : State) (i : Instr) (pred : Option PReg) (pa : PReg) (d : Dest) (m : Cmd) (t : Task), s.Performs .vector m t →
    let on := s.me.maskOf pred
    let x := s.me.p.get pa &&& on
    ((∃ g f, i = .voteAny pred g f pa ∧ d = .f f (decide (x ≠ 0)))
      ∨ (∃ g f, i = .voteAll pred g f pa ∧ d = .f f (decide (x = on)))
      ∨ (∃ g f, i = .voteNone pred g f pa ∧ d = .f f (decide (x = 0)))
      ∨ ∃ g, i = .voteCnt pred g pa ∧ d = .x 62 (BitVec.ofNat 64 ((List.range 64).countP fun l => x.getLsbD l))) →
    let bad := predUnit pa.val ∈ s.me.poison ∨ ∃ p, pred = some p ∧ predUnit p.val ∈ s.me.poison
    (bad → exec i s = .next (raiseCmd .vector m 0x2A 0 0 s))
    ∧ (¬ bad → s.me.task = some m.task → Completes i s fun u => HasStarted s u ∧ OnlyMyCore s u
      ∧ u.me = { s.me with pending := s.me.pending ++ [⟨d, s.cycle + 1, false, true⟩], engines := u.me.engines }))
  ∧ ∀ (s : State) (n : BitVec 7), Completes (.vsetn n) s fun u => OnlyMyCore s u
    ∧ u.me = { s.me with vl := n.toNat, seqs := u.me.seqs } ∧ MovesOn s u

/-! ## The matrix engine (R134 to R140, R269 to R283) -/

/-- R271, R272, R276, R280 to R283, R365: a matrix command whose word, handles or tile are not valid raises that fault and
changes nothing. MZERO clears its tile, MLD loads it, MST stores each element scaled, biased and converted, with its
overflows and NaNs counted; MSTAT stores the counter word of a tile and MCLR clears it. What MST and MSTAT store lands in the
scratchpad by the end of their busy cycles (R286). No other byte of the pool changes.

Readings and choices of the model's own that it rests on: log 15, log 22, log 32, log 41 and log 42. -/
def Obligations.MatrixTiles : Prop :=
  ∀ (s : State) (m : Cmd) (t : Task), s.Performs .matrix m t →
    (∀ (i : Instr) (op : MatOp) (w : Mat) (f : Nat × Nat × Nat), matFields i m.word = some (op, w) →
      matBadWord s.me m op w = some f → exec i s = .next (raiseCmd .matrix m f.1 f.2.1 f.2.2 s))
    ∧ (s.me.pool.wf = true → s.flaws = [] → ∀ w : Mat, (w.bat = true → matCount w.m ≤ 16 ∧ matCount w.n ≤ 16) →
      let wc := m.format.wc
      let o := m.opd w.ah
      (matBadWord s.me m .mzero w = none → Completes (.mzero w) s fun u => MatrixFrame s u
        ∧ (∀ e ∈ matElems w, tileVal u.me w wc e = 0)
        ∧ ∀ a, (∀ e ∈ matElems w, a < tileAt s.me w wc e ∨ tileAt s.me w wc e + wc ≤ a) →
          rdByte u.me.pool a = rdByte s.me.pool a)
      ∧ (matBadWord s.me m .mld w = none →
        (∀ e ∈ matElems w, s.me.spadHas (o.bitM (8 * wc) w.aoff.toInt (partner w e)) (8 * wc)) →
        Completes (.mld w) s fun u => MatrixFrame s u
        ∧ (∀ e ∈ matElems w, tileVal u.me w wc e
          = s.me.spadBits (o.bitM (8 * wc) w.aoff.toInt (partner w e)) (8 * wc))
        ∧ ∀ a, (∀ e ∈ matElems w, a < tileAt s.me w wc e ∨ tileAt s.me w wc e + wc ≤ a) →
          rdByte u.me.pool a = rdByte s.me.pool a)
      ∧ (matBadWord s.me m .mst w = none →
        let f := m.format
        let out := f.o.getD .f32
        let mode := rndOf f.rnd
        let at' (e : Nat × Nat × Nat) : Int := o.bitM out.width w.aoff.toInt (partner w e)
        let col (h : HReg) (e : Nat × Nat × Nat) : Machine.Num :=
          decodeF .f32 (s.me.spadBits ((m.opd h).bitM 32 0 (columnAt w e, 0, 0)) 32)
        let x (e : Nat × Nat × Nat) : Machine.Num := decodeAny (f.c.getD .f32) none (tileVal s.me w wc e)
        let y (e : Nat × Nat × Nat) : Machine.Num := if f.sce = true then mulNum (x e) (col w.sh e) else x e
        let z (e : Nat × Nat × Nat) : Machine.Num := if f.bie = true then addNum mode (y e) (col w.zh e) else y e
        let code (e : Nat × Nat × Nat) : Nat × Bool := outCode f out mode (z e)
        (∀ e ∈ matElems w, s.me.spadHas (at' e) out.width) →
        (∀ j : Nat, j < matColumns w → (f.sce = true → s.me.spadHas ((m.opd w.sh).bitM 32 0 (j, 0, 0)) 32)
          ∧ (f.bie = true → s.me.spadHas ((m.opd w.zh).bitM 32 0 (j, 0, 0)) 32)) →
        (matElems w).Pairwise (fun d e => at' d + out.width ≤ at' e ∨ at' e + out.width ≤ at' d) →
        Completes (.mst w) s fun u => MatrixFrame s u
        ∧ Counted s u w ((matElems w).countP fun e => (code e).2)
          ((matElems w).countP fun e => Fmt.isFloat out && (decodeF out (code e).1).isNan)
        ∧ (∀ a, (a < counterAt s.me w ∨ counterAt s.me w + 4 ≤ a) → rdByte u.me.pool a = rdByte s.me.pool a)
        ∧ LandsBy s u (matBusy .mst w f) fun v =>
          (∀ e ∈ matElems w, v.me.spadBits (at' e) out.width = (code e).1 % 2 ^ out.width)
          ∧ ∀ a, (∀ e ∈ matElems w, a < s.me.spadBase + (byteLo (at' e)).toNat
              ∨ s.me.spadBase + (byteHi (at' e) out.width).toNat ≤ a) → rdByte v.me.pool a = rdByte u.me.pool a)
      ∧ (matBadWord s.me m .mstat w = none → s.me.spadHas (o.bitM 32 w.aoff.toInt (0, 0, 0)) 32 →
        let b := s.me.spadBase + (byteLo (o.bitM 32 w.aoff.toInt (0, 0, 0))).toNat
        Completes (.mstat w) s fun u => MatrixFrame s u ∧ (∀ a, rdByte u.me.pool a = rdByte s.me.pool a)
        ∧ LandsBy s u 1 fun v => rdNat v.me.pool b 4 = rdNat s.me.pool (counterAt s.me w) 4
          ∧ ∀ a, (a < b ∨ b + 4 ≤ a) → rdByte v.me.pool a = rdByte s.me.pool a)
      ∧ (w = matOf m.word → matBadWord s.me m .mclr w = none → Completes .mclr s fun u => MatrixFrame s u
        ∧ rdNat u.me.pool (counterAt s.me w) 4 = 0
        ∧ ∀ a, (a < counterAt s.me w ∨ counterAt s.me w + 4 ≤ a) → rdByte u.me.pool a = rdByte s.me.pool a))

/-- R134 to R140, R275, R278, R279: MMA, MMAB and MMAG add to each element of the tile, or to zero, the sum over k of the
products of A's row and B's column, and count its overflows and NaNs. Integer sums are exact modulo 2^32. No other byte of
the pool changes.

Readings and choices of the model's own that it rests on: log 22, log 41 and log 42. -/
def Obligations.MatrixProducts : Prop :=
  ∀ (s : State) (m : Cmd) (t : Task) (w : Mat), s.Performs .matrix m t → s.me.pool.wf = true → s.flaws = [] →
    let f := m.format
    let af := f.a.getD .f32
    let bf := f.b.getD .f32
    let old (e : Nat × Nat × Nat) : Nat := if w.acc = .ovw then 0 else tileVal s.me w f.wc e
    (∀ e ∈ matElems w, ∀ k, k < w.k.toNat →
      s.me.spadHas ((m.opd w.ah).bitM af.width w.aoff.toInt (if w.ta then (e.2.1, k, e.1) else (k, e.2.1, e.1))) af.width
      ∧ s.me.spadHas ((m.opd w.bh).bitM bf.width w.boff.toInt (if w.tb then (k, e.2.2, e.1) else (e.2.2, k, e.1)))
        bf.width) →
    (w.bat = true → matCount w.m ≤ 16 ∧ matCount w.n ≤ 16) →
    (∀ (i : Instr) (op : MatOp), (i = .mma w ∧ op = .mma) ∨ (i = .mmab w ∧ op = .mmab) → matBadWord s.me m op w = none →
      let new (e : Nat × Nat × Nat) : Acc3 := sumRule m w af bf (aBits s m w af e) (bBits s m w bf e) (old e)
      Completes i s fun u => MatrixFrame s u
        ∧ (∀ e ∈ matElems w, tileVal u.me w f.wc e = (new e).1 % 2 ^ (8 * f.wc)
          ∧ ∀ c, pairRule af bf = some (c, .wrap) → f.wc = 4 →
            let sum := ((List.range w.k.toNat).map fun k =>
              elemInt af (aBits s m w af e k) * elemInt bf (bBits s m w bf e k)).sum
            ((tileVal u.me w 4 e : Int) - (old e + (if w.acc = .neg then -sum else sum))) % 2 ^ 32 = 0)
        ∧ Counted s u w ((matElems w).map fun e => (new e).2.1).sum ((matElems w).map fun e => (new e).2.2).sum
        ∧ ∀ a, OffTile s.me w f.wc a → rdByte u.me.pool a = rdByte s.me.pool a)
    ∧ (matBadWord s.me m .mmag w = none →
      let zp := f.shifted .mmag
      let col (e : Nat × Nat × Nat) : Nat := if f.groupedA then e.2.1 else e.2.2
      let cell (o : Opd) (b g j : Nat) : Int := o.bitM b 0 (if o.hd.glay then (j, g, 0) else (g, j, 0))
      let scale (e : Nat × Nat × Nat) (g : Nat) : Machine.Num :=
        decodeF .f16 (s.me.spadBits (cell (m.opd w.sh) 16 g (col e)) 16)
      let zero (e : Nat × Nat × Nat) (k : Nat) : Nat :=
        if zp then s.me.spadBits (cell (m.opd w.zh) 8 (k / f.group) (col e)) 8 else 0
      let pair (e : Nat × Nat × Nat) (k : Nat) : Machine.Num × Machine.Num :=
        let a := aBits s m w af e k
        let b := bBits s m w bf e k
        if f.groupedA then (numOfInt ((a : Int) - zero e k), matNum (m.opd w.bh) f bf b)
        else (matNum (m.opd w.ah) f af a, numOfInt ((b : Int) - zero e k))
      let new (e : Nat × Nat × Nat) : Acc3 :=
        sumGroups (w.acc == .neg) ((List.range w.k.toNat).map (pair e)) (scale e) f.group (old e)
      (∀ g j, g < ceilDiv w.k.toNat f.group → j < (if f.groupedA then matCount w.m else matCount w.n) →
        s.me.spadHas (cell (m.opd w.sh) 16 g j) 16 ∧ (zp = true → s.me.spadHas (cell (m.opd w.zh) 8 g j) 8)) →
      Completes (.mmag w) s fun u => MatrixFrame s u
        ∧ (∀ e ∈ matElems w, tileVal u.me w f.wc e = (new e).1 % 2 ^ (8 * f.wc))
        ∧ Counted s u w ((matElems w).map fun e => (new e).2.1).sum ((matElems w).map fun e => (new e).2.2).sum
        ∧ ∀ a, OffTile s.me w f.wc a → rdByte u.me.pool a = rdByte s.me.pool a)

/-! ## Events of the engines and of tasks (R25, R29 to R45, R172, R231, R270, R298, R359, R363) -/

/-- R265: where a vector command reads on and the first busy cycle of its next vector has come, a turn performs it.

R29, R33 to R36, R270, R359, R364: COMMAND_START of a queue's first command that has not started: it does nothing while
the command may not start; else a turn performs the command, and gating notes the start. A command without guard or format
word is admitted at once; one with a guard takes the oldest outcome of its slot, waits for it, and leaves the queue when it is
false; a tile command takes the next format word, waits for it, and raises FQUNDER where none can come.

Readings and choices of the model's own that it rests on: log 1 and log 40. -/
def Obligations.CommandStart : Prop :=
  (∀ (s : State) (m : Cmd) (f : Nat) (rest : List Nat), m ∈ (s.me.engine s.cur.eng).cmds → m.reads = f :: rest → f ≤ s.cycle →
    (∀ x ∈ (s.me.engine s.cur.eng).cmds, x ≠ m → x.reads = []) →
    Completes .commandStart s fun u => u = { s with agenda := { s.cur with kind := .perform, instr := m.instr, seq := feeder s.cur.eng
                                                                           num := m.num, a := m.task, word := m.word } :: s.agenda })
  ∧ ∀ (s : State) (m : Cmd), (s.me.engine s.cur.eng).cmds.find? (fun x => !x.started) = some m →
    s.me.cmdOf s.cur.eng m.task m.num = some m →
    (∀ x ∈ (s.me.engine s.cur.eng).cmds, ∀ f rest, x.reads = f :: rest → s.cycle < f) →
    let e := s.cur.eng
    let NotYet : Prop := exec .commandStart s = .next s
    let Admitted (u : State) (q : Cmd → Prop) : Prop := ∃ x, u.me.cmdOf e m.task m.num = some x ∧ x.guarded = true ∧ q x
    let bits := s.me.gateStarts
    (s.me.mayStart m s.cycle = false → NotYet)
    ∧ (s.me.mayStart m s.cycle = true → m.guarded = true →
      ((m.slots ≠ [] ∨ s.me.Clashes e m ∨ s.me.engineFree e m s.cycle = false ∨ s.me.gateOpen e s.gating = false) → NotYet)
      ∧ (m.slots = [] → ¬ s.me.Clashes e m → s.me.engineFree e m s.cycle = true → s.me.gateOpen e s.gating = true →
        Completes .commandStart s fun u => u = { s with agenda := u.agenda, cores := u.cores } ∧ OtherCores s u
          ∧ u.me = { s.me with gateStarts := u.me.gateStarts }
          ∧ (e = .load ∨ e = .store → u.me.gateStarts = bits)
          ∧ (e = .vector → u.me.gateStarts = if bitAt bits 0 then bits else bits + 1)
          ∧ (e = .matrix → u.me.gateStarts = if bitAt bits 16 then bits else bits + 2 ^ 16)
          ∧ u.agenda = { s.cur with kind := .perform, instr := m.instr, seq := feeder e, num := m.num, a := m.task
                                    word := m.word } :: s.agenda))
    ∧ (s.me.mayStart m s.cycle = true → m.guarded = false → isTile m.instr = false → guardIn e m.word = none →
        Completes .commandStart s fun u => OtherCores s u ∧ Admitted u fun x => x = { m with guarded := true })
    ∧ (s.me.mayStart m s.cycle = true → m.guarded = false → isTile m.instr = false → ∀ g, guardIn e m.word = some g →
      (s.me.guards.get g.slot = [] → NotYet)
      ∧ ∀ o rest, s.me.guards.get g.slot = o :: rest → Completes .commandStart s fun u => OtherCores s u
        ∧ u.me.guards.get g.slot = (if g.keep then o :: rest else rest)
        ∧ (∀ j, j ≠ g.slot → u.me.guards.get j = s.me.guards.get j)
        ∧ ((o = true ∨ isRadv m.instr = true) → Admitted u fun x => x = { m with guarded := true })
        ∧ (o = false → isRadv m.instr = false → u.agenda = s.agenda
          ∧ (u.me.engine e).cmds = (s.me.engine e).cmds.filter fun x => !(x.task == m.task && x.num == m.num)))
    ∧ (s.me.mayStart m s.cycle = true → m.guarded = false → isTile m.instr = true → m.fmtWord = none → e = .matrix →
      (s.me.fq = [] → (s.me.ended = false ∨ s.me.task ≠ some m.task) → NotYet)
      ∧ (s.me.fq = [] → s.me.ended = true → s.me.task = some m.task →
          exec .commandStart s = .next (raiseCmd e m 0x06 m.num 0 s))
      ∧ ∀ v rest, s.me.fq = v :: rest → guardIn e m.word = none → Completes .commandStart s fun u => OtherCores s u
        ∧ u.me.fq = rest ∧ Admitted u fun x => x.fmtWord = some v)

/-- R29, R93, R97, R172, R173, R231, R233: COMMAND_RETIREMENT of an engine's only command does nothing before its last write is
done; then the command leaves its queue, its memory bytes stand in its task's phase buffer, its barrier object in the
scratchpad takes the bytes that it counts, and an unpinned task holds the update of one in memory. Its writes of the scratchpad land in their cycles before that (R286). RESULT_LANDS writes a result in the cycle in which it is due. BCOPY_COMPLETE copies
every byte of a sound range and touches no other.

Readings and choices of the model's own that it rests on: log 1, log 25, log 28 and log 41. -/
def Obligations.CommandsEnd : Prop :=
  (∀ (s : State) (m : Cmd) (t : Task), (s.me.engine s.cur.eng).cmds = [m] → mget m.task s.tasks = some t →
    s.me.under.find? (·.task == m.task) = none →
    let e := s.cur.eng
    let Gone (u : State) : Prop := (u.me.engine e).cmds = [] ∧ OtherCores s u ∧ ∀ x, x ≠ e → u.me.engine x = s.me.engine x
    ((m.started = false ∨ s.cycle < m.till) → m.puts = [] → exec .commandRetirement s = .next s)
    ∧ ((m.started = false ∨ s.cycle < m.till) → m.puts ≠ [] → exec .commandRetirement s = .next (landPuts e m s))
    ∧ (m.puts = [] → m.started = true → m.till ≤ s.cycle → m.bar = none → m.writes = [] →
        Completes .commandRetirement s fun u => Gone u ∧ u = { s with cores := u.cores }
          ∧ u.me = { s.me with engines := u.me.engines })
    ∧ (m.puts = [] → m.started = true → m.till ≤ s.cycle → m.bar = none → m.writes ≠ [] → risingFrom 0 m.writes = true →
      (∀ w ∈ m.writes, isAperture w.1 = false) →
      (t.storeEngine m.writes m.poison).footLines.length ≤ t.record.awr →
        Completes .commandRetirement s fun u => Gone u ∧ u = { s with cores := u.cores, tasks := u.tasks }
          ∧ u.me = { s.me with engines := u.me.engines } ∧ OneTask s u m.task (t.storeEngine m.writes m.poison)
          ∧ ∀ k v, mget k m.writes = some v → bufferByte (t.storeEngine m.writes m.poison).epochs k = some v)
    -- an update of an object in memory is held in an unpinned task (R115, R233)
    ∧ (∀ r, m.puts = [] → m.started = true → m.till ≤ s.cycle → m.writes = [] → m.bar = some r → t.pinned = false →
      (m.toMemory = true ∨ r.spad = false) → Completes .commandRetirement s fun u => Gone u
        ∧ u = { s with cores := u.cores, tasks := u.tasks } ∧ u.me = { s.me with engines := u.me.engines }
        ∧ ∃ v, OneTask s u m.task v ∧ HoldsAlso [.bar r 2 m.counted m.lines (stampOf m.issued m.seq) m.seq m.pos m.num]
            (stampOf m.issued m.seq) t v)
    ∧ ∀ r, m.puts = [] → m.started = true → m.till ≤ s.cycle → m.writes = [] → m.lines = [] → m.toMemory = false →
      m.bar = some r → r.spad = true → r.core = s.cur.core → s.me.pool.wf = true → s.flaws = [] →
      s.me.task = some m.task → s.me.faultAt = none →
      ∀ v f, barUpdate (s.me.spadRd r.addr 16) (.complete m.counted) = (v, f) →
        Completes .commandRetirement s fun u => Gone u ∧ u.me.spadRd r.addr 16 = v % 2 ^ 128
          ∧ PoolElsewhere r.addr 16 s.me u.me ∧ u.me.pool.wf = true ∧ u.mem = s.mem
          ∧ OneTask s u m.task { t with epochs := t.epochs.map (Epoch.without fun _ => false) }
          ∧ (f = none → u.me.faults = s.me.faults)
          ∧ ∀ c n, f = some (c, n) → u.me.faults = s.me.faults ++ [⟨c, m.seq, (engIdx e).val, m.pos, m.num,
              r.addr % 2 ^ 64, n % 2 ^ 64, false⟩])
  ∧ (∀ (s : State) (p : Pending), s.me.pending = [p] →
    (s.cycle < p.due → exec .resultLands s = .next s)
    ∧ (p.due ≤ s.cycle → Completes .resultLands s fun u => OnlyMyCore s u ∧ u.me.pending = [] ∧ u.me.Holds p.dest
        ∧ OtherRegisters p.dest s.me u.me
        ∧ u.me = { s.me with x := u.me.x, f := u.me.f, b := u.me.b, h := u.me.h, slots := u.me.slots
                             pending := u.me.pending }))
  ∧ ∀ (s : State),
    (mget s.cur.a s.bulks = none → exec .bcopyComplete s = .next s)
    ∧ ∀ (b : Bulk) (t : Task), mget s.cur.a s.bulks = some b → mget b.task s.tasks = some t →
      (s.cycle < b.till → exec .bcopyComplete s = .next s)
      ∧ (b.till ≤ s.cycle → b.bar = none → risingFrom 0 s.bulks = true → s.mem.wf = true → s.Clean → b.dst.Nodup →
        OneTag (b.dst.map fun y => (y, 0)) → b.src.length = b.dst.length →
        (∀ x ∈ b.src, isAperture x = false ∧ s.isPoisoned (x / 64) = false ∧ s.hidden (x / 64) = none) →
        s.PathEmpty b.core → (∀ y ∈ b.dst, isAperture y = false ∧ s.hidden (y / 64) = none) →
        Completes .bcopyComplete s fun u => mget s.cur.a u.bulks = none
          ∧ (∀ k, k ≠ s.cur.a → mget k u.bulks = mget k s.bulks)
          ∧ (∀ (i x y : Nat), b.src[i]? = some x → b.dst[i]? = some y → rdByte u.mem (bare y) = rdByte s.mem (bare x))
          ∧ (∀ k, (∀ y ∈ b.dst, bare y ≠ k) → rdByte u.mem k = rdByte s.mem k)
          ∧ OneTask s u b.task { t with bcopies := t.bcopies - 1 } ∧ CoresBut b.core s u
          ∧ ∀ m ∈ ((u.core b.core).engine .load).cmds, ¬ (m.task = b.task ∧ m.num = b.num ∧ isHanded m = true))

/-- R25, R40, R41, R44, R45, R67, R119, R238, R298, R309, R363: OVERLAY_SWAP takes an ending task off its sequencers once END's conditions hold, and
its commands run on beneath; TASK_RETIREMENT counts it out of its team once none is left, and the last task of a team
subtracts 1 from the team's signal. TIME_ALLOWANCE_EXPIRY halves an unpinned task along its split axis and puts both halves in
its place; a pinned one, one of depth 16 and one without an axis raise ALLOWANCE, DEPTH and GRAIN.

Readings and choices of the model's own that it rests on: log 19, log 20, log 66 and log 90. -/
def Obligations.TasksEnd : Prop :=
  (∀ (s : State) (tid : Nat) (t : Task), s.Runs tid t →
    (¬ s.me.SwapReady tid → exec .overlaySwap s = .next s)
    ∧ (s.me.SwapReady tid → s.me.shadow = none → (∀ x ∈ s.tasks, x.2.standing ≠ .staged s.cur.core) →
        Completes .overlaySwap s fun u => OtherCores s u
        ∧ OneTask s u tid { t with standing := .ending s.cur.core } ∧ u.me.task = none ∧ u.me.mode = .idle
        ∧ u.me.engines = s.me.engines ∧ u.teams = s.teams
        ∧ ∃ x, u.me.under = s.me.under ++ [x] ∧ x.task = tid ∧ x.pool = s.me.pool ∧ x.x = s.me.x ∧ x.o = s.me.o ∧ x.latch = s.me.latch
          ∧ x.p = s.me.p ∧ x.bnda = s.me.bnda ∧ x.bndb = s.me.bndb ∧ x.bndc = s.me.bndc))
  ∧ (∀ (s : State) (t : Task) (m : Team), let a := s.cur.a
    mget a s.tasks = some t → mget t.record.team s.teams = some m →
    ((t.standing ≠ .ending s.cur.core ∨ t.bcopies ≠ 0 ∨ ∃ e, ∃ x ∈ (s.me.engine e).cmds, x.task = a) →
      exec .taskRetirement s = .next s)
    ∧ (t.standing = .ending s.cur.core → t.bcopies = 0 → (∀ e, ∀ x ∈ (s.me.engine e).cmds, x.task ≠ a) →
      (∀ f ∈ s.me.endFaults, f.1 ≠ a) → s.PathClean t → t.leased = [] → risingFrom 0 s.tasks = true →
      risingFrom 0 s.teams = true →
      (1 < m.live → Completes .taskRetirement s fun u => mget a u.tasks = none
        ∧ mget t.record.team u.teams = some { m with live := m.live - 1 }
        ∧ ∀ n, n ≠ t.record.team → mget n u.teams = mget n s.teams)
      ∧ (m.live = 1 → m.queue = none → m.csig = 0 → Completes .taskRetirement s fun u => mget a u.tasks = none
        ∧ mget t.record.team u.teams = none ∧ (∀ n, n ≠ t.record.team → mget n u.teams = mget n s.teams)
        ∧ (mget m.ctx u.contexts).map (·.lteam) = (mget m.ctx s.contexts).map fun x => x.lteam - 1)
      ∧ ∀ x l, m.live = 1 → m.queue = none → m.csig ≠ 0 → mget m.ctx s.contexts = some x → s.walk x m.csig = .ok l →
          s.mem.wf = true → mget 0 s.tasks = none → s.tasksOf t.record.ctx = [(a, t)] →
          (∀ p ∈ s.preempts, p.team ≠ t.record.team) →
          let k := l.keyOf m.csig
          s.Clean → k + 8 ≤ 2 ^ 54 → (∀ j, j < 8 → OffLeaves [l] (k + j)
            ∧ s.hidden (tagged l.tag (k + j) / 64) = none ∧ s.isPoisoned (tagged l.tag (k + j) / 64) = false) →
          Completes .taskRetirement s fun u => mget t.record.team u.teams = none
            ∧ (m.faulted = false → rdNat u.mem k 8 = (rdNat s.mem k 8 + 2 ^ 64 - 1) % 2 ^ 64)
            ∧ (m.faulted = true → rdNat u.mem k 8 = (rdNat s.mem k 8 + 2 ^ 64 - 1) % 2 ^ 64 ||| 2 ^ 63)
            ∧ bitAt (rdNat u.mem (t1 l.head) 16) 23 = true ∧ bitAt (rdNat u.mem (t1 l.head) 16) 24 = true
            ∧ ∀ b, (b < k ∨ k + 8 ≤ b) → OffLeaves [l] b → rdByte u.mem b = rdByte s.mem b))
  ∧ ∀ (s : State) (tid : Nat) (t : Task), s.Runs tid t →
    let i : Instr := .timeAllowanceExpiry
    let at' (c x y : Nat) : State := raiseOn s.cur.core ⟨c, .ctl, 15, (s.me.seq .ctl).pos, 0, x, y, false⟩ s
    ((t.tleft ≠ 0 ∨ (s.me.mode = .fault ∧ (t.pinned = true ∨ s.me.faultAt ≠ some s.cycle ∨ ∃ f ∈ s.me.faults, f.cause ≠ 0x29))) →
      exec i s = .next s)
    -- the halving wins over lines that fail in its cycle (R400)
    ∧ (∀ a m, t.tleft = 0 → s.me.mode = .fault → s.me.faultAt = some s.cycle → (∀ f ∈ s.me.faults, f.cause = 0x29) →
        t.pinned = false → t.record.depth ≠ 16 → splitAxis t.record [0, 1, 2] [] = some a → mget t.record.team s.teams = some m →
        tid < s.nextTask → risingFrom 0 s.tasks = true → s.awaitsHeads s.cur.core = false →
        Completes i s fun u => mget tid u.tasks = none ∧ u.nextTask = s.nextTask + 2)
    ∧ (t.tleft = 0 → s.me.mode ≠ .fault →
      (t.pinned = true → exec i s = .next (at' 0x10 3 0))
      ∧ (t.pinned = false → t.record.depth = 16 → exec i s = .next (at' 0x12 3 16))
      ∧ (t.pinned = false → t.record.depth ≠ 16 → splitAxis t.record [0, 1, 2] [] = none →
          exec i s = .next (at' 0x11 3 (t.record.lo.get 0)))
      -- the heads of the cycle are looked at first, since a fault of theirs wins (R376)
      ∧ (∀ a, t.pinned = false → t.record.depth ≠ 16 → splitAxis t.record [0, 1, 2] [] = some a →
          s.awaitsHeads s.cur.core = true → exec i s = .next (s.onMe fun k => { k with halving := some a }))
      ∧ ∀ a m, t.pinned = false → t.record.depth ≠ 16 → splitAxis t.record [0, 1, 2] [] = some a →
        mget t.record.team s.teams = some m → tid < s.nextTask → risingFrom 0 s.tasks = true →
        s.awaitsHeads s.cur.core = false →
        Completes i s fun u => mget tid u.tasks = none ∧ u.nextTask = s.nextTask + 2
          ∧ (mget t.record.team u.teams).map (·.live) = some (m.live + 1)
          ∧ ∃ x y, mget s.nextTask u.tasks = some x ∧ mget (s.nextTask + 1) u.tasks = some y
            ∧ Halves t.record a x.record y.record ∧ x.standing = .running s.cur.core ∧ y.standing = .queued
            ∧ u.me.task = some s.nextTask)

/-! ## Scheduling, saves and page moves (R47 to R55, R75 to R82, R86, R87, R206, R299 to R305, R408, R413) -/

/-- R23, R39, R55, R206, R300 to R303, R413: the candidates stand in the order of effective class, ready time and creation.
DISPATCH gives the one task that is queued to the lowest free core, in its shadow plane where that core's task has issued END,
and does nothing where no task is. AGEING_STEP counts the whole periods of 65,536 µs that a
queued task has waited, each of which lowers its class by 1. TIME_PARK_EXPIRY queues a task whose time has passed.

Readings and choices of the model's own that it rests on: log 1. -/
def Obligations.Scheduling : Prop :=
  (∀ (s : State), s.tasks = [] → s.preempts = [] → exec .dispatch s = .next s)
  ∧ (∀ (s : State), risingFrom 0 s.tasks = true →
    (∀ e, e ∈ s.candidates ↔ e ∈ s.tasks ∧ e.2.standing = .queued ∧ s.grantable e.2 = true
      ∧ (∃ x, mget e.2.record.ctx s.contexts = some x ∧ x.fault = false ∧ x.recalled s.cycle = false)
      ∧ ∃ m, mget e.2.record.team s.teams = some m ∧ m.drain = false)
    ∧ s.candidates.Pairwise fun a b => a.2.effClass < b.2.effClass ∨ (a.2.effClass = b.2.effClass
        ∧ (a.2.ready < b.2.ready ∨ (a.2.ready = b.2.ready ∧ a.1 < b.1))))
  ∧ (∀ (s : State) (tid n : Nat) (t : Task) (m : Team) (x : Context) (c : CoreId) (rest : List CoreId),
    s.tasks = [(tid, t)] → s.teams = [(n, m)] → t.record.team = n → s.preempts = [] → t.standing = .queued →
    t.inherited = s.inheritedBy n m → m.gang = false → m.drain = false → mget t.record.ctx s.contexts = some x →
    x.fault = false → x.recalled s.cycle = false → s.grantable t = true → s.freeCores = c :: rest → (∀ d ∈ rest, dieOf d = dieOf c) →
    Completes .dispatch s fun u => (∀ d, d ≠ c → (u.core d).task = (s.core d).task)
      ∧ ((s.core c).task = none → (mget tid u.tasks).map (·.standing) = some (.running c) ∧ (u.core c).task = some tid)
      ∧ ((s.core c).task ≠ none → (mget tid u.tasks).map (·.standing) = some (.staged c)
          ∧ (u.core c).task = (s.core c).task ∧ (u.core c).shadow.map (·.1) = some tid))
  ∧ ∀ (s : State) (t : Task), let a := s.cur.a
    let n := (s.timeUs - t.ready) / 65536
    mget a s.tasks = some t →
    ((t.standing = .queued → t.aged < n → s.helmServes (s.homeOf t.record.ctx) 0 = true →
        Completes .ageingStep s fun u => OneTask s u a { t with aged := n } ∧ u.cores = s.cores ∧ u.mem = s.mem
          ∧ u.contexts = s.contexts)
      ∧ ((t.standing ≠ .queued ∨ n ≤ t.aged ∨ s.helmServes (s.homeOf t.record.ctx) 0 = false) →
        exec .ageingStep s = .next s)
      ∧ t.effClass = Nat.min t.inherited (t.record.cls - t.aged))
    ∧ (∀ time, t.standing = .parked 2 time →
      (s.timeUs < time → exec .timeParkExpiry s = .next s)
      ∧ (time ≤ s.timeUs → Completes .timeParkExpiry s fun u =>
          OneTask s u a { t with standing := .queued, ready := s.timeUs, aged := 0 } ∧ u.cores = s.cores
          ∧ u.teams = s.teams))
    ∧ ((∀ time, t.standing ≠ .parked 2 time) → exec .timeParkExpiry s = .next s)

/-- R43, R47, R48, R305, R408, R409, R413: Sextant's choice for a request on a team with one running task: to drain where the task's
time allowance ends by the deadline; else to save an unpinned task where its save ends by the deadline and costs less than what it
has used of its allowance; else to discard, by which a pinned task is saved all the same. PREEMPT_OVERRUN marks a request whose deadline passes. -/
def Obligations.Preemption : Prop :=
  (∀ (s : State) (n tid : Nat) (t : Task) (m : Team) (c : CoreId), s.cur.num = n → mget n s.teams = some m →
    s.runningOf n = [(tid, t, c)] → mget tid s.tasks = some t → (s.core c).task = some tid → (s.core c).mode = .run →
    (∀ p ∈ s.preempts, p.team ≠ n) → s.helmServes (s.homeOf (((mget s.cur.b s.teams).map (·.ctx)).getD 0)) 1 = true →
    let cost := fld t.record.part 16 7 * 65536 / 256 + 64
    let by' (cyc : Nat) : Prop := s.cur.a = 0 ∨ cyc ≤ s.cur.a * 940
    let Chosen (act : Nat) (u : State) : Prop := u.preempts = s.preempts ++ [⟨n, s.cycle,
      if s.cur.a = 0 then none else some (s.cycle + s.cur.a * 940), act, s.cur.b, false, [c]⟩]
    let Saves (act : Nat) : Prop := Completes .preemptingRequest s fun u => Chosen act u ∧ CoresBut c s u
      ∧ u.core c = { s.core c with mode := .drain (.preempt (!t.pinned)) } ∧ u.tasks = s.tasks
    let Discards (act : Nat) : Prop := Completes .preemptingRequest s fun u => Chosen act u ∧ (u.core c).task = none
      ∧ OneTask s u tid { t with standing := .queued, event := false, phased := false, arrived := none, epochs := []
                                 held := [], leased := [], charged := 0 }
    (by' t.tleft → Completes .preemptingRequest s fun u => Chosen 0 u ∧ u.cores = s.cores ∧ u.tasks = s.tasks
      ∧ mget n u.teams = some { m with drain := true })
    ∧ (¬ by' t.tleft → t.pinned = true → Saves 1)
    ∧ (¬ by' t.tleft → t.pinned = false → (¬ by' cost ∨ t.record.atime - t.tleft ≤ cost) → (s.core c).shadow = none →
        (∀ y ∈ s.tasks, y.2.standing ≠ .staged c) → Discards 1)
    ∧ (¬ by' t.tleft → t.pinned = false → by' cost → cost < t.record.atime - t.tleft →
        ∀ x b, mget t.record.ctx s.contexts = some x → s.findRun x (2 + 16 * (s.core c).bndc) x.savel 1 = some b →
          Saves 2))
  ∧ (∀ (s : State), (mget s.cur.num s.teams = none ∨ (∃ p ∈ s.preempts, p.team = s.cur.num)
      ∨ s.helmServes (s.homeOf (((mget s.cur.b s.teams).map (·.ctx)).getD 0)) 1 = false) →
    exec .preemptingRequest s = .next s)
  ∧ ∀ (s : State) (p : Preempt), s.preempts = [p] → p.team = s.cur.num →
    ((p.ovfl = true ∨ p.deadline = none ∨ (∃ d, p.deadline = some d ∧ s.cycle < d) ∨ s.heldBy p.team p.waiter = []) →
      exec .preemptOverrun s = .next s)
    ∧ ∀ d, p.ovfl = false → p.deadline = some d → d ≤ s.cycle → s.heldBy p.team p.waiter ≠ [] →
      Completes .preemptOverrun s fun u => u.preempts = [{ p with ovfl := true }]

/-- R49, R51, R86, R87: a saved run keeps the registers of its task: restoring it gives every x, h, b and f register, the operand file, the
latch and the predicates back, and a stream that had stopped stays stopped. CONTEXT_SAVE_COMPLETE of a YIELD frees the core and
queues the task behind its run.

Readings and choices of the model's own that it rests on: log 5, log 26, log 77 and log 90. -/
def Obligations.SavedRuns : Prop :=
  (∀ (s u : State) (c : CoreId) (tid b : Nat) (t : Task) (x : Context) (k : Core), mget tid s.tasks = some t →
    mget t.record.ctx s.contexts = some x → x.keyid < 128 → s.mem.wf = true → s.Clean → saveTask c tid false s = (some b, u) →
    let v : Task := { t with record := { t.record with rimg := 4096 * b }, regRun := false }
    let run := (readSaved (dieOf c) x v u).1
    let j := s.core c
    let stops := [Seq.ctl, .ld, .cmp, .st].filter fun q => (j.seq q).stopped
    let r := restoreCore run.1 run.2 stops false k
    mget tid u.tasks = some { t with regRun := false, stops := stops } ∧
    r.x = j.x ∧ r.h = j.h ∧ r.b = j.b ∧ (∀ i, r.fr i = j.fr i) ∧ r.o = j.o ∧ r.latch = j.latch ∧ r.p = j.p
      ∧ r.spb = j.spb ∧ r.spl = j.spl ∧ r.sp = j.sp ∧ ∀ q, (r.seq q).stopped = (j.seq q).stopped)
  ∧ (∀ (s : State) (why : Leave) (till : Nat), s.me.mode = .save why till → s.cycle < till →
    exec .contextSaveComplete s = .next s)
  ∧ ∀ (s : State) (tid till b : Nat) (t : Task) (x : Context), s.Runs tid t → s.me.mode = .save .yield till →
    till ≤ s.cycle → (s.me.seq .ctl).acting = none → s.me.shadow = none → s.PathClean t → t.leased = [] →
    (∀ y ∈ s.tasks, y.2.standing ≠ .staged s.cur.core) → s.Clean →
    mget t.record.ctx s.contexts = some x → x.woken ≠ some s.cycle → x.sevAt ≠ some s.cycle →
    s.findRun x (2 + 16 * s.me.bndc) x.savel 1 = some b →
    Completes .contextSaveComplete s fun u => u.me.task = none ∧ u.me.mode = .idle ∧ OtherCores s u
      ∧ OneTask s u tid { t with
          record := { t.record with resume := true, rimg := 4096 * b }
          standing := .queued
          pinned := true
          ready := s.timeUs
          aged := 0
          charged := 0
          regRun := false
          stops := [Seq.ctl, .ld, .cmp, .st].filter fun q => (s.me.seq q).stopped }

/-- R12, R71, R75, R78, R80 to R82, R385, R386: RECALL_LEAD_EXPIRY recalls the pages of a context whose wake time is near, and
touches no task. PAGE_MOVE_START puts the first move of a plan on its way by a BTE of its home die: MIG is set in the page's head
entry and a free frame is taken; a page that a lease holds, that moves, that MASK bit 7 keeps or that is none of the context's own is
passed over. When its copy ends, the page's next translation is an acquire, and PAGE_MOVE_COMPLETE leaves every byte of the page in its new frame, which the head entry then names,
with MIG clear, the counts of its users zero and VERSION raised by 1.

Readings and choices of the model's own that it rests on: log 2, log 11 and log 47. -/
def Obligations.PageMoves : Prop :=
  (∀ (s : State) (x : Context), let n := s.cur.a
    mget n s.contexts = some x →
    ((x.waket = 0 ∨ (x.state ≠ 3 ∧ x.state ≠ 4) ∨ s.timeUs + s.recallLead n x < x.waket) →
      exec .recallLeadExpiry s = .next s)
    ∧ Completes .recallLeadExpiry s fun u => u.tasks = s.tasks ∧ u.cores = s.cores ∧ u.teams = s.teams
      ∧ (x.waket ≠ 0 → (x.state = 3 ∨ x.state = 4) → x.waket ≤ s.timeUs + s.recallLead n x → x.recalling = false →
        s.moves = [] → ∃ y, mget n u.contexts = some y
          ∧ (y.recalling = true ↔ ∃ p ∈ s.ownPages n x, isAway x p.2.2 = true) ∧ y.demoting = false
          ∧ y.plan = (((s.ownPages n x).filter fun p => isAway x p.2.2).map fun p =>
              (1, (mget p.2.2.head x.homes).getD 1, p.1)) ++ x.plan.filter (fun p => decide (2 ≤ p.1))
          ∧ (∀ j, j ≠ n → mget j u.contexts = mget j s.contexts)
          ∧ ((∀ z ∈ s.tasksOf n, z.2.isQueued = false) → u.mem = s.mem)))
  ∧ (∀ (s : State) (x : Context) (l : Leaf) (kind va : Nat) (rest : List (Nat × Nat × Nat)) (f b : Nat), let n := s.cur.a
    mget n s.contexts = some x → x.plan = (kind, 1, va) :: rest → (∀ m ∈ s.moves, m.2.ctx ≠ n) → s.walk x va = .ok l →
    s.keyBusy = false → bitAt l.mask 7 = true → l.mig = false → l.lcnt = 0 → l.tier ≠ 1 → kind = 2 →
    (∃ p ∈ s.ownPages n x, p.2.2.head = l.head) → s.freeBte x.home = some b → s.freeFrames = [(t1Frames (2 * x.home.val), [f])] →
    s.moveCut x l.head (tierKey l.tier (4096 * l.frame)) (tierKey 1 (4096 * f)) l.size = false →
    Completes .pageMoveStart s fun u => u.tasks = s.tasks ∧ mget (t1Frames (2 * x.home.val)) u.freeFrames = some []
      ∧ ∃ m, mget l.head u.moves = some m ∧ m.ctx = n ∧ m.size = l.size ∧ m.src = tierKey l.tier (4096 * l.frame)
        ∧ m.dst = tierKey 1 (4096 * f) ∧ m.tier = 1 ∧ m.frame = f ∧ m.kind = 2 ∧ s.cycle < m.till
        ∧ 47 * (l.size * bteCost m.src m.dst) ≤ 10000 * (m.till - s.cycle)
        ∧ m.die = x.home ∧ m.bte = b ∧ b < 24 ∧ (∀ j ∈ s.moves, j.2.die = x.home → j.2.bte ≠ b)
        ∧ (∀ j ∈ s.bulks, dieOf j.2.core = x.home → j.2.bte ≠ b) ∧ m.va = va - va % l.size
      -- MIG stands in the head entry, and no other byte changes, where no level holds a published line that goes home first
      -- and no queued task waits for a copy on write
      ∧ ((∀ c, s.PathEmpty c) → (∀ z ∈ s.tasksOf n, z.2.isQueued = false) → u.mem = (setMig l.head true s).mem))
  ∧ (∀ (s : State) (x : Context) (l : Leaf) (kind tgt va : Nat) (rest : List (Nat × Nat × Nat)), let n := s.cur.a
    mget n s.contexts = some x → x.plan = (kind, tgt, va) :: rest → (∀ m ∈ s.moves, m.2.ctx ≠ n) → s.walk x va = .ok l →
    s.keyBusy = false →
    (bitAt l.mask 7 = false ∨ l.mig = true ∨ l.lcnt ≠ 0 ∨ (∀ p ∈ s.ownPages n x, p.2.2.head ≠ l.head)) →
    Completes .pageMoveStart s fun u => u.moves = s.moves ∧ u.freeFrames = s.freeFrames ∧ u.tasks = s.tasks ∧ u.cores = s.cores)
  ∧ (∀ (s : State) (head : Nat), s.mem.wf = true → bitAt (rdNat (setMig head true s).mem (t1 head) 16) 25 = true
    ∧ (∀ b, b < 128 → b ≠ 25 → bitAt (rdNat (setMig head true s).mem (t1 head) 16) b = bitAt (rdNat s.mem (t1 head) 16) b)
    ∧ ∀ a, a < t1 head ∨ t1 head + 16 ≤ a → rdByte (setMig head true s).mem a = rdByte s.mem a)
  ∧ (∀ (s : State) (m : Move), mget s.cur.a s.moves = some m → s.cycle < m.till → exec .pageMoveComplete s = .next s)
  ∧ ∀ (s : State) (m : Move), let head := s.cur.a
    let w := rdNat s.mem (t1 head) 16
    let Clear (a : Nat) : Prop := a < t1 head ∨ t1 head + 16 * 1024 ≤ a
    mget head s.moves = some m → s.mem.wf = true → s.Clean →
    (m.src + m.size ≤ m.dst ∨ m.dst + m.size ≤ m.src) → (∀ i, i < m.size → Clear (m.dst + i)) →
    (∀ i, i < m.size → Clear (m.src + i)) →
    let u := finishMove head m s
    (∀ i, i < m.size → rdByte u.mem (m.dst + i) = rdByte s.mem (m.src + i))
      ∧ (∀ a, Clear a → (a < m.dst ∨ m.dst + m.size ≤ a) → rdByte u.mem a = rdByte s.mem a)
      ∧ (let v := rdNat u.mem (t1 head) 16
        fld v 5 2 = m.tier % 4 ∧ fld v 32 40 = m.frame % 2 ^ 40 ∧ bitAt v 25 = false ∧ fld v 72 24 = 0
          ∧ fld v 104 24 = (fld w 104 24 + 1) % 2 ^ 24 ∧ fld v 0 5 = fld w 0 5 ∧ fld v 7 18 = fld w 7 18
          ∧ fld v 26 6 = fld w 26 6 ∧ fld v 96 8 = fld w 96 8)
      ∧ u.tasks = s.tasks ∧ OnlyViews s u ∧ u.teams = s.teams ∧ head ∈ u.moved
      ∧ (s.poisoned = [] → u.poisoned = [])
      ∧ (∀ x, mget m.ctx s.contexts = some x → m.till ≤ s.cycle → s.moveCut x head m.src m.dst m.size = false →
        Completes .pageMoveComplete s fun z => z.tasks = s.tasks ∧ OnlyViews s z ∧ head ∈ z.moved
          ∧ ((∀ y ∈ s.tasksOf m.ctx, y.2.isQueued = false) → z.mem = u.mem)
          ∧ (risingFrom 0 s.moves = true → mget head z.moves = none ∧ ∀ j, j ≠ head → mget j z.moves = mget j s.moves))

/-! ## Queues, slots and packets (R287 to R298, R403 to R405, R420) -/

/-- R287, R288, R290, R293, R347, R404, R420: a doorbell of eight aligned bytes below 2^32 sets the queue's value, and of a queue
with EN = 0 it changes nothing else; a mapped slot takes it as its write index, and an unmapped queue, or one whose slot is being
unmapped, becomes pending, last in its die's order. A write of another size or place, a value
of 2^32 or more and a VF's write to a secure queue are errors 3, 1 and 2; a write beyond a VF's window, and the host's while its link is
down, has no effect.

Readings and choices of the model's own that it rests on: log 38 and log 50. -/
def Obligations.Doorbells : Prop :=
  ∀ (s : State), let a := s.cur.a
    let q := a / 8
    let v := s.cur.num
    let i : Instr := .doorbellStore
    let bells := mput q (v, s.timeUs % 2 ^ 32) s.bells
    -- the location takes the value, and a WAIT that watches it sees the write (R290, R297)
    let rung : State := { s with bells := bells, watches := (noteWrites [bellKey a] (fun _ => v) s).watches }
    ((s.pcieDown = true ∧ s.cur.bell ≠ .task) → exec i s = .next s)
    ∧ (∀ n, s.cur.bell = .vf n → (bitAt (s.vfmap.get n).toNat 31 = false ∨ 4096 * fld (s.vfmap.get n).toNat 16 12 ≤ a) →
        exec i s = .next s)
    ∧ (s.cur.bell = .task →
      ((s.cur.b ≠ 8 ∨ a % 8 ≠ 0 ∨ 2 ^ 23 ≤ a) → exec i s = .next (schedEntry s.cur.die 2 3 0 0 0 a s.cur.b s))
      ∧ (s.cur.b = 8 → a % 8 = 0 → a < 2 ^ 23 →
        (2 ^ 32 ≤ v → exec i s = .next (schedEntry s.cur.die 2 1 q 0 0 v 0 s))
        ∧ (v < 2 ^ 32 → s.qEn q = false → exec i s = .next rung)
        ∧ (v < 2 ^ 32 → s.qEn q = true → q ∉ (s.die (Fin.ofNat 4 q)).pendOrder → s.mem.wf = true →
          (s.slotOf q = none ∨ ∃ d j, s.slotOf q = some (d, j) ∧ ((s.die d).slots.get j).state = 4) →
          Completes i s fun u => u.bells = bells ∧ u.isPending q = true ∧ u.tasks = s.tasks ∧ u.cores = s.cores
            ∧ (u.die (Fin.ofNat 4 q)).pendOrder = (s.die (Fin.ofNat 4 q)).pendOrder ++ [q] ∧ DiesBut (Fin.ofNat 4 q) s u
            ∧ (∀ k, (u.die (Fin.ofNat 4 q)).slots.get k = (s.die (Fin.ofNat 4 q)).slots.get k)
            ∧ ∀ b, b ≠ s.bitKey q → rdByte u.mem b = rdByte s.mem b)
        ∧ (v < 2 ^ 32 → s.qEn q = true → q ∈ (s.die (Fin.ofNat 4 q)).pendOrder → s.isPending q = true →
          s.slotOf q = none → exec i s = .next rung)
        ∧ ∀ d j, v < 2 ^ 32 → s.qEn q = true → s.slotOf q = some (d, j) → ((s.die d).slots.get j).state ≠ 4 →
          (v + 2 ^ 32 - ((s.die d).slots.get j).ridx) % 2 ^ 32 ≤ 2 ^ s.qLsz q →
          Completes i s fun u => u = { rung with dies := u.dies } ∧ DiesBut d s u
            ∧ (u.die d).slots.get j = { (s.die d).slots.get j with widx := v, lsigt := s.timeUs % 2 ^ 32 }
            ∧ ∀ k, k ≠ j → (u.die d).slots.get k = (s.die d).slots.get k))
    ∧ ∀ n, s.pcieDown = false → s.cur.bell = .vf n → bitAt (s.vfmap.get n).toNat 31 = true →
        a < 4096 * fld (s.vfmap.get n).toNat 16 12 → s.cur.b = 8 → a % 8 = 0 → v < 2 ^ 32 →
        let p := (4096 * fld (s.vfmap.get n).toNat 0 11 + a) / 8
        p < 2 ^ 20 → bitAt (s.qcb p 4 1) 3 = true → exec i s = .next (schedEntry s.cur.die 2 2 p 0 0 v 0 s)

/-- R287 to R289, R291 to R294, R413: QUEUE_MAPPING maps a pending queue of the lowest class to the lowest free slot, whose registers
come from its QCB and its doorbell, and clears its pending bit; with no free slot it unmaps the one whose doorbell is the longest past; a queue with a reserved bit of its QCB set, and one whose
slot is being unmapped, it leaves alone.
IDLE_TIMEOUT unmaps a slot that is empty for its timeout, or lies at NSLOT or above, and then writes its registers to the QCB
under SEQ; the queue is pending again where packets are left and none was in error. RIDX_WRITEBACK writes RIDX alone. NSLOT_WRITE
sets NSLOT where the Helm or secure-world software writes it.

Readings and choices of the model's own that it rests on: log 17, log 48 and log 89. -/
def Obligations.Slots : Prop :=
  (∀ (s : State), let d := s.cur.die
    let x := s.die d
    ((s.helmServes d 0 = false ∨ s.cycle < x.mapAt ∨ s.nextPending d = none) → exec .queueMapping s = .next s)
    ∧ ∀ q, s.helmServes d 0 = true → x.mapAt ≤ s.cycle → s.nextPending d = some q →
      let v := (mget q s.bells).getD (0, 0)
      (q ∈ x.pendOrder ∧ s.qEn q = true ∧ s.qSpare q = false ∧ s.slotOf q = none
        ∧ ∀ r ∈ x.pendOrder, s.qEn r = true → s.qSpare r = false → s.slotOf r = none → s.qWblk r = false →
          s.queueClass q ≤ s.queueClass r)
      ∧ (∀ j, x.freeSlot = some j → s.qWblk q = false → Fin.ofNat 4 q = d → s.mem.wf = true →
        (s.bitKey q < s.qcbKey q ∨ s.qcbKey q + 128 ≤ s.bitKey q) →
        (v.1 % 2 ^ 32 + 2 ^ 32 - s.qcb q 20 4) % 2 ^ 32 ≤ 2 ^ s.qLsz q →
        Completes .queueMapping s fun u => DiesBut d s u ∧ u.tasks = s.tasks ∧ u.cores = s.cores
          ∧ (u.die d).slots.get j = ⟨1, q, v.1 % 2 ^ 32, s.qcb q 20 4, s.qcb q 24 2, v.2, s.qcb q 32 8, s.qcb q 20 4, s.cycle,
              false, false, none, false⟩
          ∧ (∀ k, k ≠ j → (u.die d).slots.get k = x.slots.get k) ∧ u.isPending q = false ∧ q ∉ (u.die d).pendOrder
          ∧ u.qMapd q = true ∧ u.qcb q 26 1 = j.val ∧ u.qcb q 0 4 = (s.qcb q 0 4 + 2) % 2 ^ 32)
      ∧ ∀ j, x.freeSlot = none → (∀ k, (x.slots.get k).state ≠ 4 ∧ (x.slots.get k).leaves = none) → s.oldestSlot d = some j →
        Completes .queueMapping s fun u => OnlyDie d s u ∧ (x.slots.get j).mapped = true
          ∧ (∀ k, (x.slots.get k).mapped = true → s.sinceBell (x.slots.get k) ≤ s.sinceBell (x.slots.get j))
          ∧ (u.die d).slots.get j = { x.slots.get j with leaves := some s.cycle }
          ∧ (u.die d).journal.head? = some ⟨x.jseq, 2, (x.slots.get j).queue, j.val + s.qcb (x.slots.get j).queue 0 4 * 2 ^ 64⟩
          ∧ ∀ k, k ≠ j → (u.die d).slots.get k = x.slots.get k)
  ∧ (∀ (s : State), let d := s.cur.die
    let j := s.cur.slot
    let x := s.mySlot
    let q := x.queue
    let due : Prop := x.state = 1 ∧ x.ridx = x.widx ∧ s.idleUs d x ≤ s.sinceBell x
    ((s.helmServes d 0 = false ∨ (x.state ≠ 4 ∧ (∀ t, x.leaves = some t → s.cycle ≤ t) ∧ ¬ due ∧ (x.mapped = false ∨ j.val < (s.die d).nslot))) →
      exec .idleTimeout s = .next s)
    -- the decision stands in the journal before the slot is UNMAPPING, which it is in a later cycle (R300, R410)
    ∧ (s.helmServes d 0 = true → x.leaves = none → (due ∨ (x.mapped = true ∧ (s.die d).nslot ≤ j.val)) →
      Completes .idleTimeout s fun u => OnlyDie d s u
        ∧ (u.die d).journal.head? = some ⟨(s.die d).jseq, 2, x.queue, j.val + s.qcb x.queue 0 4 * 2 ^ 64⟩
        ∧ (u.die d).slots.get j = { x with leaves := some s.cycle }
        ∧ ∀ k, k ≠ j → (u.die d).slots.get k = (s.die d).slots.get k)
    ∧ (∀ t, s.helmServes d 0 = true → x.mapped = true → x.leaves = some t → t < s.cycle →
      Completes .idleTimeout s fun u => OnlyDie d { s with watches := u.watches } u
        ∧ (∀ w, w ∈ u.watches ↔ w ∈ s.watches ∧ ¬ (w.die = d ∧ w.slot = j))
        ∧ (u.die d).slots.get j = { x with state := 4, wblk := false, leaves := none }
        ∧ ∀ k, k ≠ j → (u.die d).slots.get k = (s.die d).slots.get k)
    -- the update of the QCB: SEQ is odd from its first step to its last, which a core that takes over makes too (R289, R412)
    ∧ (s.helmServes d 0 = true → x.state = 4 → s.mem.wf = true → s.qcb q 0 4 % 2 = 0 →
      Completes .idleTimeout s fun u => (u.die d).slots = (s.die d).slots ∧ u.tasks = s.tasks ∧ u.cores = s.cores
        ∧ u.qcb q 0 4 = s.qcb q 0 4 + 1
        ∧ (q % 4 = d.val → (u.die d).journal.head? = some ⟨(s.die d).jseq, 3, q, j.val + s.qcb q 0 4 * 2 ^ 64⟩)
        ∧ ∀ b, (b < s.qcbKey q ∨ s.qcbKey q + 4 ≤ b) → rdByte u.mem b = rdByte s.mem b)
    ∧ (s.helmServes d 0 = true → x.state = 4 → s.mem.wf = true → s.qcb q 0 4 % 2 = 1 → (s.bitKey q < s.qcbKey q ∨ s.qcbKey q + 128 ≤ s.bitKey q) →
      Completes .idleTimeout s fun u => (u.die d).slots.get j = ⟨0, 0, 0, 0, 0, 0, 0, 0, 0, false, false, none, false⟩
        ∧ (∀ k, k ≠ j → (u.die d).slots.get k = (s.die d).slots.get k) ∧ u.tasks = s.tasks ∧ u.cores = s.cores
        ∧ u.qcb q 16 4 = x.widx % 2 ^ 32 ∧ u.qcb q 20 4 = x.ridx % 2 ^ 32 ∧ u.qcb q 24 2 = x.outt % 2 ^ 16
        ∧ u.qcb q 32 8 = x.notev % 2 ^ 64 ∧ u.qcb q 40 4 = x.lsigt % 2 ^ 32 ∧ u.qMapd q = false ∧ u.qWblk q = x.wblk
        ∧ u.qcb q 0 4 = (s.qcb q 0 4 + 1) % 2 ^ 32
        ∧ (u.isPending q = true ↔ (s.isPending q = true ∨ x.wblk = true ∨ (x.ridx ≠ x.widx ∧ x.err = false)))))
  ∧ ∀ (s : State), let x := s.mySlot
    (((x.mapped = false ∨ x.written = x.ridx) → exec .ridxWriteback s = .next s)
      ∧ (x.mapped = true → x.written ≠ x.ridx → s.mem.wf = true → Completes .ridxWriteback s fun u =>
        u.mySlot = { x with written := x.ridx } ∧ u.qcb x.queue 20 4 = x.ridx % 2 ^ 32
          ∧ u.qcb x.queue 0 4 = (s.qcb x.queue 0 4 + 2) % 2 ^ 32 ∧ u.tasks = s.tasks ∧ u.cores = s.cores
          ∧ ∀ b, (b < s.qcbKey x.queue ∨ s.qcbKey x.queue + 24 ≤ b) → rdByte u.mem b = rdByte s.mem b))
    ∧ (s.cur.flag = true → 1 ≤ s.cur.num → s.cur.num ≤ 256 → Completes .nslotWrite s fun u => OnlyDie s.cur.die s u
        ∧ u.die s.cur.die = { s.die s.cur.die with nslot := s.cur.num })
    ∧ ((s.cur.flag = false ∨ s.cur.num = 0 ∨ 256 < s.cur.num) → exec .nslotWrite s = .next s)

/-- R46, R67, R294 to R298, R320, R403, R405: a slot processes the packet at its head: LAUNCH makes a team and its tasks, split as its rounds
say, WAIT compares and waits, and blocks its queue where the page of its signal is away, SIGNAL stores or adds, RESIDE plans the moves of its range and NOTE sets NOTEV; the packet is then consumed and the next is
ready 8 cycles later. ORD holds the slot while its teams live, and a reserved type, context or page is an error of the packet.

Readings and choices of the model's own that it rests on: log 19 and log 49. -/
def Obligations.Packets : Prop :=
  ∀ (s : State), let x := s.mySlot
    let w := s.packet x
    let n := fld w 16 16
    let ready : Prop := x.state = 1 ∧ x.ridx ≠ x.widx ∧ x.readyAt ≤ s.cycle
    let free' : Prop := ready ∧ ¬ (bitAt w 8 = true ∧ 0 < x.outt)
    let Consumed (y : QSlot) (u : State) : Prop :=
      u.mySlot = { y with ridx := (y.ridx + 1) % 2 ^ 32, readyAt := s.cycle + 8 }
    let Error (i : Instr) (sub m : Nat) : Prop := exec i s = .next (packetError s.cur.die s.cur.slot sub m s)
    let kinds : List (Nat × Instr) := [(1, .launch), (2, .wait), (3, .signal), (4, .reside), (5, .note)]
    -- the page of a signal is compared in place: it is in T0 or T1 and does not move, or the slot polls it
    let Near (l : Leaf) : Prop := x.far = true ∨ (l.mig = false ∧ l.tier ≤ 1)
    -- no error stands, and the signal's eight bytes are not the page's own head entry
    let Plain (l : Leaf) : Prop := let k := l.keyOf (fld w 64 64)
      s.Clean ∧ s.mem.wf = true ∧ k + 8 ≤ 2 ^ 54 ∧ ∀ j, j < 8 → OffLeaves [l] (k + j)
    -- what a comparison leaves: the packet consumed where the condition holds, or a write since has met it; else the slot waits
    let Compared (l : Leaf) (y : QSlot) (u : State) : Prop :=
      let k := l.keyOf (fld w 64 64)
      let held : Prop := waitHolds (fld w 32 3) (s.signalAt l (fld w 64 64)) (fld w 128 64) = true ∨ s.wasMet k = true
      OnlyDie s.cur.die { s with watches := u.watches, mem := u.mem } u
        ∧ (∀ b, OffLeaves [l] b → rdByte u.mem b = rdByte s.mem b)
        ∧ ((x.state ≠ 3 ∨ x.far = true) → isAperture k = false → bitAt (rdNat u.mem (t1 l.head) 16) 23 = true)
        ∧ (held → Consumed { y with state := 1, far := false } u
            ∧ ∀ e, e ∈ u.watches ↔ e ∈ s.watches ∧ ¬ (e.die = s.cur.die ∧ e.slot = s.cur.slot))
        ∧ (¬ held → u.mySlot = { y with state := 3 }
            ∧ (x.far = false → ⟨s.cur.die, s.cur.slot, k, fld w 32 3, fld w 128 64, false⟩ ∈ u.watches))
    -- a signal whose page is away: the slot is unmapped with WBLK, and the page is recalled
    let Blocked (m : Nat) (c : Context) (u : State) : Prop := u.mySlot = { x with state := 4, wblk := true, leaves := none }
      ∧ mget m u.contexts = some { c with plan := c.plan ++ [(4, 1 + 4 * s.cur.die.val, fld w 64 64)] }
      ∧ u.tasks = s.tasks ∧ u.cores = s.cores ∧ u.mem = s.mem
    (∀ p ∈ kinds, (¬ ready → exec p.2 s = .next s)
      ∧ (ready → bitAt w 8 = true → 0 < x.outt → Completes p.2 s fun u => OnlyDie s.cur.die s u
          ∧ u.mySlot = { x with state := 2 })
      ∧ (free' → (fld w 0 8 < 1 ∨ 5 < fld w 0 8) → Error p.2 1 0)
      ∧ (free' → 1 ≤ fld w 0 8 → fld w 0 8 ≤ 5 → fld w 0 8 ≠ p.1 → exec p.2 s = .next s)
      ∧ (free' → fld w 0 8 = p.1 → p.1 ≠ 1 → packetSpare w = true → Error p.2 2 0)
      ∧ (free' → fld w 0 8 = p.1 → p.1 ≠ 1 → p.1 ≠ 5 → packetSpare w = false → s.packetCtx x n = none → Error p.2 3 n))
    ∧ (free' → fld w 0 8 = 5 → packetSpare w = false → Completes .note s fun u =>
        Consumed { x with notev := fld w 64 64 } u ∧ u.tasks = s.tasks ∧ u.cores = s.cores
          ∧ (fld w 64 64 ≠ 0 → fld w 64 64 = (s.die s.cur.die).trace.tags.toNat → (u.die s.cur.die).trace.start = true)
          ∧ (fld w 64 64 ≠ 0 → fld w 64 64 = (s.die s.cur.die).trace.tagp.toNat → (u.die s.cur.die).trace.stop = true))
    ∧ (∀ c, packetSpare w = false → s.packetCtx x n = some c →
      (free' → fld w 0 8 = 3 →
        (s.schedPage s.cur.die n c (fld w 64 64) .atomic = none → Error .signal 4 n)
        ∧ ∀ l, s.schedPage s.cur.die n c (fld w 64 64) .atomic = some l →
          let k := l.keyOf (fld w 64 64)
          (l.mig = true → exec .signal s = .next s)
          ∧ (l.mig = false → isAperture k = true → fld w 32 3 = 0 → Completes .signal s fun u => ∃ v,
              v = ringBell .task s.cur.die (fld k 0 36) 8 (fld w 128 64) s ∧ OnlyDie s.cur.die v u
                ∧ u.mySlot = { v.mySlot with ridx := (v.mySlot.ridx + 1) % 2 ^ 32, readyAt := v.cycle + 8 })
          ∧ (l.mig = false → isAperture k = true → fld w 32 3 = 1 → Error .signal 4 n)
          ∧ (l.mig = false → isAperture k = false → mget 0 s.tasks = none → s.PathEmpty (coreOf s.cur.die) → Plain l →
            (∀ j, j < 8 → s.hidden (tagged l.tag (k + j) / 64) = none ∧ s.isPoisoned (tagged l.tag (k + j) / 64) = false) →
            Completes .signal s fun u => Consumed x u
              ∧ rdNat u.mem k 8 = (if fld w 32 3 = 0 then fld w 128 64 else (rdNat s.mem k 8 + fld w 128 64) % 2 ^ 64)
              ∧ bitAt (rdNat u.mem (t1 l.head) 16) 23 = true ∧ bitAt (rdNat u.mem (t1 l.head) 16) 24 = true
              ∧ (∀ b, (b < k ∨ k + 8 ≤ b) → OffLeaves [l] b → rdByte u.mem b = rdByte s.mem b)
              ∧ u.tasks = s.tasks ∧ OnlyViews s u))
      ∧ (free' → fld w 0 8 = 2 →
        (s.schedPage s.cur.die n c (fld w 64 64) .read = none → Error .wait 4 n)
        ∧ ∀ l, s.schedPage s.cur.die n c (fld w 64 64) .read = some l →
          (Near l → Plain l → Completes .wait s fun u => Compared l x u) ∧ (¬ Near l → Completes .wait s (Blocked n c)))
      ∧ (free' → fld w 0 8 = 4 → (∀ i j, s.checkEntry c n (fld w 64 20) 0 0 none ≠ .error (0x20, i, j)) →
        Completes .reside s fun u => Consumed x u ∧ u.tasks = s.tasks ∧ u.cores = s.cores ∧ u.mem = s.mem
          ∧ ∃ ps, mget n u.contexts = some { c with plan := c.plan ++ ps }
            ∧ let b := s.buffer c (fld w 64 20)
              let lo := b.vbase + 65536 * fld w 128 25
              let hi := b.vbase + Nat.min (65536 * fld w 160 25) b.len
              let at' (j : Nat) : Nat := lo - lo % 4096 + 4096 * j
              ∀ p, p ∈ ps ↔ ∃ j l, lo < hi ∧ at' j < hi ∧ s.walk c (at' j) = .ok l
                ∧ p = (2, fld w 32 3, at' j - at' j % l.size)))
    -- a waiting slot compares again; where its access fails its checks, over a failed path too, the packet is in error (R417)
    ∧ (∀ c, x.state = 3 → mget n s.contexts = some c → s.schedPage s.cur.die n c (fld w 64 64) .read = none →
      (x.far = true → s.cycle % 940 = 0 → Error .sigfarPoll 4 n)
      ∧ (x.far = false → (∃ e ∈ s.watches, e.die = s.cur.die ∧ e.slot = s.cur.slot ∧ e.met = true) → Error .waitSatisfied 4 n)
      ∧ (x.far = false → (∀ e ∈ s.watches, ¬ (e.die = s.cur.die ∧ e.slot = s.cur.slot ∧ e.met = true)) →
          exec .waitSatisfied s = .next s))
    ∧ (∀ c l, x.state = 3 → mget n s.contexts = some c → s.schedPage s.cur.die n c (fld w 64 64) .read = some l →
      (x.far = false → l.mig = false → l.tier ≤ 1 → Plain l → Completes .waitSatisfied s fun u => Compared l x u)
      ∧ (x.far = false → l.mig = true → exec .waitSatisfied s = .next s)
      ∧ (x.far = false → l.mig = false → 2 ≤ l.tier → Completes .waitSatisfied s (Blocked n c))
      ∧ (x.far = true → s.cycle % 940 = 0 → Plain l → Completes .sigfarPoll s fun u => Compared l x u))
    ∧ ((x.state ≠ 3 ∨ x.far = true) → exec .waitSatisfied s = .next s)
    ∧ ((x.state ≠ 3 ∨ x.far = false ∨ s.cycle % 940 ≠ 0) → exec .sigfarPoll s = .next s)
    ∧ ∀ c, let rec0 := fld w 1024 1024
      let m := fld rec0 0 16
      free' → fld w 0 8 = 1 →
      (launchSpare w = true → Error .launch 2 0)
      ∧ (launchSpare w = false → s.packetCtx x m = none → Error .launch 3 m)
      ∧ (launchSpare w = false → s.packetCtx x m = some c →
        let v := match s.readImage s.cur.die m (fld rec0 64 56) with
          | .error _ => rec0
          | .ok g => fillRecord g rec0
        ((recordBit rec0 v).isSome = true → Error .launch 2 m)
        ∧ (recordBit rec0 v = none → fld w 128 64 ≠ 0 → s.schedPage s.cur.die m c (fld w 128 64) .atomic = none →
            Error .launch 4 m)
        ∧ (recordBit rec0 v = none → (fld w 128 64 = 0 ∨ ∃ l, s.schedPage s.cur.die m c (fld w 128 64) .atomic = some l) →
          let cls := Nat.max (fld v 45 3) (s.queueClass x.queue)
          let r := recordOf v m 0 cls (bitAt v 48)
          let rs := splitRounds (fld w 32 4) [r]
          let sc := Machine.scopeOf (s.dmrOf s.cur.die r)
          (fld w 32 4 = 0 → rs = [r])
          ∧ (bitAt v 48 = true → scopeCores sc < rs.length → Error .launch 5 m)
          ∧ ((bitAt v 48 = false ∨ rs.length ≤ scopeCores sc) →
            Completes .launch s fun u => Consumed { x with outt := x.outt + 1 } u ∧ u.cores = s.cores
              ∧ u.nextTeam = s.nextTeam + 1 ∧ u.nextTask = s.nextTask + rs.length
              ∧ (∃ g, mget s.nextTeam u.teams = some g ∧ g.ctx = m ∧ g.live = rs.length ∧ g.csig = fld w 128 64
                ∧ g.queue = some x.queue ∧ g.gang = bitAt v 48 ∧ g.scope = sc ∧ g.seat = none ∧ g.deadline = fld w 64 32
                ∧ g.faulted = false)
              ∧ (∀ (j : Nat) (q : TaskRec), rs[j]? = some q → ∃ t, mget (s.nextTask + j) u.tasks = some t
                ∧ t.standing = .queued ∧ t.ready = s.timeUs ∧ t.pinned = false ∧ t.record = { q with team := s.nextTeam }
                ∧ t.tleft = q.atime)
              ∧ (∀ j, (j < s.nextTask ∨ s.nextTask + rs.length ≤ j) → mget j u.tasks = mget j s.tasks)
              ∧ (mget m u.contexts).map (·.lteam) = some (c.lteam + 1))))

/-! ## Faults, the Helm, links and the host (R348, R351, R369 to R375, R410 to R420) -/

/-- R325, R369, R370, R372, R374, R375: FAULT_DELIVERY waits for the engines and for a later cycle; a debug stop holds the task where
they are enabled; else the task is gone, its team has one live task fewer and is faulted, its core is free, and its context is held: no queued
task of it is placed, until HELM_FAULT_RELEASE. The record has the fields of R370 and takes the next place of the context's queue, or
FLOST rises by 1 where that is full.

Readings and choices of the model's own that it rests on: log 52, log 59 and log 90. -/
def Obligations.FaultDelivery : Prop :=
  (∀ (s : State) (tid : Nat) (t : Task) (m : Team) (p : Nat), s.Runs tid t → s.me.endFaults = [] → s.me.faultAt = some p →
    mget t.record.team s.teams = some m → s.me.faults ≠ [] →
    let held : Prop := s.me.resumed = false ∧ s.debugOn (dieOf s.cur.core) t.record.ctx = true
    ((s.me.mode ≠ .fault ∨ s.cycle ≤ p ∨ s.me.startedDone tid = false) → exec .faultDelivery s = .next s)
    ∧ (s.me.mode = .fault → p < s.cycle → s.me.startedDone tid = true →
      (held → Completes .faultDelivery s fun u => OnlyMyCore s u ∧ u.me = { s.me with
        mode := .debug 3 0 0, stopAt := some s.cycle, stopGo := false, stopFrom := none })
      ∧ (¬ held → s.me.shadow = none → risingFrom 0 s.tasks = true → 1 < m.live → Completes .faultDelivery s fun u =>
        mget tid u.tasks = none ∧ u.me.task = none
          ∧ (mget t.record.team u.teams).map (fun g => (g.live, g.faulted)) = some (m.live - 1, true)
          ∧ (∀ x, mget t.record.ctx s.contexts = some x → (mget t.record.ctx u.contexts).map (·.fault) = some true)
          ∧ ((∀ j ∈ s.tasksOf t.record.ctx, j.1 ≠ tid → j.2.standing = .queued) →
            (∀ j ∈ s.tasksOf t.record.ctx, j.1 ≠ tid → (mget j.1 u.tasks).map (·.standing) = some .faultHeld)
            -- the record of the first fault, with the count of the others, is what memory takes, where nothing else of the
            -- task is left to write: no line, no lease, no place among the waiters of a barrier object
            ∧ (s.PathClean t → t.leased = [] → (∀ b, (s.me.seq .ctl).acting ≠ some (.barrier b)) →
              (∀ y ∈ s.tasks, y.2.standing ≠ .staged s.cur.core) → ∀ f, firstFault s.me.faults = some f →
              u.mem = (writeFault t.record.ctx
                (faultRecord s.cur.core s tid t f (s.me.faults.length - 1)) s).mem)))))
  ∧ (∀ (s : State) (c : CoreId) (tid more : Nat) (t : Task) (f : Raised) (x : Context), mget t.record.ctx s.contexts = some x →
    t.record.ctx < 2 ^ 16 → t.record.team < 2 ^ 24 → t.record.depth ≤ 16 → f.cause < 2 ^ 8 → f.eng < 16 → (s.core c).tdep < 2 ^ 8 →
    t.record.lo.get 0 < 2 ^ 32 → (s.core c).under = [] →
    let r := faultRecord c s tid t f more
    fld r 0 16 = t.record.ctx ∧ fld r 16 24 = t.record.team ∧ fld r 40 5 = t.record.depth ∧ bitAt r 45 = t.pinned
      ∧ bitAt r 46 = x.world ∧ bitAt r 47 = false ∧ fld r 48 8 = f.cause ∧ fld r 56 2 = (seqIdx f.seq).val
      ∧ fld r 58 4 = f.eng ∧ fld r 62 2 = 0 ∧ fld r 64 32 = f.pos % 2 ^ 32 ∧ fld r 96 16 = f.qnum % 2 ^ 16
      ∧ fld r 112 8 = (s.core c).tdep ∧ fld r 120 4 = Nat.min more 15 ∧ fld r 124 4 = 0
      ∧ (∀ i : Fin 4, fld r (128 + 32 * i.val) 32 = ((s.core c).seqs.get i).pos % 2 ^ 32)
      ∧ (∀ i : Fin 4, ((s.core c).engines.get i).cmds = [] →
          fld r (256 + 16 * i.val) 16 = ((s.core c).engines.get i).next % 2 ^ 16)
      ∧ fld r 320 64 = f.info0 % 2 ^ 64 ∧ fld r 384 64 = f.info1 % 2 ^ 64 ∧ fld r 448 32 = t.record.lo.get 0
      ∧ fld r 480 9 = c.val)
  ∧ (∀ (s : State) (n rec : Nat) (x : Context), mget n s.contexts = some x → x.conf = false → s.mem.wf = true →
    let w := rdNat s.mem (t1 x.fqb) 4
    let r := rdNat s.mem (t1 (x.fqb + 4)) 4
    let at' := t1 (x.fqb + 64 * (1 + w % 63))
    let u := writeFault n rec s
    OnlyMem s u
      ∧ ((w + 2 ^ 32 - r) % 2 ^ 32 < 63 → rdNat u.mem at' 64 = rec % 2 ^ 512 ∧ rdNat u.mem (t1 x.fqb) 4 = (w + 1) % 2 ^ 32
        ∧ ∀ a, (a < at' ∨ at' + 64 ≤ a) → (a < t1 x.fqb ∨ t1 x.fqb + 4 ≤ a) → rdByte u.mem a = rdByte s.mem a)
      ∧ (63 ≤ (w + 2 ^ 32 - r) % 2 ^ 32 →
        rdNat u.mem (t1 (x.fqb + 8)) 4 = Nat.min (rdNat s.mem (t1 (x.fqb + 8)) 4 + 1) (2 ^ 32 - 1)
          ∧ ∀ a, (a < t1 (x.fqb + 8) ∨ t1 (x.fqb + 8) + 4 ≤ a) → rdByte u.mem a = rdByte s.mem a))
  ∧ ∀ (s : State) (x : Context), let n := s.cur.a
    mget n s.contexts = some x →
    ((x.fault = false ∨ (x.state ≠ 3 ∧ x.state ≠ 4) ∨ s.boot ≠ 3) → exec .helmFaultRelease s = .next s)
    ∧ (x.fault = true → (x.state = 3 ∨ x.state = 4) → s.boot = 3 → risingFrom 0 s.tasks = true →
      Completes .helmFaultRelease s fun u =>
      (∃ y, mget n u.contexts = some y ∧ y.fault = false
          ∧ ((∀ z ∈ s.tasksOf n, s.cowStuck z.2 = none) → y.prsn = 0 ∧ u.mem = s.mem))
        ∧ (∀ j, j ≠ n → mget j u.contexts = mget j s.contexts) ∧ u.cores = s.cores ∧ u.teams = s.teams
        ∧ ∀ j v, mget j s.tasks = some v → mget j u.tasks = some
          (if v.record.ctx = n ∧ v.standing = .faultHeld then { v with standing := .queued } else v))

/-- R410 to R414: an active Helm core fails: another takes over within 50,000 cycles, and where none is left AER reports it. At the end of
a takeover the taker has replayed the journal entries that it had not applied, is active and has the failed core's duty, and the
failed core tests itself, which makes it the relief core within a second or of no use after it. A core whose heartbeat stops fails too.

Readings and choices of the model's own that it rests on: log 1, log 2 and log 97. -/
def Obligations.HelmCores : Prop :=
  ∀ (s : State), let d := s.cur.die
    let i : Fin 3 := Fin.ofNat 3 s.cur.a
    let x := s.die d
    let h := x.helm.get i
    let due : Prop := ∃ e ∈ x.takeover, e.1 = i ∧ e.2 ≤ s.cycle
    let second := 1000000 * 940
    let runs : Prop := ¬ due ∧ s.boot = 3 ∧ (h.status = 0 ∨ h.status = 5)
    (¬ due → (s.boot ≠ 3 ∨ (h.status ≠ 0 ∧ h.status ≠ 5)) → exec .helmCoreFailure s = .next s)
    -- a core that runs no more is found out by its heartbeat, 16,384 cycles after the last one (R410)
    ∧ (runs → s.cur.word = 1 → Completes .helmCoreFailure s fun u => OnlyDie d s u
        ∧ (u.die d).helm.get i = { h with status := 5 } ∧ ∀ k, k ≠ i → (u.die d).helm.get k = x.helm.get k)
    ∧ (∀ j, runs → s.cur.word ≠ 1 → s.cur.num = 0 → j ≠ i → ((x.helm.get j).status = 1 ∨ (x.helm.get j).status = 0) →
      Completes .helmCoreFailure s fun u => DiesBut d s u ∧ u.tasks = s.tasks ∧ u.cores = s.cores ∧ u.aer = s.aer
        ∧ (u.die d).helm.get i = { h with status := 2, since := s.cycle } ∧ (∀ k, k ≠ i → (u.die d).helm.get k = x.helm.get k)
        ∧ ∃ at', (u.die d).takeover = x.takeover ++ [(i, at')] ∧ s.cycle < at' ∧ at' ≤ s.cycle + 50000)
    ∧ (runs → s.cur.word ≠ 1 → (∀ j, j ≠ i → (x.helm.get j).status ≠ 1 ∧ (x.helm.get j).status ≠ 0) →
      Completes .helmCoreFailure s fun u => u.aer = 0 :: s.aer ∧ (u.die d).takeover = []
        ∧ (u.die d).helm.get i = { h with status := 2, since := s.cycle })
    ∧ (∀ t, due → x.taker i = some t → (∀ e ∈ x.journal, e.jseq < (x.helm.get t).copied) →
      Completes .helmCoreFailure s fun u => t ≠ i ∧ ((x.helm.get t).status = 1
          ∨ ((x.helm.get t).status = 0 ∧ ∀ k, k ≠ i → (x.helm.get k).status ≠ 1))
        ∧ (u.die d).helm.get t = { x.helm.get t with status := 0, beat := s.cycle, copied := x.jseq }
        ∧ (u.die d).helm.get i = { h with status := 3, since := s.cycle }
        ∧ (∀ r, (u.die d).duties.get r = if x.duties.get r = some i then some t else x.duties.get r)
        ∧ (∀ e ∈ (u.die d).takeover, e.1 ≠ i) ∧ u.tasks = s.tasks ∧ u.cores = s.cores)
    ∧ (h.status = 3 → s.cycle ≤ h.since + second → Completes .helmSelfTestDone s fun u => OnlyDie d s u
        ∧ (u.die d).helm.get i = { h with status := 1, copied := x.jseq }
        ∧ ∀ k, k ≠ i → (u.die d).helm.get k = x.helm.get k)
    ∧ ((h.status ≠ 3 ∨ h.since + second < s.cycle) → exec .helmSelfTestDone s = .next s)
    ∧ (h.status = 3 → h.since + second ≤ s.cycle → Completes .helmSelfTestTimeout s fun u => OnlyDie d s u
        ∧ (u.die d).helm.get i = { h with status := 4 } ∧ ∀ k, k ≠ i → (u.die d).helm.get k = x.helm.get k)
    ∧ ((h.status ≠ 3 ∨ s.cycle < h.since + second) → exec .helmSelfTestTimeout s = .next s)
    -- the replay of an entry (R412): an update whose SEQ has passed the entry's is done; WAKET of a parked context is written again
    ∧ ∀ e : Journal, ((e.kind = 1 ∨ e.kind = 2 ∨ e.kind = 3) → s.qcb e.obj 0 4 % 2 = 0 → s.qcb e.obj 0 4 ≠ e.arg / 2 ^ 64 →
        replayEntry d e s = s)
      ∧ ∀ y, e.kind = 7 → mget e.obj s.contexts = some y → (y.state = 3 ∨ y.state = 4) →
        mget e.obj (replayEntry d e s).contexts = some { y with waket := e.arg } ∧ (replayEntry d e s).tasks = s.tasks

/-- R11, R92, R348, R351, R388 to R390, R400, R416 to R420: links and ports go down once; the task of a failed UALink request takes LINK;
requests of other packages and of the host through BAR4 read and write the bytes that they name, under their pages' tags, but for those
of a Chart or a save area, and the host's of the non-secure world alone; the host reads the doorbells' values through BAR2 and
writes the boot ROM's image; and a VF's reset closes its window.

Readings and choices of the model's own that it rests on: log 57, log 61, log 83 and log 84. -/
def Obligations.LinksAndHost : Prop :=
  ∀ (s : State), let a := s.cur.a
    let quiet (u : State) : Prop := u.tasks = s.tasks ∧ u.cores = s.cores ∧ u.contexts = s.contexts
    let l : Fin 4 := Fin.ofNat 4 a
    let p : Fin 12 := Fin.ofNat 12 a
    let x : Fin 2 := Fin.ofNat 2 a
    let vf : Fin 64 := Fin.ofNat 64 a
    let r := s.cur.link
    -- the tag under which the outside reaches a byte (R91, R354)
    let tag (b : Nat) : Nat := outTag s.allPages b
    let Visible (k n : Nat) : Prop := ∀ b ∈ keysFrom k n, s.hidden (tagged (tag b) b / 64) = none
    -- a read that is refused tells nothing: the bytes of its reply are free values, the model's choice (log 84)
    let Refused (i : Instr) (n : Nat) : Prop := Completes i s fun u =>
      u = { s with hostReply := u.hostReply, hostPoison := false, free := u.free } ∧ u.hostReply.length = n
    let Reads (i : Instr) (k n : Nat) : Prop := s.Clean → (∀ b ∈ keysFrom k n, isAperture b = false) →
      exec i s = .next { s with
        hostReply := (keysFrom k n).map fun b => s.homeByte (tagged (tag b) b)
        hostPoison := (linesOf (keysFrom k n)).any fun l => s.isPoisoned (tagged (tag (64 * l)) (64 * l) / 64) }
    -- a write, but for what the function's own error report adds
    let Writes (i : Instr) (k : Nat) (bs : List Byte) (aer : List Nat) : Prop := s.mem.wf = true → s.Clean →
      Visible k bs.length → k + bs.length ≤ 2 ^ 54 → Completes i s fun u =>
        u = { s with mem := u.mem, poisoned := u.poisoned, watches := u.watches, mended := u.mended, behind := u.behind
                     lineKeys := u.lineKeys, aer := aer }
          ∧ rdBytes u.mem k bs.length = bs
          ∧ (∀ b, b < k ∨ k + bs.length ≤ b → rdByte u.mem b = rdByte s.mem b)
          ∧ (s.cur.flag = true → ∀ l ∈ linesOf (keysFrom k bs.length), l ∈ u.poisoned)
          ∧ (s.cur.flag = false → ∀ l ∈ u.poisoned, l ∈ s.poisoned)
          -- a whole-line write of this cycle that clears poison leaves a read at home the line before it (R400)
          ∧ ∀ l, s.cur.flag = false → l ∈ s.poisoned → risingFrom 0 s.mended = true →
            (∀ b, 64 * l ≤ b → b < 64 * l + 64 → k ≤ b ∧ b < k + bs.length) → mget l s.mended = none →
            u.isPoisoned (tagged (tag (64 * l)) (64 * l) / 64) = true
              ∧ ∀ b, 64 * l ≤ b → b < 64 * l + 64 → u.homeByte (tagged (tag b) b) = rdByte s.mem b
    (l ∈ s.uciDown → exec .ucieLinkDown s = .next s)
    ∧ (l ∉ s.uciDown → Completes .ucieLinkDown s fun u => quiet u ∧ u.uciDown = l :: s.uciDown)
    ∧ (p ∈ s.uaDown → exec .ualinkPortDown s = .next s)
    ∧ (p ∉ s.uaDown → Completes .ualinkPortDown s fun u => quiet u ∧ u.uaDown = p :: s.uaDown)
    ∧ (x ∈ s.cxlDown → exec .cxlPortDown s = .next s)
    ∧ (x ∉ s.cxlDown → Completes .cxlPortDown s fun u => quiet u ∧ u.cxlDown = x :: s.cxlDown
        ∧ DiesBut (if a % 2 = 0 then 1 else 3) s u)
    -- a request of a page's move abandons the move where an end of it lies in another package (R418)
    ∧ (∀ i, i = .ualinkRequestTimeout ∨ i = .ualinkErrorCompletion → s.cur.b = 1 →
      (mget a s.moves = none → exec i s = .next s)
      ∧ ∀ m, mget a s.moves = some m → (keyTier m.src ≠ 3 → keyTier m.dst ≠ 3 → exec i s = .next s)
        ∧ ((keyTier m.src = 3 ∨ keyTier m.dst = 3) → risingFrom 0 s.moves = true → Completes i s fun u =>
          mget a u.moves = none ∧ u.tasks = s.tasks ∧ u.cores = s.cores))
    ∧ (s.cur.b ≠ 1 → r.seq = .ctl → (s.core r.core).task ≠ none → (s.core r.core).faultAt = none →
      let Takes (i : Instr) (i1 : Nat) : Prop := Completes i s fun u => CoresBut r.core s u ∧ u.tasks = s.tasks
        ∧ (∀ b, rdByte u.mem b = rdByte s.mem b)
        ∧ u.core r.core = { s.core r.core with
            faults := (s.core r.core).faults ++ [⟨0x40, .ctl, 15, ((s.core r.core).seq .ctl).pos, 0,
              reqInfo r.buf r.off, i1, false⟩]
            faultAt := some s.cycle
            mode := .fault }
      Takes .ualinkRequestTimeout (1 + b2n r.writes * 4 + r.port.val * 256 + r.pkg.val * 2 ^ 32)
        ∧ Takes .ualinkErrorCompletion (1 + r.port.val * 256 + r.pkg.val * 2 ^ 32))
    ∧ (∀ b n, s.cur.remote = .read b n → let k := t1 (b % 2 ^ 42)
      (s.secured k n = true → Refused .ualinkRemoteRequest n) ∧ (s.secured k n = false → Reads .ualinkRemoteRequest k n))
    ∧ (∀ b bs, s.cur.remote = .write b bs → let k := t1 (b % 2 ^ 42)
      (s.secured k bs.length = true → exec .ualinkRemoteRequest s = .next s)
      ∧ (s.secured k bs.length = false → Writes .ualinkRemoteRequest k bs s.aer))
    ∧ (∀ b (fn : Fin 13) wide v v2, s.cur.remote = .atomic b fn wide v v2 →
      let k := t1 (b % 2 ^ 42)
      let n := if wide then 8 else 4
      (s.secured k n = true → Refused .ualinkRemoteRequest n)
      ∧ (s.secured k n = false → s.Clean → Visible k n → (∃ a < n, (k + a) / 64 ∈ s.poisoned) →
        Completes .ualinkRemoteRequest s fun u => u = { s with hostReply := u.hostReply, hostPoison := true })
      ∧ (s.secured k n = false → s.Clean → Visible k n → s.poisoned = [] → s.mended = [] → s.mem.wf = true →
        Completes .ualinkRemoteRequest s fun u =>
          u = { s with mem := u.mem, hostReply := u.hostReply, hostPoison := u.hostPoison, watches := u.watches
                       behind := u.behind, lineKeys := u.lineKeys }
        ∧ rdNat u.mem k n = atomRule fn.val (8 * n) (rdNat s.mem k n) (v.toNat % 2 ^ (8 * n)) v2.toNat % 2 ^ (8 * n)
        ∧ ∀ c, c < k ∨ k + n ≤ c → rdByte u.mem c = rdByte s.mem c))
    ∧ exec .pcieLinkDown s = .next { s with pcieDown := true } ∧ exec .pcieLinkUp s = .next { s with pcieDown := false }
    ∧ exec .pfFlr s = .next { s with hostReply := [], hostPoison := false }
    ∧ (Completes .vfFlr s fun u => u = { s with vfmap := u.vfmap } ∧ (u.vfmap.get vf).getLsbD 31 = false
        ∧ (∀ b, b ≠ 31 → (u.vfmap.get vf).getLsbD b = (s.vfmap.get vf).getLsbD b)
        ∧ ∀ j, j ≠ vf → u.vfmap.get j = s.vfmap.get j)
    ∧ (let k := t1 (fld s.hwbase.toNat 30 22 * 2 ^ 30 + a)
      let bs := s.cur.bytes
      let room := 2 ^ (30 + s.bar4)
      let reads : Prop := s.pcieDown = false ∧ s.cur.flag = false
      let writes : Prop := s.pcieDown = false ∧ a + bs.length ≤ room ∧ s.cur.num ≠ 1
      -- a poisoned write and a malformed request are the function's own errors, and are reported (R420)
      let aer := if s.cur.flag = true then 2 :: s.aer else s.aer
      (s.pcieDown = true → exec .hostBar4Write s = .next s ∧ (s.cur.flag = false ∨ s.cur.num = 0 → exec .hostBar4Read s = .next s))
      ∧ (room < a + bs.length → exec .hostBar4Write s = .next s)
      ∧ (s.pcieDown = false → a + bs.length ≤ room → s.cur.num = 1 → exec .hostBar4Write s = .next { s with aer := 3 :: s.aer })
      ∧ (reads → s.cur.num = 4 → exec .hostBar4Read s = .next { s with aer := 3 :: s.aer })
      -- BAR2 reads the stored doorbell values (R290, R343)
      ∧ (reads → s.cur.num = 3 → (∀ j, j < s.cur.b → (s.bellAt s.cur.bell (a + j)).isSome = true) → exec .hostBar4Read s = .next
          { s with hostReply := (List.range s.cur.b).map fun j => ((s.bellAt s.cur.bell (a + j)).map s.bellByte).getD 0
                   hostPoison := false })
      ∧ (reads → s.cur.num = 3 → (∃ j, j < s.cur.b ∧ s.bellAt s.cur.bell (a + j) = none) → Refused .hostBar4Read s.cur.b)
      ∧ (reads → s.cur.num ≠ 3 → s.cur.num ≠ 4 →
        (room < a + s.cur.b → exec .hostBar4Read s = .next s)
        ∧ (a + s.cur.b ≤ room → s.inImage a = true → Refused .hostBar4Read s.cur.b)
        ∧ (a + s.cur.b ≤ room → s.inImage a = false → isAperture k = false → s.hostReaches k s.cur.b = false →
            Refused .hostBar4Read s.cur.b)
        ∧ (a + s.cur.b ≤ room → s.inImage a = false → s.hostReaches k s.cur.b = true → Reads .hostBar4Read k s.cur.b))
      -- the boot ROM's image window (R355)
      ∧ (writes → s.inImage a = true → exec .hostBar4Write s = .next { s with
          aer := aer, image := wrCells s.image ((cellsFrom a bs).filter fun x => decide (x.1 < 2 ^ 23)) })
      ∧ (writes → s.inImage a = false → isAperture k = false → s.hostReaches k bs.length = true → Writes .hostBar4Write k bs aer)
      ∧ (writes → s.inImage a = false → isAperture k = false → s.hostReaches k bs.length = false →
          exec .hostBar4Write s = .next { s with aer := aer })
      ∧ (writes → s.inImage a = false → isAperture k = true →
        exec .hostBar4Write s = .next (ringBell .pf 0 (fld k 0 36) bs.length (leNat bs) { s with aer := aer })))

/-! ## Power, reset, boot, keys and the register window (R74, R344 to R347, R355 to R360, R388, R391, R392, R396, R421) -/

/-- R358 to R360, R388, R391, R392, R421: TELEMETRY_SAMPLE once per µs, heat gating from 105 °C until below 100 °C, D, which
each 10 µs falls by 1 over a limit and rises by 1 to 15 once the load eases, and each µs falls while the core rail's current exceeds
6,000 A, the trip conditions and what a trip does, PLIM, and a scrub pass over one line that fails.

Readings and choices of the model's own that it rests on: log 58 and log 63. -/
def Obligations.PowerAndHeat : Prop :=
  ∀ s : State,
    let limit : Prop := s.hot = true ∨ 8 * fld s.plimNow.toNat 32 12 < s.pwr.toNat
    let trips : Prop := (s.cur.a = 0 ∧ 120 ≤ s.tmax.toNat) ∨ (s.cur.a = 1 ∧ 2 ≤ s.lowFor) ∨ (s.cur.a = 2 ∧ 2 ≤ s.overFor)
    (s.cycle % 940 ≠ 0 → exec .telemetrySample s = .next s)
    -- the readings are free values, the model's choice (log 58)
    ∧ (s.cycle % 940 = 0 → Completes .telemetrySample s fun u => u = { s with
        pwr := u.pwr, icore := u.icore, vcore := u.vcore, tmax := u.tmax, energy := u.energy, lowFor := u.lowFor
        overFor := u.overFor, free := u.free }
      ∧ u.lowFor = (if u.vcore.toNat < 600 then s.lowFor + 1 else 0)
      ∧ u.overFor = (if 6000 < u.icore.toNat ∧ s.gating = 0 then s.overFor + 1 else 0))
    ∧ (105 ≤ s.tmax.toNat → exec .heatGating s = .next { s with hot := true })
    ∧ (s.tmax.toNat < 100 → exec .heatGating s = .next { s with hot := false })
    ∧ (100 ≤ s.tmax.toNat → s.tmax.toNat < 105 → exec .heatGating s = .next s)
    ∧ (s.cycle % 940 ≠ 0 → exec .powerGatingStep s = .next s)
    ∧ (s.cycle % 940 = 0 → 6000 < s.icore.toNat → exec .powerGatingStep s = .next { s with gating := s.gating - 1 })
    ∧ (s.icore.toNat ≤ 6000 → s.cycle % 9400 ≠ 0 → exec .powerGatingStep s = .next s)
    -- the average over WIN, and whether the load has eased, are free values (log 58)
    ∧ (s.icore.toNat ≤ 6000 → s.cycle % 9400 = 0 → Completes .powerGatingStep s fun u => u = { s with
        gating := u.gating, free := u.free }
      ∧ (limit → u.gating = s.gating - 1)
      ∧ ∃ (avg : Nat) (eased : Bool), ¬ limit → u.gating = if 8 * fld s.plimNow.toNat 0 12 < avg then s.gating - 1
          else if eased = true then Nat.min 15 (s.gating + 1) else s.gating)
    ∧ ((s.railsOff = true ∨ ¬ trips) → exec .trip s = .next s)
    ∧ (s.railsOff = false → trips → Completes .trip s fun u => u.railsOff = true ∧ u.aer = 1 :: s.aer ∧ u.freeCores = []
        ∧ u.tasks = s.tasks ∧ u.cores = s.cores ∧ u.contexts = s.contexts ∧ u.agenda = s.agenda.filter Turn.outlives)
    ∧ exec .plimTakesEffect s = .next { s with plimNow := s.plim }
    ∧ ((∀ e ∈ s.failing, frameDie (64 * e.1) ≠ some s.cur.die ∨ 2 ≤ e.2) → Completes .scrubPass s fun u =>
        u = { s with scrubbed := u.scrubbed } ∧ u.scrubbed = s.scrubbed.filter fun l => !(frameDie (64 * l) == some s.cur.die))
    ∧ ∀ l k, s.failing = [(l, k)] → l < 2 ^ 48 → k ≤ 1 → frameDie (64 * l) = some s.cur.die → Completes .scrubPass s fun u =>
        u.failing = [] ∧ u.tasks = s.tasks ∧ u.cores = s.cores ∧ u.contexts = s.contexts
          ∧ (k ≠ 0 → l ∈ u.poisoned ∧ l ∉ u.scrubbed) ∧ (k = 0 → u.poisoned = s.poisoned ∧ l ∈ u.scrubbed)

/-- R74, R91, R355 to R357, R396: PACKAGE_RESET keeps HBM, the pool and T0SL and leaves everything else as reset; BOOTST.GO starts
the firmware only if the image passes all three checks, and the rollback number never falls. KEY_LOAD and KEY_DESTROY start only
when no command runs and the key ID is 1 to 127; when a destroy is done, its key is gone and so is every byte of its T0 pages
and every published copy.

R74, R287, R317, R323, R344 to R347, R358: a register write sets the fields that its offset names, within their ranges; the host
cannot write a secure register, and an unassigned offset keeps everything. PKGID is written once.

R5, R18, R22, R92, R343 to R346: system software of the secure world writes the fields of a context-table entry that are its own; a
read of the host's window gives a register as it stands, and zero for a secure, a reserved and a write-only one; the Helm reads the
secure ones too, and system software the context table.

Readings and choices of the model's own that it rests on: log 8, log 13, log 17, log 55, log 56 and log 83. -/
def Obligations.BootKeysAndRegisters : Prop :=
  (∀ s : State, let a := s.cur.a
      (s.mem.wf = true → Completes .packageReset s fun u => u.cycle = 0 ∧ u.tasks = [] ∧ u.teams = [] ∧ u.contexts = []
        ∧ (∀ c, u.core c = Core.reset) ∧ u.keys = State.reset.keys ∧ u.boot = 1 ∧ u.gating = 15 ∧ u.hot = false
        ∧ u.plim = State.reset.plim ∧ u.railsOff = false ∧ u.pkgSet = false ∧ u.uciDown = [] ∧ u.preempts = [] ∧ u.moves = []
        ∧ (∀ d, u.die d = { Die.reset with t0sl := (s.die d).t0sl, t0inUse := (s.die d).t0sl })
        ∧ u.rbcnt = s.rbcnt ∧ u.objects = s.objects ∧ u.freeFrames = s.freeFrames
        -- HBM keeps what it held; a line that lay dirty in a memory-side cache is lost with it (R88)
        ∧ (∀ k, rdByte u.mem k = if keyTier k = 0 then 0 else rdByte s.bareHome.mem k)
        ∧ (s.behind = [] → ∀ k, rdByte u.mem k = if keyTier k = 0 then 0 else rdByte s.mem k))
      ∧ (s.boot ≠ 1 → exec .bootstGo s = .next s)
      ∧ (s.boot = 1 → Completes .bootstGo s fun u =>
          (u.boot = 3 ↔ u.ecok = true ∧ u.lmok = true ∧ u.rbok = true) ∧ (u.boot = 3 ∨ u.boot = 2)
            ∧ (u.rbok = true ↔ s.rbcnt.toNat ≤ (Config.imageVerdict s.image).2.2.toNat)
            ∧ (u.boot = 3 → u.rbcnt = (Config.imageVerdict s.image).2.2) ∧ (u.boot = 2 → u.rbcnt = s.rbcnt)
            ∧ s.rbcnt.toNat ≤ u.rbcnt.toNat ∧ u.cores = s.cores ∧ u.tasks = s.tasks ∧ (u.boot = 2 → u.mem = s.mem)
            -- the firmware places the error rings and clears their headers; where is a free value (log 16)
            ∧ (u.boot = 3 → (∀ d : DieId, (u.die d).mring = Config.ringBase d.val 0 ∧ (u.die d).sring = Config.ringBase d.val 1)
              ∧ ∀ b, (∀ (d : DieId) (j : Nat), j < 2 →
                  b < t1 (Config.ringBase d.val j) ∨ t1 (Config.ringBase d.val j) + 64 ≤ b) → rdByte u.mem b = rdByte s.mem b))
      -- KID is written whether or not a command starts
      ∧ ((s.keyBusy = true ∨ a = 0 ∨ 128 ≤ a) → exec .keyLoad s = .next { s with keyKid := a % 128 }
          ∧ exec .keyDestroy s = .next { s with keyKid := a % 128 })
      ∧ (s.keyBusy = false → 1 ≤ a → a < 128 →
          exec .keyLoad s = .next { s with keyOp := 1, keyKid := a, keyFor := a, keyBusy := true, keyStart := s.cycle
                                           keyData := s.cur.word % 2 ^ 512 }
          ∧ exec .keyDestroy s = .next { s with keyOp := 2, keyKid := a, keyFor := a, keyBusy := true, keyStart := s.cycle })
      ∧ ((s.keyBusy = false ∨ (s.keyOp = 2 ∧ s.keyMoving s.keyFor = true)) → exec .keyCommandDone s = .next s)
      ∧ (s.keyBusy = true → s.keyOp = 1 → exec .keyCommandDone s = .next { s with
          keys := s.keys.setIfInBounds s.keyFor (some s.keyData)
          keyBusy := false
          keyLive := true })
      ∧ (s.keyBusy = true → s.keyOp = 2 → s.keyMoving s.keyFor = false → s.keyFor < 128 → s.mem.wf = true →
        Completes .keyCommandDone s fun u => u.keys[s.keyFor]? = some none ∧ u.keyBusy = false ∧ u.keyLive = false
          ∧ (∀ j, j ≠ s.keyFor → u.keys[j]? = s.keys[j]?)
          ∧ (∀ b, tagOf (b / 64) % 128 = s.keyFor → (∀ c, mget b (u.core c).dirty.cells = none
              ∧ mget b (u.core c).view.cells = none ∧ mget b (u.core c).own.cells = none
              ∧ mget b (u.cluster c).dirty.cells = none ∧ mget b (u.cluster c).clean.cells = none)
            ∧ (∀ d, mget b (u.die d).dirty.cells = none ∧ mget b (u.die d).clean.cells = none)
            ∧ ∀ t ∈ u.tasks, ∀ e ∈ t.2.epochs, mget b e.cells = none)
          ∧ (∀ e ∈ u.behind, e.2.tag % 128 ≠ s.keyFor)
          ∧ ∀ p ∈ s.keyPages s.keyFor, ∀ b, p.1 ≤ b → b < p.1 + p.2 → b < 2 ^ 52 → rdByte u.mem b = 0))
  ∧ (∀ s : State, let d := s.cur.die
      let o := s.cur.a
      let v := s.cur.num % 2 ^ 64
      let i : Instr := .registerWrite
      let Sets (f : Die → Die) : Prop := exec i s = .next (s.onDie d f)
      let allowed : Prop := s.cur.flag = true
        ∨ ¬ (o < 0x200 ∨ (0x1800 ≤ o ∧ o < 0x2000) ∨ (0x3000 ≤ o ∧ o < 0x5000))
      s.cur.b ≠ 1 → s.cur.b ≠ 2 →
      (¬ allowed → exec i s = .next s)
      ∧ (allowed →
        (o = 0x000 → fld v 16 16 ≠ 0 → Sets fun x => { x with idle := fld v 16 16 })
        ∧ (o = 0x000 → fld v 16 16 = 0 → exec i s = .next s)
        ∧ (o = 0x008 → Sets fun x => { x with qcbbase := v / 128 * 128 })
        ∧ (o = 0x010 → Sets fun x => { x with pbbase := v / 4096 * 4096 })
        ∧ (o = 0x100 → fld v 0 6 ≠ 0 → fld v 8 4 ≤ 8 → Sets fun x => { x with migt := fld v 0 6, t0sl := fld v 8 4 })
        ∧ (o = 0x1000 → Sets fun x => { x with trace := { x.trace with
            mode := bitAt v 1
            seqm := BitVec.ofNat 4 (fld v 8 4)
            fctx := fld v 16 16
            sper := fld v 32 32 } })
        ∧ (o = 0x1008 → Sets fun x => { x with trace := { x.trace with base := v / 4096 * 4096 } })
        ∧ (o = 0x1010 → 12 ≤ fld v 0 5 → fld v 0 5 ≤ 26 →
            Sets fun x => { x with trace := { x.trace with log := fld v 0 5, key := fld v 7 7 } })
        ∧ (o = 0x101C → Sets fun x => { x with trace := { x.trace with tags := BitVec.ofNat 64 v } })
        ∧ (o = 0x1024 → Sets fun x => { x with trace := { x.trace with tagp := BitVec.ofNat 64 v } })
        ∧ ((o = 0x1018 ∨ o = 0x1020 ∨ o = 0x1028) → Completes i s fun u => OnlyDie d s u
            ∧ let x := (s.die d).trace
              let y := (u.die d).trace
              let half (w : Dword) (k : Nat) : Nat := fld w.toNat (32 * k) 32
              half y.tags 0 = (if o = 0x1018 then fld v 32 32 else half x.tags 0)
              ∧ half y.tags 1 = (if o = 0x1020 then fld v 0 32 else half x.tags 1)
              ∧ half y.tagp 0 = (if o = 0x1020 then fld v 32 32 else half x.tagp 0)
              ∧ half y.tagp 1 = (if o = 0x1028 then fld v 0 32 else half x.tagp 1))
        ∧ (∀ j : Fin 8, o = 0x1100 + 8 * j.val → Completes i s fun u => OnlyDie d s u
            ∧ (∀ b, ((u.die d).bps.get j).getLsbD b = (bitAt v b && (decide (b < 5) || (decide (16 ≤ b) && decide (b < 64)))))
            ∧ ∀ k, k ≠ j → (u.die d).bps.get k = (s.die d).bps.get k)
        ∧ (o = 0x1800 → Sets fun x => { x with dbgbm := v / 4096 * 4096 })
        ∧ (d = 0 → o = 0x2000 →
            (500 ≤ fld v 0 12 → fld v 0 12 ≤ fld v 32 12 → fld v 32 12 ≤ 3000 → 1 ≤ fld v 16 10 → fld v 16 10 ≤ 1000 →
              Completes i s fun u => u = { s with plim := u.plim } ∧ fld u.plim.toNat 0 12 = fld v 0 12
                ∧ fld u.plim.toNat 16 10 = fld v 16 10 ∧ fld u.plim.toNat 32 12 = fld v 32 12)
            ∧ ((fld v 0 12 < 500 ∨ fld v 32 12 < fld v 0 12 ∨ 3000 < fld v 32 12 ∨ fld v 16 10 = 0 ∨ 1000 < fld v 16 10) →
              exec i s = .next s))
        ∧ (∀ j : Fin 64, d = 0 → o = 0x3000 + 8 * j.val →
            (fld v 0 11 + fld v 16 12 ≤ 2048 → Completes i s fun u => u = { s with vfmap := u.vfmap }
              ∧ fld (u.vfmap.get j).toNat 0 11 = fld v 0 11 ∧ fld (u.vfmap.get j).toNat 16 12 = fld v 16 12
              ∧ bitAt (u.vfmap.get j).toNat 31 = bitAt v 31 ∧ ∀ k, k ≠ j → u.vfmap.get k = s.vfmap.get k)
            ∧ (2048 < fld v 0 11 + fld v 16 12 → exec i s = .next s))
        ∧ (d = 0 → o = 0x3200 → exec i s = .next { s with hwbase := BitVec.ofNat 64 (fld v 30 22 * 2 ^ 30) })
        ∧ (d = 0 → o = 0x4000 → exec i s = .next { s with keyKid := fld v 2 7 })
        ∧ (0x5000 ≤ o → exec i s = .next s)))
  ∧ (∀ s : State, (s.pkgSet = true → exec .pkgidWrite s = .next s)
      ∧ (s.pkgSet = false →
        exec .pkgidWrite s = .next { s with pkgid := BitVec.ofNat 10 s.cur.num, pkgSet := true }))
  ∧ (∀ s : State, let n := s.cur.a / 512
      let v := s.cur.num % 2 ^ 64
      let i : Instr := .registerWrite
      let y := (mget n s.contexts).getD Context.free
      -- an entry that software writes is parked, and no longer free, the model's reading of R23 (log 98)
      let x := if y.state = 0 then { y with state := 3 } else y
      let Entry (k : Nat) (y : Context) : Prop := s.cur.a % 512 = 8 * k → exec i s = .next { s with contexts := mput n y s.contexts }
      s.cur.b = 1 →
      ((s.cur.flag = false ∨ n = 0 ∨ 65535 < n ∨ s.cur.a % 8 ≠ 0) → exec i s = .next s)
      ∧ (s.cur.flag = true → 1 ≤ n → n ≤ 65535 → s.cur.a % 8 = 0 →
        Entry 0 { x with cls := fld v 8 3, world := bitAt v 11, conf := bitAt v 12, keyid := fld v 16 7, home := Fin.ofNat 4 (fld v 23 2) }
        ∧ Entry 1 { x with chroot := v / 4096 * 4096 } ∧ Entry 2 { x with btbase := v / 32 * 32 }
        ∧ (fld v 0 21 ≤ 2 ^ 20 → Entry 3 { x with btlen := fld v 0 21 }) ∧ Entry 4 { x with savea := v / 4096 * 4096 }
        ∧ Entry 5 { x with savel := fld v 0 32 } ∧ Entry 7 { x with fqb := v / 4096 * 4096 }
        ∧ (s.cur.a % 512 = 48 → Entry 6 x) ∧ (64 ≤ s.cur.a % 512 → Entry (s.cur.a % 512 / 8) x)))
  ∧ ∀ s : State, let o := s.cur.a % 2 ^ 24
      let d : DieId := Fin.ofNat 4 (s.cur.a / 2 ^ 24)
      let i : Instr := .hostBar4Read
      let Gives (w : Nat) : Prop := Completes i s fun u => u = { s with hostReply := u.hostReply, hostPoison := false }
        ∧ u.hostReply = leBytes 8 w
      s.cur.flag = true → s.cur.b = 8 →
      (s.cur.num = 1 → o % 8 = 0 → s.cur.a < 2 ^ 26 →
        (o = 0x0 → Gives ((s.die d).nslot + (s.die d).idle * 2 ^ 16)) ∧ (o = 0x8 → Gives (s.die d).qcbbase)
        ∧ (o = 0x10 → Gives (s.die d).pbbase) ∧ (o = 0x1800 → Gives (s.die d).dbgbm)
        ∧ (d = 0 → o = 0x3200 → Gives s.hwbase.toNat))
      ∧ (s.cur.num = 2 → s.cur.a % 512 = 0 → let x := mget (s.cur.a / 512) s.contexts
        (x = none → Gives 0)
        ∧ ∀ y, x = some y → y.state < 16 → y.prsn < 16 → y.cls < 8 → ∃ w, Gives w ∧ fld w 0 4 = y.state ∧ fld w 4 4 = y.prsn
          ∧ fld w 8 3 = y.cls ∧ fld w 11 1 = b2n y.world ∧ fld w 12 1 = b2n y.conf)
      ∧ (s.cur.num = 0 → s.pcieDown = false → o % 8 = 0 → s.cur.a < 2 ^ 26 →
      ((o < 0x200 ∨ (0x1800 ≤ o ∧ o < 0x2000) ∨ (0x3000 ≤ o ∧ o < 0x5000)) → Gives 0)
      ∧ (o = 0x200 → Gives ((s.die d).accq.toNat + b2n (s.die d).accDone * 2 ^ 18))
      ∧ (∀ j : Fin 40, o = 0x208 + 8 * j.val → Gives ((s.die d).accr.get j).toNat)
      ∧ (o = 0x1008 → Gives (s.die d).trace.base) ∧ (o = 0x1208 → Gives (s.die d).stopv.toNat)
      ∧ (∀ j : Fin 8, o = 0x1100 + 8 * j.val → Gives ((s.die d).bps.get j).toNat)
      ∧ (d = 0 → o = 0x2000 → Gives s.plim.toNat) ∧ (d = 0 → o = 0x2018 → Gives s.energy.toNat)
      ∧ (0x1210 ≤ o → o < 0x1400 → Gives 0))

/-! ## The Binnacle (R310 to R326) -/

/-- R310, R314 to R316: a sample of the accounting port is taken within 2 µs and gives the counters of a core, or of a context, with
their overflow bits, and CYCLE; a flush adds a core's charges to its context's counters and zeroes them; a counter is reprogrammed
from the next cycle, cleared, and its overflow bit cleared.

Readings and choices of the model's own that it rests on: log 2. -/
def Obligations.Accounting : Prop :=
  ∀ s : State, let d := s.cur.die
    let q := (s.die d).accq.toNat
    let n := fld q 0 16
    let a : Fin 4 := Fin.ofNat 4 s.cur.a
    let OnlyPmc (i : Instr) (p : Pmc) : Prop := Completes i s fun u => OnlyMyCore s u ∧ u.me = { s.me with pmcs := u.me.pmcs }
      ∧ u.me.pmcs.get a = p ∧ ∀ j, j ≠ a → u.me.pmcs.get j = s.me.pmcs.get j
    let Result (marks : List Nat) (i v : Nat) : Nat := v + if i ∈ marks then 2 ^ 48 else 0
    (Completes .accqWrite s fun u => u = { s with dies := u.dies, free := u.free } ∧ DiesBut d s u
      ∧ (u.die d).accq.toNat = s.cur.num % 2 ^ 18 ∧ (u.die d).accDone = false
      ∧ ∃ t, (u.die d).accT = some t ∧ s.cycle < t ∧ t ≤ s.cycle + 2 * 940)
    ∧ (((s.die d).accT = none ∨ ∃ t, (s.die d).accT = some t ∧ s.cycle < t) → exec .accountingSampleDone s = .next s)
    ∧ (∀ t (c : CoreId), (s.die d).accT = some t → t ≤ s.cycle → bitAt q 16 = true → n = c.val →
      Completes .accountingSampleDone s fun u => CoresBut c s u ∧ DiesBut d s u ∧ u.tasks = s.tasks ∧ u.contexts = s.contexts
        ∧ (u.die d).accDone = true ∧ (u.die d).accT = none
        ∧ u.core c = { s.core c with ovfl := if bitAt q 17 then [] else (s.core c).ovfl }
        ∧ ((u.die d).accr.get 37).toNat = s.cycle % 2 ^ 48
        ∧ ((s.core c).zero < 2 ^ 48 → ((u.die d).accr.get 38).toNat = Result (s.core c).ovfl 38 (s.core c).zero)
        ∧ ∀ (i : Nat) (hi : i < 16), (s.core c).counters.get ⟨i, hi⟩ < 2 ^ 48 →
            ((u.die d).accr.get ⟨i, by omega⟩).toNat = Result (s.core c).ovfl i ((s.core c).counters.get ⟨i, hi⟩))
    ∧ (∀ t x, (s.die d).accT = some t → t ≤ s.cycle → bitAt q 16 = false → n ≠ 0 → mget n s.contexts = some x →
      (∀ c, (s.taskOn c).map (·.record.ctx) ≠ some n) →
      Completes .accountingSampleDone s fun u => DiesBut d s u ∧ u.cores = s.cores ∧ u.tasks = s.tasks
        ∧ (u.die d).accDone = true ∧ (u.die d).accT = none
        ∧ mget n u.contexts = some { x with ovfl := if bitAt q 17 then [] else x.ovfl }
        ∧ ((u.die d).accr.get 37).toNat = s.cycle % 2 ^ 48
        ∧ (x.disc < 2 ^ 48 → ((u.die d).accr.get 36).toNat = Result x.ovfl 36 x.disc)
        ∧ (∀ (i : Nat) (hi : i < 16), x.acct.get ⟨i, hi⟩ < 2 ^ 48 →
            ((u.die d).accr.get ⟨i, by omega⟩).toNat = Result x.ovfl i (x.acct.get ⟨i, hi⟩))
        ∧ (∀ (i : Nat) (hi : i < 16), x.tokq.get ⟨i, hi⟩ < 2 ^ 48 →
            ((u.die d).accr.get ⟨16 + i, by omega⟩).toNat = Result x.ovfl (16 + i) (x.tokq.get ⟨i, hi⟩))
        ∧ ∀ (i : Nat) (hi : i < 4), x.qfull.get ⟨i, hi⟩ < 2 ^ 48 →
            ((u.die d).accr.get ⟨32 + i, by omega⟩).toNat = Result x.ovfl (32 + i) (x.qfull.get ⟨i, hi⟩))
    ∧ (∀ tid t x, s.Runs tid t → mget t.record.ctx s.contexts = some x → (∀ v ∈ x.acct.toList, v < 2 ^ 48) →
      Completes .accountFlush s fun u => u = { s with cores := u.cores, contexts := u.contexts } ∧ OtherCores s u
        ∧ u.me = { s.me with acct := Vector.replicate 36 0, flushed := s.cycle }
        ∧ ∃ y, mget t.record.ctx u.contexts = some y ∧ y.disc = x.disc
          ∧ ∀ (i : Nat) (hi : i < 16), y.acct.get ⟨i, hi⟩ = (x.acct.get ⟨i, hi⟩ + s.me.acct.get ⟨i, by omega⟩) % 2 ^ 48
            ∧ (2 ^ 48 ≤ x.acct.get ⟨i, hi⟩ + s.me.acct.get ⟨i, by omega⟩ → i ∈ y.ovfl))
    ∧ OnlyPmc .pmcReprogram { s.me.pmcs.get a with next := some (BitVec.ofNat 32 s.cur.num &&& 0xFFFF3FFF) }
    ∧ OnlyPmc .pmcClear { s.me.pmcs.get a with cnt := 0 } ∧ OnlyPmc .pmcOvfClear { s.me.pmcs.get a with ovf := false }

/-- R91, R317 to R322, R415: the triggers, EN, and the times of time records and samples; a record is made while EN is 1, and as its
cycle ends its 16 bytes take their place in the ring under the trace key, with its tag byte, unless EN is 0, four records stand in its cycle, its key is gone or its path has failed,
which count it lost; its line is tagged with the trace key.

Readings and choices of the model's own that it rests on: log 53 and log 85. -/
def Obligations.Tracing : Prop :=
  (∀ s : State, let d := s.cur.die
    let t := (s.die d).trace
    let Trigger (i : Instr) (t' : Trace) : Prop := exec i s = .next (s.onDie d fun x => { x with trace := t' })
    let quiet (i : Instr) : Prop := Completes i s fun u => u.tasks = s.tasks ∧ u.cores = s.cores ∧ u.contexts = s.contexts
      ∧ DiesBut d s u
    Trigger .traceGo { t with start := true } ∧ Trigger .traceHalt { t with stop := true }
      ∧ (s.cur.flag = true → Trigger .traceEnableWrite { t with en := true })
      ∧ (s.cur.flag = false → Trigger .traceEnableWrite { t with en := false, openW := false })
      ∧ ((t.openW = false ∨ s.cycle ≤ t.openedAt ∨ (s.cycle - t.openedAt) % 2 ^ 24 ≠ 0) →
          exec .traceTimeRecord s = .next s)
      ∧ (t.openW = true → t.openedAt < s.cycle → (s.cycle - t.openedAt) % 2 ^ 24 = 0 →
          exec .traceTimeRecord s = .next (putRecord d 0 (traceRecord 0 0 0 0 0 false 5 0 s.cycle (s.cycle / 2 ^ 32)) s))
      ∧ ((s.cur.a = 0 → t.openW = false ∨ t.sper = 0 ∨ s.cycle % t.sper ≠ 0) →
          (s.cur.a ≠ 0 → t.openW = false) → d = dieOf s.cur.core → exec .traceSample s = .next s)
      -- the sample of a breakpoint with ACT 3 is that of its sequencer, in its own cycle (R323)
      ∧ (∀ (q : Fin 4) r, s.cur.a = 1 + q.val → d = dieOf s.cur.core → t.openW = true → t.en = true → s.me.runs.get q = some r →
          admitted t.seqm.toNat t.fctx q r.ctx = true →
          Completes .traceSample s fun u => OnlyDie d s u ∧ ∃ b c, (u.die d).trace = { t with made := t.made ++ [(r.ctx,
            traceRecord r.ctx q.val r.cause.code.val r.sub s.cur.core.val false 6 r.last b c)] })
      ∧ quiet .traceTimeRecord ∧ (d = dieOf s.cur.core → quiet .traceSample))
  ∧ ∀ (s : State) (d : DieId) (ctx rec : Nat), let t := (s.die d).trace
    let i := t.wp % 2 ^ t.log
    let pa := t.base + 16 * i
    let conf : Prop := (mget ctx s.contexts).map (·.conf) = some true
    let u := writeRecord d ctx rec s
    (t.en = false → u = s ∧ putRecord d ctx rec s = s)
    ∧ (t.en = true → putRecord d ctx rec s = s.onDie d fun x => { x with trace := { t with made := t.made ++ [(ctx, rec)] } })
    -- records of one cycle: runs and samples by core, then sequencer; the others after them (R321)
    ∧ (∀ a b : Nat, recordPlace b < recordPlace a → insertRecord (0, a) [(0, b)] = [(0, b), (0, a)])
    ∧ (∀ c q why sub cont a b v, c < 2 ^ 9 → q < 4 → why < 16 → sub < 16 → ctx < 2 ^ 16 →
        recordPlace (traceRecord ctx q why sub c cont 0 a b v) = 4 * c + q
        ∧ recordPlace (traceRecord ctx q why sub c cont 6 a b v) = 4 * c + q
        ∧ recordPlace (traceRecord 0 0 0 0 0 false 1 0 b v) = 2048)
    ∧ (t.en = true → ¬ conf → s.mem.wf = true → t.key < 128 →
      let open' : Prop := t.inCycle < 4 ∧ ((s.keys[t.key]?).bind id).isSome = true ∧ s.linkFail d (t1 pa) = none
      (open' → rdNat u.mem (t1 pa) 16 = rec % 2 ^ 128 ∧ (u.die d).trace.wp = (t.wp + 1) % 2 ^ 32
        ∧ (u.die d).trace.loss = t.loss ∧ rdNat u.mem (t1 (t.base + 16 * 2 ^ t.log + i)) 1 = t.key
        ∧ mget (t1 pa / 64) u.lineKeys = some (t.key, s.keyOf t.key)
        ∧ ∀ b, (b < t1 pa ∨ t1 pa + 16 ≤ b) → b ≠ t1 (t.base + 16 * 2 ^ t.log + i) → rdByte u.mem b = rdByte s.mem b)
      ∧ (¬ open' → u.mem = s.mem ∧ (u.die d).trace.wp = t.wp
        ∧ (u.die d).trace.loss = Nat.min (t.loss + 1) (2 ^ 32 - 1)))

/-- R87, R174, R320, R323 to R326, R372: breakpoints act on the head that has just become the head of a sequencer; stops hold a
core where debugging is on, and are recorded once its engines are done, with the cut vector and the cycle; a resumed task goes on, and a
held fault goes on to its delivery; a dump marks the record; a clear frees the slot.

Readings and choices of the model's own that it rests on: log 54 and log 59. -/
def Obligations.DebugStops : Prop :=
  ∀ s : State, let c := s.cur.core
    let d := dieOf c
    let x := s.die d
    let slot : Fin 8 := Fin.ofNat 8 s.cur.a
    let stopped : Prop := ∃ src code bp, s.me.mode = .debug src code bp
    -- DBGCMD holds the command that was written last (R324)
    let noted (op : Nat) : State := s.onDie d fun y => { y with dbgcmd := BitVec.ofNat 64 (c.val + op * 2 ^ 9) }
    -- why the task was leaving its core as it stops
    let from' : Option Leave := match s.me.mode with
      | .drain why => some why
      | _ => none
    let Stopped (src bp : Nat) (k : Core) : Core :=
      { k with mode := .debug src 0 bp, stopAt := some s.cycle, stopGo := false, stopFrom := from' }
    let goes : Prop := s.me.mode = .run ∨ ∃ why, s.me.mode = .drain why
    let back : Mode := (s.me.stopFrom.map Mode.drain).getD .run
    -- a task beneath that the debugger holds goes on as well (R372)
    let holds := s.me.endHolds.map fun h => (h.1, h.2.1, if h.2.2 = 0 ∨ h.2.2 = 10 then 10 else 9)
    (((¬ goes ∧ ∀ till r, s.me.mode ≠ .load till r) ∨ s.debugOn d s.myCtxN = false) → exec .dbgcmdStop s = .next (noted 1))
    ∧ (goes → s.debugOn d s.myCtxN = true → Completes .dbgcmdStop s fun u => OnlyMyCore (noted 1) u ∧ u.me = Stopped 2 0 s.me)
    ∧ (∀ till r, s.me.mode = .load till r → s.debugOn d s.myCtxN = true →
        exec .dbgcmdStop s = .next { noted 1 with inputs := s.inputs ++ [(till, s.cur)] })
    ∧ (¬ stopped → exec .dbgcmdDump s = .next (noted 3)
        ∧ (s.me.endHolds = [] → exec .dbgcmdResume s = .next (noted 2) ∧ exec .debugCut s = .next s))
    ∧ (stopped → Completes .dbgcmdResume s fun u => OtherCores s u ∧ u.mem = s.mem ∧ u.tasks = s.tasks
      ∧ (∀ cyc, s.me.stopAt = some cyc → u.me = { s.me with stopGo := true, endHolds := holds } ∧ (u.die d).stopsOf = x.stopsOf)
      ∧ (s.me.stopAt = none → (∀ j, (u.die d).stopsOf.get j ≠ some c)
        ∧ (s.me.faults = [] → u.me = { s.me with mode := back, stopGo := false, stopFrom := none, endHolds := holds })
        ∧ (s.me.faults ≠ [] →
            u.me = { s.me with mode := .fault, resumed := true, stopGo := false, stopFrom := none, endHolds := holds })))
    ∧ (∀ tid, stopped → s.me.task = some tid →
      let z := saveTask c tid false (noted 3)
      (z.1 = none → exec .dbgcmdDump s = .next (noted 3))
      ∧ ∀ b, z.1 = some b → Completes .dbgcmdDump s fun u => u.cores = s.cores
        ∧ (∀ v, mget tid s.tasks = some v → ∃ ss, OneTask s u tid { v with regRun := false, stops := ss })
        ∧ u.mem = z.2.mem
        ∧ ∀ j, (u.die d).stops.get j = if x.stopsOf.get j = some c
            then ⟨(x.stops.get j).bits ||| BitVec.ofNat 256 (2 ^ 46), (x.stops.get j).high⟩ else x.stops.get j)
    ∧ (∀ src code bp tid t, s.me.mode = .debug src code bp → s.Runs tid t → s.me.endHolds = [] →
      let waits : Prop := s.me.startedDone tid = false ∨ s.me.settled = false ∨ (src ≠ 3 ∧ (s.me.seq .ctl).delay ≠ none)
      ((waits ∨ s.me.stopAt = none ∨ ∀ j : Fin 8, x.stopv.getLsbD j.val = true) → exec .debugCut s = .next s)
      ∧ ∀ (j : Fin 8) (cyc : Nat), ¬ waits → s.me.stopAt = some cyc → x.stopv.getLsbD j.val = false →
        (∀ k : Fin 8, k < j → x.stopv.getLsbD k.val = true) → src < 4 → bp < 8 → t.record.ctx < 2 ^ 16 → s.me.under = [] →
        Completes .debugCut s fun u => u = { s with dies := u.dies, cores := u.cores } ∧ DiesBut d s u ∧ OtherCores s u
          ∧ (u.die d).stopv.getLsbD j.val = true
          ∧ (∀ k : Fin 8, k ≠ j → (u.die d).stopv.getLsbD k.val = x.stopv.getLsbD k.val)
          ∧ (let r := ((u.die d).stops.get j).bits.toNat + ((u.die d).stops.get j).high.toNat * 2 ^ 256
            fld r 0 16 = t.record.ctx ∧ fld r 16 16 = code % 2 ^ 16 ∧ fld r 32 9 = c.val ∧ fld r 41 2 = src
              ∧ fld r 43 3 = bp ∧ bitAt r 46 = false ∧ fld r 64 24 = t.record.team % 2 ^ 24
              ∧ (∀ i : Fin 4, fld r (128 + 32 * i.val) 32 = (s.me.seqs.get i).pos % 2 ^ 32)
              ∧ fld r 320 64 = cyc % 2 ^ 64 ∧ fld r 47 3 = if s.me.stopGo = true then 1 else 0)
          ∧ (s.me.stopGo = false → u.me = { s.me with stopAt := none } ∧ (u.die d).stopsOf.get j = some c
              ∧ ∀ k : Fin 8, k ≠ j → (u.die d).stops.get k = x.stops.get k)
          -- a resume that came before the record lets the task go on as the record is placed (R326)
          ∧ (s.me.stopGo = true → s.me.faults = [] →
              u.me = { s.me with mode := back, stopAt := none, stopGo := false, stopFrom := none }))
    ∧ (Completes .stopvClear s fun u => OnlyDie s.cur.die s u ∧ (u.die s.cur.die).stopv.getLsbD slot.val = false
        ∧ (u.die s.cur.die).stopsOf = (s.die s.cur.die).stopsOf
        ∧ ∀ k : Fin 8, k ≠ slot → (u.die s.cur.die).stopv.getLsbD k.val = (s.die s.cur.die).stopv.getLsbD k.val)
    ∧ (∀ tid t, s.Runs tid t →
      let At (q : Fin 4) (b : Dword) : Prop := bitAt b.toNat 0 = true ∧ fld b.toNat 1 2 = q.val
        ∧ (fld b.toNat 16 16 = 0 ∨ fld b.toNat 16 16 = t.record.ctx) ∧ (s.me.seqs.get q).isNew = true
        ∧ (s.me.seqs.get q).stopped = false ∧ (s.me.seqs.get q).pos = fld b.toNat 32 32
      let heads : Prop := goes ∨ s.me.stopping = true ∨ (s.me.mode = .fault ∧ s.me.faultAt = some s.cycle)
      ((¬ heads ∨ ∀ i q, ¬ At q (x.bps.get i)) → exec .breakpointHit s = .next s)
      ∧ ∀ i q, heads → At q (x.bps.get i) → (∀ k, k ≠ i → ∀ p, ¬ At p (x.bps.get k)) →
        let act := fld (x.bps.get i).toNat 3 2
        (act = 0 → goes → s.debugOn d t.record.ctx = true → Completes .breakpointHit s fun u => OnlyMyCore s u
          ∧ u.me = { Stopped 1 i.val s.me with seqs := u.me.seqs } ∧ OnlySeq .ctl s.me u.me
          ∧ u.me.seq .ctl = { s.me.seq .ctl with hold := Nat.max (s.me.seq .ctl).hold (s.cycle + 1) })
        ∧ (act = 0 → (¬ goes ∨ s.debugOn d t.record.ctx = false) → exec .breakpointHit s = .next s)
        ∧ (act = 1 → exec .breakpointHit s = .next (s.onDie d fun y => { y with trace := { y.trace with start := true } }))
        ∧ (act = 2 → exec .breakpointHit s = .next (s.onDie d fun y => { y with trace := { y.trace with stop := true } }))
        -- the sample of ACT 3 is taken once the cycle's charge is made
        ∧ (act = 3 → exec .breakpointHit s = .next { s with agenda := s.agenda ++
            [{ Turn.blank with instr := .traceSample, core := c, die := d, a := 1 + q.val }] }))

/-! ## Encodings, steps, cycles, reset and memory (R3, R7, R13, R29, R145, R151 to R165, R307, R309, R361, R362) -/

/-- R151 to R165, R219, R243, R276: the word of every well-formed instruction, with every operand at every value, decodes to that instruction, and has
the length of its kind; a word that LD and ST share decodes in both; and a word that decodes is the word of its instruction. MCLR
keeps no operand but has its own word.

Readings and choices of the model's own that it rests on: log 15. -/
def Obligations.Encoding : Prop :=
  let bits : WordKind → Nat
    | .ctl => 32
    | .ld | .st | .vec => 96
    | .mat => 192
  (∀ (i : Instr) (k : WordKind) (w : Nat), i.wf = true → encode i = some (k, w) → decodeWord k w = .ok i ∧ w < 2 ^ bits k)
  ∧ (∀ (i : Instr) (w : Nat), i.wf = true → encode i = some (.ld, w) → (∀ x, i ≠ .bcopy x) → (∀ g h o n, i ≠ .pref g h o n) →
      (∀ x h, i ≠ .gather x h) → decodeWord .st w = .ok i)
  ∧ (∀ (k : WordKind) (w : Nat) (i : Instr), w < 2 ^ bits k → decodeWord k w = .ok i → i ≠ .mclr →
      i.wf = true ∧ ∃ k', encode i = some (k', w))
  ∧ ∀ (g : Option Guard) (ct : BitVec 12),
    decodeWord .mat (0x08 * 2 ^ 184 + packGuard g * 2 ^ 179 + ct.toNat * 2 ^ 109 + 2 ^ 96 + 2) = .ok .mclr

/-- R154 to R165: the worked words of the encodings chapter, and others written out from its tables, decode to the instructions
that they stand for. -/
def Obligations.DecodeWords : Prop :=
  decodeTableWord 32 0x0430420F = some (.divn 3 1 2)
    ∧ decodeTableWord 32 0x08204003 = some (.addi 2 1 3)
    ∧ decodeTableWord 32 0x30100005 = some (.li 1 5)
    ∧ decodeTableWord 32 0x3C106432 = some (.cmpiGtn 1 1 50)
    ∧ decodeTableWord 32 0x48410C02 = some (.ldW 4 2 6 2)
    ∧ decodeTableWord 32 0x60518E13 = some (.aaddW ⟨5, 3, 7, .rel, .pkg⟩)
    ∧ decodeTableWord 32 0x70800008 = some (.pt 1 8)
    ∧ decodeTableWord 32 0x789C0000 = some (.brNot 1 3)
    ∧ decodeTableWord 32 0x94000000 = some (.tsig 0)
    ∧ decodeTableWord 32 0xB0800000 = some .endT
    ∧ decodeTableWord 96 0x010424000000100000000000 = some (.copy ⟨none, some 1, 4, 0, 2, 0, 0⟩)
    ∧ decodeTableWord 96 0x04000500000010000000C008 = some (.gather ⟨none, none, 5, 0, 2, 0, 2⟩ 3)
    ∧ decodeTableWord 96 0xF00000000000000004000000 = some (.loops 4)
    ∧ decodeTableWord 96 0x01020040000C400007880014 = some (.vfma ⟨.f32, none, none, .main 12, .file 3, .stream 2 5⟩)
    ∧ decodeTableWord 96 0x116000000003000004000000 = some (.voteAny none none 3 2)
    ∧ decodeTableWord 192 (0x010040000004000000020401 * 2 ^ 96 + 0x000001000000000000000002)
      = some (.mma ⟨none, 1, 0, 2, 0, 16, 256, 0, 0, 0, 0, .add, false, false, false⟩)

/-- R7, R105, R145, R171, R181, R307, R362: a step with an empty agenda passes a cycle; a turn that is an event's or a started
command's is exec of its instruction; an act that waits for the stores before it has its effect, with the operands of its issue,
when they are done; and where the word at the head of the turn's sequencer decodes to an instruction that nothing holds
back, a step is exec of that instruction, followed by the one charge of its slot.

Readings and choices of the model's own that it rests on: log 1. -/
def Obligations.StepRunsDecoded : Prop :=
  (∀ s : State, s.agenda = [] → step s = .next (nextCycle s))
  ∧ (∀ (s : State) (t : Turn) (rest : List Turn), s.agenda = t :: rest → (t.kind = .act ∨ t.kind = .perform) →
    step s = exec t.instr { s with cur := t, agenda := rest })
  -- before an event that may stop a core, a halving that waits, or the delivery of a fault of this cycle, the heads of its streams
  -- raise their faults; the halving then starts, unless one of them wins over it (R371, R376, R409)
  ∧ (∀ (s : State) (t : Turn) (rest : List Turn), s.agenda = t :: rest → t.kind = .heads →
    let v : State := { s with cur := t, agenda := rest }
    let w := settleHalving ((v.me.acts (t.a == 2)).foldl tryHead v)
    step s = .next (if t.a ≠ 0 ∧ (v.me.faultsNow s.cycle = true ∨ ((t.flag = true ∨ v.me.halving ≠ none) ∧ v.me.goes = true)) then
      if t.b = 1 then halveFirst w else w else v))
  ∧ (∀ (s : State) (t : Turn) (rest : List Turn) (act : Late) (since : Nat), s.agenda = t :: rest → t.kind = .issue →
    let q := (s.core t.core).seq t.seq
    let v := settleHead { s with cur := t, agenda := rest }
    (s.core t.core).mode = .run → q.stopped = false → q.acting = some (.stores act since) →
    (v.storesBefore since = true → step s = .next (chargeSlot v.me q.pos (.rest (waitCause act)) (withPeers v.peers v (stall (waitCause act) 0 v))))
    ∧ (v.storesBefore since = false → step s = .next (chargeSlot v.me q.pos (.late act) (withPeers v.peers v (lateEffect act
        (stall (waitCause act) 0 (v.onMe fun k => k.onSeq t.seq fun x => { x with acting := none })))))))
  ∧ ∀ (s : State) (t : Turn) (rest : List Turn) (i : Instr) (p : Nat), s.agenda = t :: rest → t.kind = .issue →
    let k := s.core t.core
    let q := k.seq t.seq
    let v := settleHead { s with cur := t, agenda := rest }
    k.mode = .run → q.stopped = false → q.acting = none → q.hold ≤ s.cycle → q.target ≤ s.cycle → q.pos = p → (q.delay = none ∨ isTransfer i = false) →
    v.unfetched = false → v.me.interlocked i = false →
    let Runs (w n : Nat) : Prop := step s = onNext (exec i { v with cur := { t with instr := i, word := w, why := .issue, sub := 0 } })
      fun u => chargeSlot v.me p (.issue i w n) (withPeers v.peers v u)
    (∀ w, t.seq = .ctl → k.plane.ctl[p]? = some w → decodeWord .ctl w.toNat = .ok i → Runs w.toNat 1)
    ∧ (∀ w, t.seq = .ld → k.plane.ld[p]? = some w → decodeWord .ld w.toNat = .ok i → Runs w.toNat 1)
    ∧ (∀ w, t.seq = .st → k.plane.st[p]? = some w → decodeWord .st w.toNat = .ok i → Runs w.toNat 1)
    ∧ (∀ w, t.seq = .cmp → k.plane.cmp[p]? = some w → fld w.toNat 0 2 = 0 → decodeWord .vec w.toNat = .ok i → Runs w.toNat 1)
    ∧ ∀ w w', t.seq = .cmp → k.plane.cmp[p]? = some w → k.plane.cmp[p + 1]? = some w' → fld w.toNat 0 2 = 1 →
      decodeWord .mat (w.toNat * 2 ^ 96 + w'.toNat) = .ok i → Runs (w.toNat * 2 ^ 96 + w'.toNat) 2

/-- R13, R186, R307, R309, R311, R312, R361, R362, R366, R421: CYCLE rises by 1 with each cycle. A head that does not decode, or lies beyond its section, raises
ILLEGAL or RESERVED at its position, and so does a transfer in a delay slot (R186). A charge adds 1 to one of its core's sixteen cause counters and to no other: that of the slot's own cause, or, in the cycle in
which the core's task is halved, discarded or delivers its fault, that of what took it (R309, R372). -/
def Obligations.CyclesAndCharges : Prop :=
  (∀ s : State, (nextCycle s).cycle = s.cycle + 1)
  ∧ (∀ (s : State) (t : Turn) (rest : List Turn), s.agenda = t :: rest → t.kind = .issue → t.seq = .ctl →
    let k := s.core t.core
    let q := k.seq .ctl
    let v := settleHead { s with cur := t, agenda := rest }
    k.mode = .run → q.stopped = false → q.acting = none → q.hold ≤ s.cycle → q.target ≤ s.cycle → v.unfetched = false → v.peers = [] →
    let Faults (c i j : Nat) : Prop := step s = .next (chargeSlot v.me q.pos (.fault c i j)
      (raiseOn t.core ⟨c, .ctl, 15, q.pos, 0, i, j, true⟩ v))
    (k.plane.ctl.length ≤ q.pos → Faults 0x01 0 0)
    ∧ ∀ w, k.plane.ctl[q.pos]? = some w →
      (decodeWord .ctl w.toNat = .illegal → Faults 0x01 w.toNat 0)
      ∧ (∀ b, decodeWord .ctl w.toNat = .reserved b → Faults 0x02 w.toNat b)
      ∧ ∀ i, decodeWord .ctl w.toNat = .ok i → isTransfer i = true → q.delay ≠ none → Faults 0x01 w.toNat 0)
  ∧ (∀ (s : State) (c : CoreId) (q : Fin 4) (why : Cause) (sub pos nxt : Nat), (s.core c).owed = none →
    let u := charge c q why sub pos nxt s
    CoresBut c s u ∧ (u.core c).counters.get why.code = ((s.core c).counters.get why.code + 1) % 2 ^ 48
      ∧ ∀ j, j ≠ why.code → (u.core c).counters.get j = (s.core c).counters.get j)
  ∧ ∀ (s : State) (c : CoreId) (q : Fin 4) (why own : Cause) (sub pos nxt n ctx : Nat) (ps : Vector Nat 4) (disc : Bool),
    (s.core c).owed = some (n, ctx, own, ps, disc) →
    let u := charge c q why sub pos nxt s
    CoresBut c s u ∧ (u.core c).counters.get own.code = ((s.core c).counters.get own.code + 1) % 2 ^ 48
      ∧ ∀ j, j ≠ own.code → (u.core c).counters.get j = (s.core c).counters.get j

/-- R12, R22, R74, R287, R300, R309, R311, R314, R315, R317, R323, R326, R355, R358, R359: the values that the spec gives for reset.

Readings and choices of the model's own that it rests on: log 13. -/
def Obligations.ResetValues : Prop :=
  let s := State.reset
  s.cycle = 0 ∧ s.contexts = [] ∧ s.tasks = [] ∧ s.teams = [] ∧ s.gating = 15 ∧ s.plim.toNat = 3000 + 1000 * 2 ^ 16 + 3000 * 2 ^ 32
    ∧ s.plimNow = s.plim ∧ s.vfmap = Vector.replicate 64 0 ∧ s.keys.get 0 = some Config.deviceKey
    ∧ (∀ j : Fin 128, j ≠ 0 → s.keys.get j = none) ∧ s.keyBusy = false ∧ s.pkgSet = false ∧ s.mem.wf = true
    ∧ (∀ c, (s.core c).task = none ∧ (s.core c).mode = .idle ∧ (s.core c).counters = Vector.replicate 16 0
      ∧ ∀ j, (s.core c).pmcs.get j = ⟨0, none, 0, false⟩)
    ∧ ∀ d, (s.die d).nslot = 256 ∧ (s.die d).idle = 100 ∧ (s.die d).migt = 32 ∧ (s.die d).t0sl = 4 ∧ (s.die d).journal = []
      ∧ (s.die d).jseq = 0 ∧ (s.die d).trace.en = false ∧ (s.die d).trace.log = 12 ∧ (s.die d).trace.wp = 0
      ∧ (s.die d).stopv = 0 ∧ (∀ j, (s.die d).bps.get j = 0) ∧ ∀ j, ((s.die d).slots.get j).state = 0

/-- R3, R16: memory in its canonical form is the bytes that it holds: two memories that read alike at every address are equal. A
written byte reads back, every other byte as before, and the form is kept; a number of n bytes reads back modulo 2^(8n).

Readings and choices of the model's own that it rests on: log 3. -/
def Obligations.CanonicalMemory : Prop :=
  ∀ m : Memory, m.wf = true →
    (∀ m' : Memory, m'.wf = true → (∀ a, rdByte m a = rdByte m' a) → m = m')
    ∧ (∀ a v, (wrByte m a v).wf = true ∧ rdByte (wrByte m a v) a = v ∧ ∀ b, b ≠ a → rdByte (wrByte m a v) b = rdByte m b)
    ∧ ∀ a n v, (wrNat m a n v).wf = true ∧ rdNat (wrNat m a n v) a n = v % 2 ^ (8 * n)
      ∧ ∀ b, (b < a ∨ a + n ≤ b) → rdByte (wrNat m a n v) b = rdByte m b

/-- R3, R16, R356, R359: whatever state a step starts from, it keeps memory in its canonical form and D from 0 to 15, and it never
lowers the fused rollback number.

Readings and choices of the model's own that it rests on: log 3 and log 13. -/
def Obligations.EveryStep : Prop :=
  ∀ s t : State, step s = .next t → s.mem.wf = true → s.gating ≤ 15 →
    t.mem.wf = true ∧ t.gating ≤ 15 ∧ s.rbcnt.toNat ≤ t.rbcnt.toNat

end
end

