-- ==== Sys2Proof/Laws/Memory.lean ====
section
/-! SUPPORT. Maps and memory: reading after writing, and the canonical form that every memory operation keeps. -/

namespace Sys2Proof.Machine

/-! ## Maps with rising keys -/

variable {α : Type}

theorem risingFrom_mono {m : SMap α} {a b : Nat} (h : a ≤ b) (hb : risingFrom b m = true) : risingFrom a m = true := by
  cases m with
  | nil => rfl
  | cons c t => simp only [risingFrom, Bool.and_eq_true, decide_eq_true_eq] at *; exact ⟨by omega, hb.2⟩

theorem mget_below {m : SMap α} {k b : Nat} (h : k < b) (hb : risingFrom b m = true) : mget k m = none := by
  cases m with
  | nil => rfl
  | cons c t =>
    simp only [risingFrom, Bool.and_eq_true, decide_eq_true_eq] at hb
    simp only [mget]; rw [if_pos (by omega)]

/-- A map reads what was put. -/
@[simp] theorem mget_mput_self (k : Nat) (v : α) (m : SMap α) : mget k (mput k v m) = some v := by
  induction m with
  | nil => simp [mput, mget]
  | cons c t ih =>
    simp only [mput]
    split
    · simp [mget]
    · split
      · simp [mget]
      · simp only [mget]; rw [if_neg (by omega), if_neg (by omega), ih]

/-- A put leaves every other key alone. -/
theorem mget_mput_ne {j k : Nat} (h : j ≠ k) (v : α) (m : SMap α) : mget j (mput k v m) = mget j m := by
  induction m with
  | nil => simp [mput, mget, h]
  | cons c t ih =>
    simp only [mput]
    split
    · simp only [mget]
      by_cases h1 : j < k
      · rw [if_pos h1, if_pos (by omega)]
      · rw [if_neg h1, if_neg h]
    · split
      · rename_i h2
        simp only [mget]
        by_cases h1 : j < k
        · rw [if_pos h1, if_pos (by omega)]
        · rw [if_neg h1, if_neg h, if_neg (by omega), if_neg (by omega)]
      · simp only [mget, ih]

theorem mput_rising {m : SMap α} {b k : Nat} (hk : b ≤ k) (v : α) (h : risingFrom b m = true) :
    risingFrom b (mput k v m) = true := by
  induction m generalizing b with
  | nil => simp [mput, risingFrom, hk]
  | cons c t ih =>
    simp only [risingFrom, Bool.and_eq_true, decide_eq_true_eq] at h
    simp only [mput]
    split
    · simp only [risingFrom, Bool.and_eq_true, decide_eq_true_eq]; exact ⟨hk, by omega, h.2⟩
    · split
      · rename_i h1
        simp only [risingFrom, Bool.and_eq_true, decide_eq_true_eq]; exact ⟨hk, h1 ▸ h.2⟩
      · simp only [risingFrom, Bool.and_eq_true, decide_eq_true_eq]; exact ⟨h.1, ih (by omega) h.2⟩

theorem mdel_rising {m : SMap α} {b : Nat} (k : Nat) (h : risingFrom b m = true) : risingFrom b (mdel k m) = true := by
  induction m generalizing b with
  | nil => exact h
  | cons c t ih =>
    have h' := h
    simp only [risingFrom, Bool.and_eq_true, decide_eq_true_eq] at h
    simp only [mdel]
    split
    · exact h'
    · split
      · exact risingFrom_mono (by omega) h.2
      · simp only [risingFrom, Bool.and_eq_true, decide_eq_true_eq]; exact ⟨h.1, ih h.2⟩

theorem mget_mdel_self {m : SMap α} {b : Nat} (k : Nat) (h : risingFrom b m = true) : mget k (mdel k m) = none := by
  induction m generalizing b with
  | nil => rfl
  | cons c t ih =>
    simp only [risingFrom, Bool.and_eq_true, decide_eq_true_eq] at h
    simp only [mdel]
    split
    · rename_i h1; simp only [mget]; rw [if_pos h1]
    · split
      · exact mget_below (by omega) h.2
      · simp only [mget]; rw [if_neg (by omega), if_neg (by omega)]; exact ih h.2

theorem mget_mdel_ne {m : SMap α} {b j k : Nat} (hne : j ≠ k) (h : risingFrom b m = true) :
    mget j (mdel k m) = mget j m := by
  induction m generalizing b with
  | nil => rfl
  | cons c t ih =>
    simp only [risingFrom, Bool.and_eq_true, decide_eq_true_eq] at h
    simp only [mdel]
    split
    · rfl
    · split
      · rename_i h1 h2
        simp only [mget]
        by_cases h3 : j < c.1
        · rw [if_pos h3]; exact mget_below (by omega) h.2
        · rw [if_neg h3, if_neg (by omega)]
      · simp only [mget, ih h.2]

theorem mput_all {p : Nat × α → Bool} {m : SMap α} {k : Nat} {v : α} (hv : p (k, v) = true) (h : m.all p = true) :
    (mput k v m).all p = true := by
  induction m with
  | nil => simp [mput, hv]
  | cons c t ih =>
    simp only [List.all_cons, Bool.and_eq_true] at h
    simp only [mput]
    split
    · simp [hv, h.1, h.2]
    · split
      · simp [hv, h.2]
      · simp [h.1, ih h.2]

theorem mdel_all {p : Nat × α → Bool} {m : SMap α} {k : Nat} (h : m.all p = true) : (mdel k m).all p = true := by
  induction m with
  | nil => rfl
  | cons c t ih =>
    simp only [List.all_cons, Bool.and_eq_true] at h
    simp only [mdel]
    split
    · simp [h.1, h.2]
    · split
      · exact h.2
      · simp [h.1, ih h.2]

/-! ## Memory -/

theorem Memory.wf_rising {m : Memory} (h : m.wf = true) : risingFrom 0 m = true := by
  simp only [Memory.wf, Bool.and_eq_true] at h; exact h.1

@[simp] theorem Memory.wf_nil : Memory.wf [] = true := rfl

/-- Writing a byte keeps the canonical form. -/
theorem wrByte_wf {m : Memory} (h : m.wf = true) (a : Nat) (v : Byte) : (wrByte m a v).wf = true := by
  simp only [Memory.wf, Bool.and_eq_true] at *
  simp only [wrByte]
  split
  · exact ⟨mdel_rising a h.1, mdel_all h.2⟩
  · rename_i hv
    exact ⟨mput_rising (by omega) v h.1, mput_all (by simpa using hv) h.2⟩

/-- A read after a write of the same byte. -/
theorem rdByte_wrByte_self {m : Memory} (h : m.wf = true) (a : Nat) (v : Byte) : rdByte (wrByte m a v) a = v := by
  simp only [rdByte, wrByte]
  split
  · rename_i hv; rw [mget_mdel_self a (Memory.wf_rising h)]; exact hv.symm
  · simp

/-- A write leaves every other byte alone. -/
theorem rdByte_wrByte_ne {m : Memory} (h : m.wf = true) {a b : Nat} (hne : b ≠ a) (v : Byte) :
    rdByte (wrByte m a v) b = rdByte m b := by
  simp only [rdByte, wrByte]
  split
  · rw [mget_mdel_ne hne (Memory.wf_rising h)]
  · rw [mget_mput_ne hne]

theorem wrBytes_wf {m : Memory} (h : m.wf = true) (a : Nat) (bs : List Byte) : (wrBytes m a bs).wf = true := by
  induction bs generalizing m a with
  | nil => exact h
  | cons b t ih => exact ih (wrByte_wf h a b) (a + 1)

theorem wrNat_wf {m : Memory} (h : m.wf = true) (a n v : Nat) : (wrNat m a n v).wf = true := wrBytes_wf h a _

theorem wrCells_wf {m : Memory} (h : m.wf = true) (cs : Cells) : (wrCells m cs).wf = true := by
  induction cs generalizing m with
  | nil => exact h
  | cons c t ih => exact ih (wrByte_wf h c.1 c.2)

/-- Bytes written leave every byte outside them alone. -/
theorem rdByte_wrBytes_out {m : Memory} (h : m.wf = true) (a : Nat) (bs : List Byte) (b : Nat)
    (hb : b < a ∨ a + bs.length ≤ b) : rdByte (wrBytes m a bs) b = rdByte m b := by
  induction bs generalizing m a with
  | nil => rfl
  | cons c t ih =>
    simp only [List.length_cons] at hb
    simp only [wrBytes]
    rw [ih (wrByte_wf h a c) (a + 1) (by omega), rdByte_wrByte_ne h (by omega)]

/-- The bytes written are read. -/
theorem rdBytes_wrBytes {m : Memory} (h : m.wf = true) (a : Nat) (bs : List Byte) :
    rdBytes (wrBytes m a bs) a bs.length = bs := by
  induction bs generalizing m a with
  | nil => rfl
  | cons c t ih =>
    simp only [wrBytes, List.length_cons, rdBytes]
    rw [ih (wrByte_wf h a c), rdByte_wrBytes_out (wrByte_wf h a c) (a + 1) t a (by omega), rdByte_wrByte_self h]

@[simp] theorem leBytes_length (n v : Nat) : (leBytes n v).length = n := by
  induction n generalizing v with
  | zero => rfl
  | succ n ih => simp [leBytes, ih]

/-- A number written leaves every byte outside its `n` bytes alone. -/
theorem rdByte_wrNat_out {m : Memory} (h : m.wf = true) (a n v b : Nat) (hb : b < a ∨ a + n ≤ b) :
    rdByte (wrNat m a n v) b = rdByte m b :=
  rdByte_wrBytes_out h a _ b (by simpa using hb)

theorem leNat_leBytes (n v : Nat) : leNat (leBytes n v) = v % 256 ^ n := by
  induction n generalizing v with
  | zero => simp [leBytes, leNat, Nat.mod_one]
  | succ n ih =>
    simp only [leBytes, leNat, ih, BitVec.toNat_ofNat]
    rw [show 256 ^ (n + 1) = 256 * 256 ^ n by rw [Nat.pow_succ, Nat.mul_comm], Nat.mod_mul]

/-- The number written is read. -/
theorem rdNat_wrNat {m : Memory} (h : m.wf = true) (a n v : Nat) : rdNat (wrNat m a n v) a n = v % 256 ^ n := by
  have := rdBytes_wrBytes h a (leBytes n v)
  rw [leBytes_length] at this
  rw [rdNat, wrNat, this, leNat_leBytes]

theorem rdBytes_congr {m k : Memory} {a n : Nat} (h : ∀ i, a ≤ i → i < a + n → rdByte k i = rdByte m i) :
    rdBytes k a n = rdBytes m a n := by
  induction n generalizing a with
  | zero => rfl
  | succ n ih =>
    simp only [rdBytes]
    rw [h a (by omega) (by omega), ih (fun i h1 h2 => h i (by omega) (by omega))]

/-- A number elsewhere is read as before. -/
theorem rdNat_wrNat_out {m : Memory} (h : m.wf = true) (a n v b k : Nat) (hb : b + k ≤ a ∨ a + n ≤ b) :
    rdNat (wrNat m a n v) b k = rdNat m b k := by
  rw [rdNat, rdNat, rdBytes_congr (fun i h1 h2 => rdByte_wrNat_out h a n v i (by omega))]

theorem leNat_lt (bs : List Byte) : leNat bs < 256 ^ bs.length := by
  induction bs with
  | nil => simp [leNat]
  | cons b t ih =>
    have := b.isLt
    simp only [leNat, List.length_cons, Nat.pow_succ]
    omega

@[simp] theorem rdBytes_length (m : Memory) (a n : Nat) : (rdBytes m a n).length = n := by
  induction n generalizing a with
  | zero => rfl
  | succ n ih => simp [rdBytes, ih]

theorem rdNat_lt (m : Memory) (a n : Nat) : rdNat m a n < 256 ^ n := by
  have := leNat_lt (rdBytes m a n)
  rwa [rdBytes_length] at this

theorem filter_rising {m : SMap α} {b : Nat} (p : Nat × α → Bool) (h : risingFrom b m = true) :
    risingFrom b (m.filter p) = true := by
  induction m generalizing b with
  | nil => exact h
  | cons c t ih =>
    simp only [risingFrom, Bool.and_eq_true, decide_eq_true_eq] at h
    rw [List.filter_cons]
    split
    · simp only [risingFrom, Bool.and_eq_true, decide_eq_true_eq]; exact ⟨h.1, ih h.2⟩
    · exact risingFrom_mono (by omega) (ih h.2)

/-- Striking off cells keeps the canonical form. -/
theorem filter_wf {m : Memory} (p : Host.Cell → Bool) (h : m.wf = true) : Memory.wf (m.filter p) = true := by
  simp only [Memory.wf, Bool.and_eq_true] at *
  refine ⟨filter_rising p h.1, List.all_eq_true.2 fun c hc => List.all_eq_true.1 h.2 c (List.mem_filter.1 hc).1⟩

/-- A cell that is struck off by its key reads 0, and every other as before. -/
theorem rdByte_filter {m : Memory} (h : m.wf = true) (p : Nat → Bool) (a : Nat) :
    rdByte (m.filter fun c => p c.1) a = if p a then rdByte m a else 0 := by
  have key (b : Nat) (m : Memory) (hb : risingFrom b m = true) :
      mget a (m.filter fun c => p c.1) = if p a then mget a m else none := by
    induction m generalizing b with
    | nil => simp [mget]
    | cons c t ih =>
      obtain ⟨j, v⟩ := c
      simp only [risingFrom, Bool.and_eq_true, decide_eq_true_eq] at hb
      have hf := filter_rising (fun c : Nat × Byte => p c.1) hb.2
      rw [List.filter_cons]
      by_cases hlt : a < j
      · rw [show mget a ((j, v) :: t) = none by simp [mget, hlt]]
        split
        · simp [mget, hlt]
        · rw [mget_below (by omega) hf]; simp
      · by_cases he : a = j
        · subst he
          by_cases hp : p a = true
          · simp [hp, mget]
          · simp [hp, mget_below (show a < a + 1 by omega) hf]
        · by_cases hp : p j = true <;> simp [hp, mget, hlt, he, ih _ hb.2]
  simp only [rdByte, key 0 m (Memory.wf_rising h)]
  split <;> rfl

end Sys2Proof.Machine
end

