-- ==== Sys2Proof/Laws/State.lean ====
section
/-! SUPPORT. What each update of the state leaves and what it writes: one lemma per field per update. -/

namespace Sys2Proof.Machine

variable (s : State)

/-! ## putCore -/

@[simp] theorem State.putCore_cycle (c : CoreId) (k : Core) : (s.putCore c k).cycle = s.cycle := rfl
@[simp] theorem State.putCore_agenda (c : CoreId) (k : Core) : (s.putCore c k).agenda = s.agenda := rfl
@[simp] theorem State.putCore_cur (c : CoreId) (k : Core) : (s.putCore c k).cur = s.cur := rfl
@[simp] theorem State.putCore_inputs (c : CoreId) (k : Core) : (s.putCore c k).inputs = s.inputs := rfl
@[simp] theorem State.putCore_free (c : CoreId) (k : Core) : (s.putCore c k).free = s.free := rfl
@[simp] theorem State.putCore_mem (c : CoreId) (k : Core) : (s.putCore c k).mem = s.mem := rfl
@[simp] theorem State.putCore_poisoned (c : CoreId) (k : Core) : (s.putCore c k).poisoned = s.poisoned := rfl
@[simp] theorem State.putCore_failing (c : CoreId) (k : Core) : (s.putCore c k).failing = s.failing := rfl
@[simp] theorem State.putCore_checks (c : CoreId) (k : Core) : (s.putCore c k).checks = s.checks := rfl
@[simp] theorem State.putCore_scrubbed (c : CoreId) (k : Core) : (s.putCore c k).scrubbed = s.scrubbed := rfl
@[simp] theorem State.putCore_lineKeys (c : CoreId) (k : Core) : (s.putCore c k).lineKeys = s.lineKeys := rfl
@[simp] theorem State.putCore_behind (c : CoreId) (k : Core) : (s.putCore c k).behind = s.behind := rfl
@[simp] theorem State.putCore_policy (c : CoreId) (k : Core) : (s.putCore c k).policy = s.policy := rfl
@[simp] theorem State.putCore_flaws (c : CoreId) (k : Core) : (s.putCore c k).flaws = s.flaws := rfl
@[simp] theorem State.putCore_clusters (c : CoreId) (k : Core) : (s.putCore c k).clusters = s.clusters := rfl
@[simp] theorem State.putCore_dies (c : CoreId) (k : Core) : (s.putCore c k).dies = s.dies := rfl
@[simp] theorem State.putCore_contexts (c : CoreId) (k : Core) : (s.putCore c k).contexts = s.contexts := rfl
@[simp] theorem State.putCore_tasks (c : CoreId) (k : Core) : (s.putCore c k).tasks = s.tasks := rfl
@[simp] theorem State.putCore_teams (c : CoreId) (k : Core) : (s.putCore c k).teams = s.teams := rfl
@[simp] theorem State.putCore_nextTask (c : CoreId) (k : Core) : (s.putCore c k).nextTask = s.nextTask := rfl
@[simp] theorem State.putCore_nextTeam (c : CoreId) (k : Core) : (s.putCore c k).nextTeam = s.nextTeam := rfl
@[simp] theorem State.putCore_bells (c : CoreId) (k : Core) : (s.putCore c k).bells = s.bells := rfl
@[simp] theorem State.putCore_moves (c : CoreId) (k : Core) : (s.putCore c k).moves = s.moves := rfl
@[simp] theorem State.putCore_bulks (c : CoreId) (k : Core) : (s.putCore c k).bulks = s.bulks := rfl
@[simp] theorem State.putCore_counted (c : CoreId) (k : Core) : (s.putCore c k).counted = s.counted := rfl
@[simp] theorem State.putCore_snaps (c : CoreId) (k : Core) : (s.putCore c k).snaps = s.snaps := rfl
@[simp] theorem State.putCore_moved (c : CoreId) (k : Core) : (s.putCore c k).moved = s.moved := rfl
@[simp] theorem State.putCore_watches (c : CoreId) (k : Core) : (s.putCore c k).watches = s.watches := rfl
@[simp] theorem State.putCore_mended (c : CoreId) (k : Core) : (s.putCore c k).mended = s.mended := rfl
@[simp] theorem State.putCore_objects (c : CoreId) (k : Core) : (s.putCore c k).objects = s.objects := rfl
@[simp] theorem State.putCore_freeFrames (c : CoreId) (k : Core) : (s.putCore c k).freeFrames = s.freeFrames := rfl
@[simp] theorem State.putCore_preempts (c : CoreId) (k : Core) : (s.putCore c k).preempts = s.preempts := rfl
@[simp] theorem State.putCore_keys (c : CoreId) (k : Core) : (s.putCore c k).keys = s.keys := rfl
@[simp] theorem State.putCore_keyOp (c : CoreId) (k : Core) : (s.putCore c k).keyOp = s.keyOp := rfl
@[simp] theorem State.putCore_keyKid (c : CoreId) (k : Core) : (s.putCore c k).keyKid = s.keyKid := rfl
@[simp] theorem State.putCore_keyFor (c : CoreId) (k : Core) : (s.putCore c k).keyFor = s.keyFor := rfl
@[simp] theorem State.putCore_keyBusy (c : CoreId) (k : Core) : (s.putCore c k).keyBusy = s.keyBusy := rfl
@[simp] theorem State.putCore_keyLive (c : CoreId) (k : Core) : (s.putCore c k).keyLive = s.keyLive := rfl
@[simp] theorem State.putCore_keyData (c : CoreId) (k : Core) : (s.putCore c k).keyData = s.keyData := rfl
@[simp] theorem State.putCore_keyStart (c : CoreId) (k : Core) : (s.putCore c k).keyStart = s.keyStart := rfl
@[simp] theorem State.putCore_plim (c : CoreId) (k : Core) : (s.putCore c k).plim = s.plim := rfl
@[simp] theorem State.putCore_plimNow (c : CoreId) (k : Core) : (s.putCore c k).plimNow = s.plimNow := rfl
@[simp] theorem State.putCore_pwr (c : CoreId) (k : Core) : (s.putCore c k).pwr = s.pwr := rfl
@[simp] theorem State.putCore_icore (c : CoreId) (k : Core) : (s.putCore c k).icore = s.icore := rfl
@[simp] theorem State.putCore_vcore (c : CoreId) (k : Core) : (s.putCore c k).vcore = s.vcore := rfl
@[simp] theorem State.putCore_gating (c : CoreId) (k : Core) : (s.putCore c k).gating = s.gating := rfl
@[simp] theorem State.putCore_tmax (c : CoreId) (k : Core) : (s.putCore c k).tmax = s.tmax := rfl
@[simp] theorem State.putCore_energy (c : CoreId) (k : Core) : (s.putCore c k).energy = s.energy := rfl
@[simp] theorem State.putCore_hot (c : CoreId) (k : Core) : (s.putCore c k).hot = s.hot := rfl
@[simp] theorem State.putCore_lowFor (c : CoreId) (k : Core) : (s.putCore c k).lowFor = s.lowFor := rfl
@[simp] theorem State.putCore_overFor (c : CoreId) (k : Core) : (s.putCore c k).overFor = s.overFor := rfl
@[simp] theorem State.putCore_vfmap (c : CoreId) (k : Core) : (s.putCore c k).vfmap = s.vfmap := rfl
@[simp] theorem State.putCore_hwbase (c : CoreId) (k : Core) : (s.putCore c k).hwbase = s.hwbase := rfl
@[simp] theorem State.putCore_pkgid (c : CoreId) (k : Core) : (s.putCore c k).pkgid = s.pkgid := rfl
@[simp] theorem State.putCore_pkgSet (c : CoreId) (k : Core) : (s.putCore c k).pkgSet = s.pkgSet := rfl
@[simp] theorem State.putCore_bar4 (c : CoreId) (k : Core) : (s.putCore c k).bar4 = s.bar4 := rfl
@[simp] theorem State.putCore_image (c : CoreId) (k : Core) : (s.putCore c k).image = s.image := rfl
@[simp] theorem State.putCore_boot (c : CoreId) (k : Core) : (s.putCore c k).boot = s.boot := rfl
@[simp] theorem State.putCore_ecok (c : CoreId) (k : Core) : (s.putCore c k).ecok = s.ecok := rfl
@[simp] theorem State.putCore_lmok (c : CoreId) (k : Core) : (s.putCore c k).lmok = s.lmok := rfl
@[simp] theorem State.putCore_rbok (c : CoreId) (k : Core) : (s.putCore c k).rbok = s.rbok := rfl
@[simp] theorem State.putCore_rbcnt (c : CoreId) (k : Core) : (s.putCore c k).rbcnt = s.rbcnt := rfl
@[simp] theorem State.putCore_uciDown (c : CoreId) (k : Core) : (s.putCore c k).uciDown = s.uciDown := rfl
@[simp] theorem State.putCore_uaDown (c : CoreId) (k : Core) : (s.putCore c k).uaDown = s.uaDown := rfl
@[simp] theorem State.putCore_cxlDown (c : CoreId) (k : Core) : (s.putCore c k).cxlDown = s.cxlDown := rfl
@[simp] theorem State.putCore_pcieDown (c : CoreId) (k : Core) : (s.putCore c k).pcieDown = s.pcieDown := rfl
@[simp] theorem State.putCore_railsOff (c : CoreId) (k : Core) : (s.putCore c k).railsOff = s.railsOff := rfl
@[simp] theorem State.putCore_aer (c : CoreId) (k : Core) : (s.putCore c k).aer = s.aer := rfl
@[simp] theorem State.putCore_hostReply (c : CoreId) (k : Core) : (s.putCore c k).hostReply = s.hostReply := rfl
@[simp] theorem State.putCore_hostPoison (c : CoreId) (k : Core) : (s.putCore c k).hostPoison = s.hostPoison := rfl

/-! ## onMe -/

@[simp] theorem State.onMe_cycle (f : Core → Core) : (s.onMe f).cycle = s.cycle := rfl
@[simp] theorem State.onMe_agenda (f : Core → Core) : (s.onMe f).agenda = s.agenda := rfl
@[simp] theorem State.onMe_cur (f : Core → Core) : (s.onMe f).cur = s.cur := rfl
@[simp] theorem State.onMe_inputs (f : Core → Core) : (s.onMe f).inputs = s.inputs := rfl
@[simp] theorem State.onMe_free (f : Core → Core) : (s.onMe f).free = s.free := rfl
@[simp] theorem State.onMe_mem (f : Core → Core) : (s.onMe f).mem = s.mem := rfl
@[simp] theorem State.onMe_poisoned (f : Core → Core) : (s.onMe f).poisoned = s.poisoned := rfl
@[simp] theorem State.onMe_failing (f : Core → Core) : (s.onMe f).failing = s.failing := rfl
@[simp] theorem State.onMe_checks (f : Core → Core) : (s.onMe f).checks = s.checks := rfl
@[simp] theorem State.onMe_scrubbed (f : Core → Core) : (s.onMe f).scrubbed = s.scrubbed := rfl
@[simp] theorem State.onMe_lineKeys (f : Core → Core) : (s.onMe f).lineKeys = s.lineKeys := rfl
@[simp] theorem State.onMe_behind (f : Core → Core) : (s.onMe f).behind = s.behind := rfl
@[simp] theorem State.onMe_policy (f : Core → Core) : (s.onMe f).policy = s.policy := rfl
@[simp] theorem State.onMe_flaws (f : Core → Core) : (s.onMe f).flaws = s.flaws := rfl
@[simp] theorem State.onMe_clusters (f : Core → Core) : (s.onMe f).clusters = s.clusters := rfl
@[simp] theorem State.onMe_dies (f : Core → Core) : (s.onMe f).dies = s.dies := rfl
@[simp] theorem State.onMe_contexts (f : Core → Core) : (s.onMe f).contexts = s.contexts := rfl
@[simp] theorem State.onMe_tasks (f : Core → Core) : (s.onMe f).tasks = s.tasks := rfl
@[simp] theorem State.onMe_teams (f : Core → Core) : (s.onMe f).teams = s.teams := rfl
@[simp] theorem State.onMe_nextTask (f : Core → Core) : (s.onMe f).nextTask = s.nextTask := rfl
@[simp] theorem State.onMe_nextTeam (f : Core → Core) : (s.onMe f).nextTeam = s.nextTeam := rfl
@[simp] theorem State.onMe_bells (f : Core → Core) : (s.onMe f).bells = s.bells := rfl
@[simp] theorem State.onMe_moves (f : Core → Core) : (s.onMe f).moves = s.moves := rfl
@[simp] theorem State.onMe_bulks (f : Core → Core) : (s.onMe f).bulks = s.bulks := rfl
@[simp] theorem State.onMe_counted (f : Core → Core) : (s.onMe f).counted = s.counted := rfl
@[simp] theorem State.onMe_snaps (f : Core → Core) : (s.onMe f).snaps = s.snaps := rfl
@[simp] theorem State.onMe_moved (f : Core → Core) : (s.onMe f).moved = s.moved := rfl
@[simp] theorem State.onMe_watches (f : Core → Core) : (s.onMe f).watches = s.watches := rfl
@[simp] theorem State.onMe_mended (f : Core → Core) : (s.onMe f).mended = s.mended := rfl
@[simp] theorem State.onMe_objects (f : Core → Core) : (s.onMe f).objects = s.objects := rfl
@[simp] theorem State.onMe_freeFrames (f : Core → Core) : (s.onMe f).freeFrames = s.freeFrames := rfl
@[simp] theorem State.onMe_preempts (f : Core → Core) : (s.onMe f).preempts = s.preempts := rfl
@[simp] theorem State.onMe_keys (f : Core → Core) : (s.onMe f).keys = s.keys := rfl
@[simp] theorem State.onMe_keyOp (f : Core → Core) : (s.onMe f).keyOp = s.keyOp := rfl
@[simp] theorem State.onMe_keyKid (f : Core → Core) : (s.onMe f).keyKid = s.keyKid := rfl
@[simp] theorem State.onMe_keyFor (f : Core → Core) : (s.onMe f).keyFor = s.keyFor := rfl
@[simp] theorem State.onMe_keyBusy (f : Core → Core) : (s.onMe f).keyBusy = s.keyBusy := rfl
@[simp] theorem State.onMe_keyLive (f : Core → Core) : (s.onMe f).keyLive = s.keyLive := rfl
@[simp] theorem State.onMe_keyData (f : Core → Core) : (s.onMe f).keyData = s.keyData := rfl
@[simp] theorem State.onMe_keyStart (f : Core → Core) : (s.onMe f).keyStart = s.keyStart := rfl
@[simp] theorem State.onMe_plim (f : Core → Core) : (s.onMe f).plim = s.plim := rfl
@[simp] theorem State.onMe_plimNow (f : Core → Core) : (s.onMe f).plimNow = s.plimNow := rfl
@[simp] theorem State.onMe_pwr (f : Core → Core) : (s.onMe f).pwr = s.pwr := rfl
@[simp] theorem State.onMe_icore (f : Core → Core) : (s.onMe f).icore = s.icore := rfl
@[simp] theorem State.onMe_vcore (f : Core → Core) : (s.onMe f).vcore = s.vcore := rfl
@[simp] theorem State.onMe_gating (f : Core → Core) : (s.onMe f).gating = s.gating := rfl
@[simp] theorem State.onMe_tmax (f : Core → Core) : (s.onMe f).tmax = s.tmax := rfl
@[simp] theorem State.onMe_energy (f : Core → Core) : (s.onMe f).energy = s.energy := rfl
@[simp] theorem State.onMe_hot (f : Core → Core) : (s.onMe f).hot = s.hot := rfl
@[simp] theorem State.onMe_lowFor (f : Core → Core) : (s.onMe f).lowFor = s.lowFor := rfl
@[simp] theorem State.onMe_overFor (f : Core → Core) : (s.onMe f).overFor = s.overFor := rfl
@[simp] theorem State.onMe_vfmap (f : Core → Core) : (s.onMe f).vfmap = s.vfmap := rfl
@[simp] theorem State.onMe_hwbase (f : Core → Core) : (s.onMe f).hwbase = s.hwbase := rfl
@[simp] theorem State.onMe_pkgid (f : Core → Core) : (s.onMe f).pkgid = s.pkgid := rfl
@[simp] theorem State.onMe_pkgSet (f : Core → Core) : (s.onMe f).pkgSet = s.pkgSet := rfl
@[simp] theorem State.onMe_bar4 (f : Core → Core) : (s.onMe f).bar4 = s.bar4 := rfl
@[simp] theorem State.onMe_image (f : Core → Core) : (s.onMe f).image = s.image := rfl
@[simp] theorem State.onMe_boot (f : Core → Core) : (s.onMe f).boot = s.boot := rfl
@[simp] theorem State.onMe_ecok (f : Core → Core) : (s.onMe f).ecok = s.ecok := rfl
@[simp] theorem State.onMe_lmok (f : Core → Core) : (s.onMe f).lmok = s.lmok := rfl
@[simp] theorem State.onMe_rbok (f : Core → Core) : (s.onMe f).rbok = s.rbok := rfl
@[simp] theorem State.onMe_rbcnt (f : Core → Core) : (s.onMe f).rbcnt = s.rbcnt := rfl
@[simp] theorem State.onMe_uciDown (f : Core → Core) : (s.onMe f).uciDown = s.uciDown := rfl
@[simp] theorem State.onMe_uaDown (f : Core → Core) : (s.onMe f).uaDown = s.uaDown := rfl
@[simp] theorem State.onMe_cxlDown (f : Core → Core) : (s.onMe f).cxlDown = s.cxlDown := rfl
@[simp] theorem State.onMe_pcieDown (f : Core → Core) : (s.onMe f).pcieDown = s.pcieDown := rfl
@[simp] theorem State.onMe_railsOff (f : Core → Core) : (s.onMe f).railsOff = s.railsOff := rfl
@[simp] theorem State.onMe_aer (f : Core → Core) : (s.onMe f).aer = s.aer := rfl
@[simp] theorem State.onMe_hostReply (f : Core → Core) : (s.onMe f).hostReply = s.hostReply := rfl
@[simp] theorem State.onMe_hostPoison (f : Core → Core) : (s.onMe f).hostPoison = s.hostPoison := rfl

/-! ## onCore -/

@[simp] theorem State.onCore_cycle (c : CoreId) (f : Core → Core) : (s.onCore c f).cycle = s.cycle := rfl
@[simp] theorem State.onCore_agenda (c : CoreId) (f : Core → Core) : (s.onCore c f).agenda = s.agenda := rfl
@[simp] theorem State.onCore_cur (c : CoreId) (f : Core → Core) : (s.onCore c f).cur = s.cur := rfl
@[simp] theorem State.onCore_inputs (c : CoreId) (f : Core → Core) : (s.onCore c f).inputs = s.inputs := rfl
@[simp] theorem State.onCore_free (c : CoreId) (f : Core → Core) : (s.onCore c f).free = s.free := rfl
@[simp] theorem State.onCore_mem (c : CoreId) (f : Core → Core) : (s.onCore c f).mem = s.mem := rfl
@[simp] theorem State.onCore_poisoned (c : CoreId) (f : Core → Core) : (s.onCore c f).poisoned = s.poisoned := rfl
@[simp] theorem State.onCore_failing (c : CoreId) (f : Core → Core) : (s.onCore c f).failing = s.failing := rfl
@[simp] theorem State.onCore_checks (c : CoreId) (f : Core → Core) : (s.onCore c f).checks = s.checks := rfl
@[simp] theorem State.onCore_scrubbed (c : CoreId) (f : Core → Core) : (s.onCore c f).scrubbed = s.scrubbed := rfl
@[simp] theorem State.onCore_lineKeys (c : CoreId) (f : Core → Core) : (s.onCore c f).lineKeys = s.lineKeys := rfl
@[simp] theorem State.onCore_behind (c : CoreId) (f : Core → Core) : (s.onCore c f).behind = s.behind := rfl
@[simp] theorem State.onCore_policy (c : CoreId) (f : Core → Core) : (s.onCore c f).policy = s.policy := rfl
@[simp] theorem State.onCore_flaws (c : CoreId) (f : Core → Core) : (s.onCore c f).flaws = s.flaws := rfl
@[simp] theorem State.onCore_clusters (c : CoreId) (f : Core → Core) : (s.onCore c f).clusters = s.clusters := rfl
@[simp] theorem State.onCore_dies (c : CoreId) (f : Core → Core) : (s.onCore c f).dies = s.dies := rfl
@[simp] theorem State.onCore_contexts (c : CoreId) (f : Core → Core) : (s.onCore c f).contexts = s.contexts := rfl
@[simp] theorem State.onCore_tasks (c : CoreId) (f : Core → Core) : (s.onCore c f).tasks = s.tasks := rfl
@[simp] theorem State.onCore_teams (c : CoreId) (f : Core → Core) : (s.onCore c f).teams = s.teams := rfl
@[simp] theorem State.onCore_nextTask (c : CoreId) (f : Core → Core) : (s.onCore c f).nextTask = s.nextTask := rfl
@[simp] theorem State.onCore_nextTeam (c : CoreId) (f : Core → Core) : (s.onCore c f).nextTeam = s.nextTeam := rfl
@[simp] theorem State.onCore_bells (c : CoreId) (f : Core → Core) : (s.onCore c f).bells = s.bells := rfl
@[simp] theorem State.onCore_moves (c : CoreId) (f : Core → Core) : (s.onCore c f).moves = s.moves := rfl
@[simp] theorem State.onCore_bulks (c : CoreId) (f : Core → Core) : (s.onCore c f).bulks = s.bulks := rfl
@[simp] theorem State.onCore_counted (c : CoreId) (f : Core → Core) : (s.onCore c f).counted = s.counted := rfl
@[simp] theorem State.onCore_snaps (c : CoreId) (f : Core → Core) : (s.onCore c f).snaps = s.snaps := rfl
@[simp] theorem State.onCore_moved (c : CoreId) (f : Core → Core) : (s.onCore c f).moved = s.moved := rfl
@[simp] theorem State.onCore_watches (c : CoreId) (f : Core → Core) : (s.onCore c f).watches = s.watches := rfl
@[simp] theorem State.onCore_mended (c : CoreId) (f : Core → Core) : (s.onCore c f).mended = s.mended := rfl
@[simp] theorem State.onCore_objects (c : CoreId) (f : Core → Core) : (s.onCore c f).objects = s.objects := rfl
@[simp] theorem State.onCore_freeFrames (c : CoreId) (f : Core → Core) : (s.onCore c f).freeFrames = s.freeFrames := rfl
@[simp] theorem State.onCore_preempts (c : CoreId) (f : Core → Core) : (s.onCore c f).preempts = s.preempts := rfl
@[simp] theorem State.onCore_keys (c : CoreId) (f : Core → Core) : (s.onCore c f).keys = s.keys := rfl
@[simp] theorem State.onCore_keyOp (c : CoreId) (f : Core → Core) : (s.onCore c f).keyOp = s.keyOp := rfl
@[simp] theorem State.onCore_keyKid (c : CoreId) (f : Core → Core) : (s.onCore c f).keyKid = s.keyKid := rfl
@[simp] theorem State.onCore_keyFor (c : CoreId) (f : Core → Core) : (s.onCore c f).keyFor = s.keyFor := rfl
@[simp] theorem State.onCore_keyBusy (c : CoreId) (f : Core → Core) : (s.onCore c f).keyBusy = s.keyBusy := rfl
@[simp] theorem State.onCore_keyLive (c : CoreId) (f : Core → Core) : (s.onCore c f).keyLive = s.keyLive := rfl
@[simp] theorem State.onCore_keyData (c : CoreId) (f : Core → Core) : (s.onCore c f).keyData = s.keyData := rfl
@[simp] theorem State.onCore_keyStart (c : CoreId) (f : Core → Core) : (s.onCore c f).keyStart = s.keyStart := rfl
@[simp] theorem State.onCore_plim (c : CoreId) (f : Core → Core) : (s.onCore c f).plim = s.plim := rfl
@[simp] theorem State.onCore_plimNow (c : CoreId) (f : Core → Core) : (s.onCore c f).plimNow = s.plimNow := rfl
@[simp] theorem State.onCore_pwr (c : CoreId) (f : Core → Core) : (s.onCore c f).pwr = s.pwr := rfl
@[simp] theorem State.onCore_icore (c : CoreId) (f : Core → Core) : (s.onCore c f).icore = s.icore := rfl
@[simp] theorem State.onCore_vcore (c : CoreId) (f : Core → Core) : (s.onCore c f).vcore = s.vcore := rfl
@[simp] theorem State.onCore_gating (c : CoreId) (f : Core → Core) : (s.onCore c f).gating = s.gating := rfl
@[simp] theorem State.onCore_tmax (c : CoreId) (f : Core → Core) : (s.onCore c f).tmax = s.tmax := rfl
@[simp] theorem State.onCore_energy (c : CoreId) (f : Core → Core) : (s.onCore c f).energy = s.energy := rfl
@[simp] theorem State.onCore_hot (c : CoreId) (f : Core → Core) : (s.onCore c f).hot = s.hot := rfl
@[simp] theorem State.onCore_lowFor (c : CoreId) (f : Core → Core) : (s.onCore c f).lowFor = s.lowFor := rfl
@[simp] theorem State.onCore_overFor (c : CoreId) (f : Core → Core) : (s.onCore c f).overFor = s.overFor := rfl
@[simp] theorem State.onCore_vfmap (c : CoreId) (f : Core → Core) : (s.onCore c f).vfmap = s.vfmap := rfl
@[simp] theorem State.onCore_hwbase (c : CoreId) (f : Core → Core) : (s.onCore c f).hwbase = s.hwbase := rfl
@[simp] theorem State.onCore_pkgid (c : CoreId) (f : Core → Core) : (s.onCore c f).pkgid = s.pkgid := rfl
@[simp] theorem State.onCore_pkgSet (c : CoreId) (f : Core → Core) : (s.onCore c f).pkgSet = s.pkgSet := rfl
@[simp] theorem State.onCore_bar4 (c : CoreId) (f : Core → Core) : (s.onCore c f).bar4 = s.bar4 := rfl
@[simp] theorem State.onCore_image (c : CoreId) (f : Core → Core) : (s.onCore c f).image = s.image := rfl
@[simp] theorem State.onCore_boot (c : CoreId) (f : Core → Core) : (s.onCore c f).boot = s.boot := rfl
@[simp] theorem State.onCore_ecok (c : CoreId) (f : Core → Core) : (s.onCore c f).ecok = s.ecok := rfl
@[simp] theorem State.onCore_lmok (c : CoreId) (f : Core → Core) : (s.onCore c f).lmok = s.lmok := rfl
@[simp] theorem State.onCore_rbok (c : CoreId) (f : Core → Core) : (s.onCore c f).rbok = s.rbok := rfl
@[simp] theorem State.onCore_rbcnt (c : CoreId) (f : Core → Core) : (s.onCore c f).rbcnt = s.rbcnt := rfl
@[simp] theorem State.onCore_uciDown (c : CoreId) (f : Core → Core) : (s.onCore c f).uciDown = s.uciDown := rfl
@[simp] theorem State.onCore_uaDown (c : CoreId) (f : Core → Core) : (s.onCore c f).uaDown = s.uaDown := rfl
@[simp] theorem State.onCore_cxlDown (c : CoreId) (f : Core → Core) : (s.onCore c f).cxlDown = s.cxlDown := rfl
@[simp] theorem State.onCore_pcieDown (c : CoreId) (f : Core → Core) : (s.onCore c f).pcieDown = s.pcieDown := rfl
@[simp] theorem State.onCore_railsOff (c : CoreId) (f : Core → Core) : (s.onCore c f).railsOff = s.railsOff := rfl
@[simp] theorem State.onCore_aer (c : CoreId) (f : Core → Core) : (s.onCore c f).aer = s.aer := rfl
@[simp] theorem State.onCore_hostReply (c : CoreId) (f : Core → Core) : (s.onCore c f).hostReply = s.hostReply := rfl
@[simp] theorem State.onCore_hostPoison (c : CoreId) (f : Core → Core) : (s.onCore c f).hostPoison = s.hostPoison := rfl

/-! ## onDie -/

@[simp] theorem State.onDie_cycle (d : DieId) (f : Die → Die) : (s.onDie d f).cycle = s.cycle := rfl
@[simp] theorem State.onDie_agenda (d : DieId) (f : Die → Die) : (s.onDie d f).agenda = s.agenda := rfl
@[simp] theorem State.onDie_cur (d : DieId) (f : Die → Die) : (s.onDie d f).cur = s.cur := rfl
@[simp] theorem State.onDie_inputs (d : DieId) (f : Die → Die) : (s.onDie d f).inputs = s.inputs := rfl
@[simp] theorem State.onDie_free (d : DieId) (f : Die → Die) : (s.onDie d f).free = s.free := rfl
@[simp] theorem State.onDie_mem (d : DieId) (f : Die → Die) : (s.onDie d f).mem = s.mem := rfl
@[simp] theorem State.onDie_poisoned (d : DieId) (f : Die → Die) : (s.onDie d f).poisoned = s.poisoned := rfl
@[simp] theorem State.onDie_failing (d : DieId) (f : Die → Die) : (s.onDie d f).failing = s.failing := rfl
@[simp] theorem State.onDie_checks (d : DieId) (f : Die → Die) : (s.onDie d f).checks = s.checks := rfl
@[simp] theorem State.onDie_scrubbed (d : DieId) (f : Die → Die) : (s.onDie d f).scrubbed = s.scrubbed := rfl
@[simp] theorem State.onDie_lineKeys (d : DieId) (f : Die → Die) : (s.onDie d f).lineKeys = s.lineKeys := rfl
@[simp] theorem State.onDie_behind (d : DieId) (f : Die → Die) : (s.onDie d f).behind = s.behind := rfl
@[simp] theorem State.onDie_policy (d : DieId) (f : Die → Die) : (s.onDie d f).policy = s.policy := rfl
@[simp] theorem State.onDie_flaws (d : DieId) (f : Die → Die) : (s.onDie d f).flaws = s.flaws := rfl
@[simp] theorem State.onDie_cores (d : DieId) (f : Die → Die) : (s.onDie d f).cores = s.cores := rfl
@[simp] theorem State.onDie_clusters (d : DieId) (f : Die → Die) : (s.onDie d f).clusters = s.clusters := rfl
@[simp] theorem State.onDie_contexts (d : DieId) (f : Die → Die) : (s.onDie d f).contexts = s.contexts := rfl
@[simp] theorem State.onDie_tasks (d : DieId) (f : Die → Die) : (s.onDie d f).tasks = s.tasks := rfl
@[simp] theorem State.onDie_teams (d : DieId) (f : Die → Die) : (s.onDie d f).teams = s.teams := rfl
@[simp] theorem State.onDie_nextTask (d : DieId) (f : Die → Die) : (s.onDie d f).nextTask = s.nextTask := rfl
@[simp] theorem State.onDie_nextTeam (d : DieId) (f : Die → Die) : (s.onDie d f).nextTeam = s.nextTeam := rfl
@[simp] theorem State.onDie_bells (d : DieId) (f : Die → Die) : (s.onDie d f).bells = s.bells := rfl
@[simp] theorem State.onDie_moves (d : DieId) (f : Die → Die) : (s.onDie d f).moves = s.moves := rfl
@[simp] theorem State.onDie_bulks (d : DieId) (f : Die → Die) : (s.onDie d f).bulks = s.bulks := rfl
@[simp] theorem State.onDie_counted (d : DieId) (f : Die → Die) : (s.onDie d f).counted = s.counted := rfl
@[simp] theorem State.onDie_snaps (d : DieId) (f : Die → Die) : (s.onDie d f).snaps = s.snaps := rfl
@[simp] theorem State.onDie_moved (d : DieId) (f : Die → Die) : (s.onDie d f).moved = s.moved := rfl
@[simp] theorem State.onDie_watches (d : DieId) (f : Die → Die) : (s.onDie d f).watches = s.watches := rfl
@[simp] theorem State.onDie_mended (d : DieId) (f : Die → Die) : (s.onDie d f).mended = s.mended := rfl
@[simp] theorem State.onDie_objects (d : DieId) (f : Die → Die) : (s.onDie d f).objects = s.objects := rfl
@[simp] theorem State.onDie_freeFrames (d : DieId) (f : Die → Die) : (s.onDie d f).freeFrames = s.freeFrames := rfl
@[simp] theorem State.onDie_preempts (d : DieId) (f : Die → Die) : (s.onDie d f).preempts = s.preempts := rfl
@[simp] theorem State.onDie_keys (d : DieId) (f : Die → Die) : (s.onDie d f).keys = s.keys := rfl
@[simp] theorem State.onDie_keyOp (d : DieId) (f : Die → Die) : (s.onDie d f).keyOp = s.keyOp := rfl
@[simp] theorem State.onDie_keyKid (d : DieId) (f : Die → Die) : (s.onDie d f).keyKid = s.keyKid := rfl
@[simp] theorem State.onDie_keyFor (d : DieId) (f : Die → Die) : (s.onDie d f).keyFor = s.keyFor := rfl
@[simp] theorem State.onDie_keyBusy (d : DieId) (f : Die → Die) : (s.onDie d f).keyBusy = s.keyBusy := rfl
@[simp] theorem State.onDie_keyLive (d : DieId) (f : Die → Die) : (s.onDie d f).keyLive = s.keyLive := rfl
@[simp] theorem State.onDie_keyData (d : DieId) (f : Die → Die) : (s.onDie d f).keyData = s.keyData := rfl
@[simp] theorem State.onDie_keyStart (d : DieId) (f : Die → Die) : (s.onDie d f).keyStart = s.keyStart := rfl
@[simp] theorem State.onDie_plim (d : DieId) (f : Die → Die) : (s.onDie d f).plim = s.plim := rfl
@[simp] theorem State.onDie_plimNow (d : DieId) (f : Die → Die) : (s.onDie d f).plimNow = s.plimNow := rfl
@[simp] theorem State.onDie_pwr (d : DieId) (f : Die → Die) : (s.onDie d f).pwr = s.pwr := rfl
@[simp] theorem State.onDie_icore (d : DieId) (f : Die → Die) : (s.onDie d f).icore = s.icore := rfl
@[simp] theorem State.onDie_vcore (d : DieId) (f : Die → Die) : (s.onDie d f).vcore = s.vcore := rfl
@[simp] theorem State.onDie_gating (d : DieId) (f : Die → Die) : (s.onDie d f).gating = s.gating := rfl
@[simp] theorem State.onDie_tmax (d : DieId) (f : Die → Die) : (s.onDie d f).tmax = s.tmax := rfl
@[simp] theorem State.onDie_energy (d : DieId) (f : Die → Die) : (s.onDie d f).energy = s.energy := rfl
@[simp] theorem State.onDie_hot (d : DieId) (f : Die → Die) : (s.onDie d f).hot = s.hot := rfl
@[simp] theorem State.onDie_lowFor (d : DieId) (f : Die → Die) : (s.onDie d f).lowFor = s.lowFor := rfl
@[simp] theorem State.onDie_overFor (d : DieId) (f : Die → Die) : (s.onDie d f).overFor = s.overFor := rfl
@[simp] theorem State.onDie_vfmap (d : DieId) (f : Die → Die) : (s.onDie d f).vfmap = s.vfmap := rfl
@[simp] theorem State.onDie_hwbase (d : DieId) (f : Die → Die) : (s.onDie d f).hwbase = s.hwbase := rfl
@[simp] theorem State.onDie_pkgid (d : DieId) (f : Die → Die) : (s.onDie d f).pkgid = s.pkgid := rfl
@[simp] theorem State.onDie_pkgSet (d : DieId) (f : Die → Die) : (s.onDie d f).pkgSet = s.pkgSet := rfl
@[simp] theorem State.onDie_bar4 (d : DieId) (f : Die → Die) : (s.onDie d f).bar4 = s.bar4 := rfl
@[simp] theorem State.onDie_image (d : DieId) (f : Die → Die) : (s.onDie d f).image = s.image := rfl
@[simp] theorem State.onDie_boot (d : DieId) (f : Die → Die) : (s.onDie d f).boot = s.boot := rfl
@[simp] theorem State.onDie_ecok (d : DieId) (f : Die → Die) : (s.onDie d f).ecok = s.ecok := rfl
@[simp] theorem State.onDie_lmok (d : DieId) (f : Die → Die) : (s.onDie d f).lmok = s.lmok := rfl
@[simp] theorem State.onDie_rbok (d : DieId) (f : Die → Die) : (s.onDie d f).rbok = s.rbok := rfl
@[simp] theorem State.onDie_rbcnt (d : DieId) (f : Die → Die) : (s.onDie d f).rbcnt = s.rbcnt := rfl
@[simp] theorem State.onDie_uciDown (d : DieId) (f : Die → Die) : (s.onDie d f).uciDown = s.uciDown := rfl
@[simp] theorem State.onDie_uaDown (d : DieId) (f : Die → Die) : (s.onDie d f).uaDown = s.uaDown := rfl
@[simp] theorem State.onDie_cxlDown (d : DieId) (f : Die → Die) : (s.onDie d f).cxlDown = s.cxlDown := rfl
@[simp] theorem State.onDie_pcieDown (d : DieId) (f : Die → Die) : (s.onDie d f).pcieDown = s.pcieDown := rfl
@[simp] theorem State.onDie_railsOff (d : DieId) (f : Die → Die) : (s.onDie d f).railsOff = s.railsOff := rfl
@[simp] theorem State.onDie_aer (d : DieId) (f : Die → Die) : (s.onDie d f).aer = s.aer := rfl
@[simp] theorem State.onDie_hostReply (d : DieId) (f : Die → Die) : (s.onDie d f).hostReply = s.hostReply := rfl
@[simp] theorem State.onDie_hostPoison (d : DieId) (f : Die → Die) : (s.onDie d f).hostPoison = s.hostPoison := rfl

/-! ## onTask -/

@[simp] theorem State.onTask_cycle (n : Nat) (f : Task → Task) : (s.onTask n f).cycle = s.cycle := rfl
@[simp] theorem State.onTask_agenda (n : Nat) (f : Task → Task) : (s.onTask n f).agenda = s.agenda := rfl
@[simp] theorem State.onTask_cur (n : Nat) (f : Task → Task) : (s.onTask n f).cur = s.cur := rfl
@[simp] theorem State.onTask_inputs (n : Nat) (f : Task → Task) : (s.onTask n f).inputs = s.inputs := rfl
@[simp] theorem State.onTask_free (n : Nat) (f : Task → Task) : (s.onTask n f).free = s.free := rfl
@[simp] theorem State.onTask_mem (n : Nat) (f : Task → Task) : (s.onTask n f).mem = s.mem := rfl
@[simp] theorem State.onTask_poisoned (n : Nat) (f : Task → Task) : (s.onTask n f).poisoned = s.poisoned := rfl
@[simp] theorem State.onTask_failing (n : Nat) (f : Task → Task) : (s.onTask n f).failing = s.failing := rfl
@[simp] theorem State.onTask_checks (n : Nat) (f : Task → Task) : (s.onTask n f).checks = s.checks := rfl
@[simp] theorem State.onTask_scrubbed (n : Nat) (f : Task → Task) : (s.onTask n f).scrubbed = s.scrubbed := rfl
@[simp] theorem State.onTask_lineKeys (n : Nat) (f : Task → Task) : (s.onTask n f).lineKeys = s.lineKeys := rfl
@[simp] theorem State.onTask_behind (n : Nat) (f : Task → Task) : (s.onTask n f).behind = s.behind := rfl
@[simp] theorem State.onTask_policy (n : Nat) (f : Task → Task) : (s.onTask n f).policy = s.policy := rfl
@[simp] theorem State.onTask_flaws (n : Nat) (f : Task → Task) : (s.onTask n f).flaws = s.flaws := rfl
@[simp] theorem State.onTask_cores (n : Nat) (f : Task → Task) : (s.onTask n f).cores = s.cores := rfl
@[simp] theorem State.onTask_clusters (n : Nat) (f : Task → Task) : (s.onTask n f).clusters = s.clusters := rfl
@[simp] theorem State.onTask_dies (n : Nat) (f : Task → Task) : (s.onTask n f).dies = s.dies := rfl
@[simp] theorem State.onTask_contexts (n : Nat) (f : Task → Task) : (s.onTask n f).contexts = s.contexts := rfl
@[simp] theorem State.onTask_teams (n : Nat) (f : Task → Task) : (s.onTask n f).teams = s.teams := rfl
@[simp] theorem State.onTask_nextTask (n : Nat) (f : Task → Task) : (s.onTask n f).nextTask = s.nextTask := rfl
@[simp] theorem State.onTask_nextTeam (n : Nat) (f : Task → Task) : (s.onTask n f).nextTeam = s.nextTeam := rfl
@[simp] theorem State.onTask_bells (n : Nat) (f : Task → Task) : (s.onTask n f).bells = s.bells := rfl
@[simp] theorem State.onTask_moves (n : Nat) (f : Task → Task) : (s.onTask n f).moves = s.moves := rfl
@[simp] theorem State.onTask_bulks (n : Nat) (f : Task → Task) : (s.onTask n f).bulks = s.bulks := rfl
@[simp] theorem State.onTask_counted (n : Nat) (f : Task → Task) : (s.onTask n f).counted = s.counted := rfl
@[simp] theorem State.onTask_snaps (n : Nat) (f : Task → Task) : (s.onTask n f).snaps = s.snaps := rfl
@[simp] theorem State.onTask_moved (n : Nat) (f : Task → Task) : (s.onTask n f).moved = s.moved := rfl
@[simp] theorem State.onTask_watches (n : Nat) (f : Task → Task) : (s.onTask n f).watches = s.watches := rfl
@[simp] theorem State.onTask_mended (n : Nat) (f : Task → Task) : (s.onTask n f).mended = s.mended := rfl
@[simp] theorem State.onTask_objects (n : Nat) (f : Task → Task) : (s.onTask n f).objects = s.objects := rfl
@[simp] theorem State.onTask_freeFrames (n : Nat) (f : Task → Task) : (s.onTask n f).freeFrames = s.freeFrames := rfl
@[simp] theorem State.onTask_preempts (n : Nat) (f : Task → Task) : (s.onTask n f).preempts = s.preempts := rfl
@[simp] theorem State.onTask_keys (n : Nat) (f : Task → Task) : (s.onTask n f).keys = s.keys := rfl
@[simp] theorem State.onTask_keyOp (n : Nat) (f : Task → Task) : (s.onTask n f).keyOp = s.keyOp := rfl
@[simp] theorem State.onTask_keyKid (n : Nat) (f : Task → Task) : (s.onTask n f).keyKid = s.keyKid := rfl
@[simp] theorem State.onTask_keyFor (n : Nat) (f : Task → Task) : (s.onTask n f).keyFor = s.keyFor := rfl
@[simp] theorem State.onTask_keyBusy (n : Nat) (f : Task → Task) : (s.onTask n f).keyBusy = s.keyBusy := rfl
@[simp] theorem State.onTask_keyLive (n : Nat) (f : Task → Task) : (s.onTask n f).keyLive = s.keyLive := rfl
@[simp] theorem State.onTask_keyData (n : Nat) (f : Task → Task) : (s.onTask n f).keyData = s.keyData := rfl
@[simp] theorem State.onTask_keyStart (n : Nat) (f : Task → Task) : (s.onTask n f).keyStart = s.keyStart := rfl
@[simp] theorem State.onTask_plim (n : Nat) (f : Task → Task) : (s.onTask n f).plim = s.plim := rfl
@[simp] theorem State.onTask_plimNow (n : Nat) (f : Task → Task) : (s.onTask n f).plimNow = s.plimNow := rfl
@[simp] theorem State.onTask_pwr (n : Nat) (f : Task → Task) : (s.onTask n f).pwr = s.pwr := rfl
@[simp] theorem State.onTask_icore (n : Nat) (f : Task → Task) : (s.onTask n f).icore = s.icore := rfl
@[simp] theorem State.onTask_vcore (n : Nat) (f : Task → Task) : (s.onTask n f).vcore = s.vcore := rfl
@[simp] theorem State.onTask_gating (n : Nat) (f : Task → Task) : (s.onTask n f).gating = s.gating := rfl
@[simp] theorem State.onTask_tmax (n : Nat) (f : Task → Task) : (s.onTask n f).tmax = s.tmax := rfl
@[simp] theorem State.onTask_energy (n : Nat) (f : Task → Task) : (s.onTask n f).energy = s.energy := rfl
@[simp] theorem State.onTask_hot (n : Nat) (f : Task → Task) : (s.onTask n f).hot = s.hot := rfl
@[simp] theorem State.onTask_lowFor (n : Nat) (f : Task → Task) : (s.onTask n f).lowFor = s.lowFor := rfl
@[simp] theorem State.onTask_overFor (n : Nat) (f : Task → Task) : (s.onTask n f).overFor = s.overFor := rfl
@[simp] theorem State.onTask_vfmap (n : Nat) (f : Task → Task) : (s.onTask n f).vfmap = s.vfmap := rfl
@[simp] theorem State.onTask_hwbase (n : Nat) (f : Task → Task) : (s.onTask n f).hwbase = s.hwbase := rfl
@[simp] theorem State.onTask_pkgid (n : Nat) (f : Task → Task) : (s.onTask n f).pkgid = s.pkgid := rfl
@[simp] theorem State.onTask_pkgSet (n : Nat) (f : Task → Task) : (s.onTask n f).pkgSet = s.pkgSet := rfl
@[simp] theorem State.onTask_bar4 (n : Nat) (f : Task → Task) : (s.onTask n f).bar4 = s.bar4 := rfl
@[simp] theorem State.onTask_image (n : Nat) (f : Task → Task) : (s.onTask n f).image = s.image := rfl
@[simp] theorem State.onTask_boot (n : Nat) (f : Task → Task) : (s.onTask n f).boot = s.boot := rfl
@[simp] theorem State.onTask_ecok (n : Nat) (f : Task → Task) : (s.onTask n f).ecok = s.ecok := rfl
@[simp] theorem State.onTask_lmok (n : Nat) (f : Task → Task) : (s.onTask n f).lmok = s.lmok := rfl
@[simp] theorem State.onTask_rbok (n : Nat) (f : Task → Task) : (s.onTask n f).rbok = s.rbok := rfl
@[simp] theorem State.onTask_rbcnt (n : Nat) (f : Task → Task) : (s.onTask n f).rbcnt = s.rbcnt := rfl
@[simp] theorem State.onTask_uciDown (n : Nat) (f : Task → Task) : (s.onTask n f).uciDown = s.uciDown := rfl
@[simp] theorem State.onTask_uaDown (n : Nat) (f : Task → Task) : (s.onTask n f).uaDown = s.uaDown := rfl
@[simp] theorem State.onTask_cxlDown (n : Nat) (f : Task → Task) : (s.onTask n f).cxlDown = s.cxlDown := rfl
@[simp] theorem State.onTask_pcieDown (n : Nat) (f : Task → Task) : (s.onTask n f).pcieDown = s.pcieDown := rfl
@[simp] theorem State.onTask_railsOff (n : Nat) (f : Task → Task) : (s.onTask n f).railsOff = s.railsOff := rfl
@[simp] theorem State.onTask_aer (n : Nat) (f : Task → Task) : (s.onTask n f).aer = s.aer := rfl
@[simp] theorem State.onTask_hostReply (n : Nat) (f : Task → Task) : (s.onTask n f).hostReply = s.hostReply := rfl
@[simp] theorem State.onTask_hostPoison (n : Nat) (f : Task → Task) : (s.onTask n f).hostPoison = s.hostPoison := rfl

/-! ## onCtx -/

@[simp] theorem State.onCtx_cycle (n : Nat) (f : Context → Context) : (s.onCtx n f).cycle = s.cycle := rfl
@[simp] theorem State.onCtx_agenda (n : Nat) (f : Context → Context) : (s.onCtx n f).agenda = s.agenda := rfl
@[simp] theorem State.onCtx_cur (n : Nat) (f : Context → Context) : (s.onCtx n f).cur = s.cur := rfl
@[simp] theorem State.onCtx_inputs (n : Nat) (f : Context → Context) : (s.onCtx n f).inputs = s.inputs := rfl
@[simp] theorem State.onCtx_free (n : Nat) (f : Context → Context) : (s.onCtx n f).free = s.free := rfl
@[simp] theorem State.onCtx_mem (n : Nat) (f : Context → Context) : (s.onCtx n f).mem = s.mem := rfl
@[simp] theorem State.onCtx_poisoned (n : Nat) (f : Context → Context) : (s.onCtx n f).poisoned = s.poisoned := rfl
@[simp] theorem State.onCtx_failing (n : Nat) (f : Context → Context) : (s.onCtx n f).failing = s.failing := rfl
@[simp] theorem State.onCtx_checks (n : Nat) (f : Context → Context) : (s.onCtx n f).checks = s.checks := rfl
@[simp] theorem State.onCtx_scrubbed (n : Nat) (f : Context → Context) : (s.onCtx n f).scrubbed = s.scrubbed := rfl
@[simp] theorem State.onCtx_lineKeys (n : Nat) (f : Context → Context) : (s.onCtx n f).lineKeys = s.lineKeys := rfl
@[simp] theorem State.onCtx_behind (n : Nat) (f : Context → Context) : (s.onCtx n f).behind = s.behind := rfl
@[simp] theorem State.onCtx_policy (n : Nat) (f : Context → Context) : (s.onCtx n f).policy = s.policy := rfl
@[simp] theorem State.onCtx_flaws (n : Nat) (f : Context → Context) : (s.onCtx n f).flaws = s.flaws := rfl
@[simp] theorem State.onCtx_cores (n : Nat) (f : Context → Context) : (s.onCtx n f).cores = s.cores := rfl
@[simp] theorem State.onCtx_clusters (n : Nat) (f : Context → Context) : (s.onCtx n f).clusters = s.clusters := rfl
@[simp] theorem State.onCtx_dies (n : Nat) (f : Context → Context) : (s.onCtx n f).dies = s.dies := rfl
@[simp] theorem State.onCtx_tasks (n : Nat) (f : Context → Context) : (s.onCtx n f).tasks = s.tasks := rfl
@[simp] theorem State.onCtx_teams (n : Nat) (f : Context → Context) : (s.onCtx n f).teams = s.teams := rfl
@[simp] theorem State.onCtx_nextTask (n : Nat) (f : Context → Context) : (s.onCtx n f).nextTask = s.nextTask := rfl
@[simp] theorem State.onCtx_nextTeam (n : Nat) (f : Context → Context) : (s.onCtx n f).nextTeam = s.nextTeam := rfl
@[simp] theorem State.onCtx_bells (n : Nat) (f : Context → Context) : (s.onCtx n f).bells = s.bells := rfl
@[simp] theorem State.onCtx_moves (n : Nat) (f : Context → Context) : (s.onCtx n f).moves = s.moves := rfl
@[simp] theorem State.onCtx_bulks (n : Nat) (f : Context → Context) : (s.onCtx n f).bulks = s.bulks := rfl
@[simp] theorem State.onCtx_counted (n : Nat) (f : Context → Context) : (s.onCtx n f).counted = s.counted := rfl
@[simp] theorem State.onCtx_snaps (n : Nat) (f : Context → Context) : (s.onCtx n f).snaps = s.snaps := rfl
@[simp] theorem State.onCtx_moved (n : Nat) (f : Context → Context) : (s.onCtx n f).moved = s.moved := rfl
@[simp] theorem State.onCtx_watches (n : Nat) (f : Context → Context) : (s.onCtx n f).watches = s.watches := rfl
@[simp] theorem State.onCtx_mended (n : Nat) (f : Context → Context) : (s.onCtx n f).mended = s.mended := rfl
@[simp] theorem State.onCtx_objects (n : Nat) (f : Context → Context) : (s.onCtx n f).objects = s.objects := rfl
@[simp] theorem State.onCtx_freeFrames (n : Nat) (f : Context → Context) : (s.onCtx n f).freeFrames = s.freeFrames := rfl
@[simp] theorem State.onCtx_preempts (n : Nat) (f : Context → Context) : (s.onCtx n f).preempts = s.preempts := rfl
@[simp] theorem State.onCtx_keys (n : Nat) (f : Context → Context) : (s.onCtx n f).keys = s.keys := rfl
@[simp] theorem State.onCtx_keyOp (n : Nat) (f : Context → Context) : (s.onCtx n f).keyOp = s.keyOp := rfl
@[simp] theorem State.onCtx_keyKid (n : Nat) (f : Context → Context) : (s.onCtx n f).keyKid = s.keyKid := rfl
@[simp] theorem State.onCtx_keyFor (n : Nat) (f : Context → Context) : (s.onCtx n f).keyFor = s.keyFor := rfl
@[simp] theorem State.onCtx_keyBusy (n : Nat) (f : Context → Context) : (s.onCtx n f).keyBusy = s.keyBusy := rfl
@[simp] theorem State.onCtx_keyLive (n : Nat) (f : Context → Context) : (s.onCtx n f).keyLive = s.keyLive := rfl
@[simp] theorem State.onCtx_keyData (n : Nat) (f : Context → Context) : (s.onCtx n f).keyData = s.keyData := rfl
@[simp] theorem State.onCtx_keyStart (n : Nat) (f : Context → Context) : (s.onCtx n f).keyStart = s.keyStart := rfl
@[simp] theorem State.onCtx_plim (n : Nat) (f : Context → Context) : (s.onCtx n f).plim = s.plim := rfl
@[simp] theorem State.onCtx_plimNow (n : Nat) (f : Context → Context) : (s.onCtx n f).plimNow = s.plimNow := rfl
@[simp] theorem State.onCtx_pwr (n : Nat) (f : Context → Context) : (s.onCtx n f).pwr = s.pwr := rfl
@[simp] theorem State.onCtx_icore (n : Nat) (f : Context → Context) : (s.onCtx n f).icore = s.icore := rfl
@[simp] theorem State.onCtx_vcore (n : Nat) (f : Context → Context) : (s.onCtx n f).vcore = s.vcore := rfl
@[simp] theorem State.onCtx_gating (n : Nat) (f : Context → Context) : (s.onCtx n f).gating = s.gating := rfl
@[simp] theorem State.onCtx_tmax (n : Nat) (f : Context → Context) : (s.onCtx n f).tmax = s.tmax := rfl
@[simp] theorem State.onCtx_energy (n : Nat) (f : Context → Context) : (s.onCtx n f).energy = s.energy := rfl
@[simp] theorem State.onCtx_hot (n : Nat) (f : Context → Context) : (s.onCtx n f).hot = s.hot := rfl
@[simp] theorem State.onCtx_lowFor (n : Nat) (f : Context → Context) : (s.onCtx n f).lowFor = s.lowFor := rfl
@[simp] theorem State.onCtx_overFor (n : Nat) (f : Context → Context) : (s.onCtx n f).overFor = s.overFor := rfl
@[simp] theorem State.onCtx_vfmap (n : Nat) (f : Context → Context) : (s.onCtx n f).vfmap = s.vfmap := rfl
@[simp] theorem State.onCtx_hwbase (n : Nat) (f : Context → Context) : (s.onCtx n f).hwbase = s.hwbase := rfl
@[simp] theorem State.onCtx_pkgid (n : Nat) (f : Context → Context) : (s.onCtx n f).pkgid = s.pkgid := rfl
@[simp] theorem State.onCtx_pkgSet (n : Nat) (f : Context → Context) : (s.onCtx n f).pkgSet = s.pkgSet := rfl
@[simp] theorem State.onCtx_bar4 (n : Nat) (f : Context → Context) : (s.onCtx n f).bar4 = s.bar4 := rfl
@[simp] theorem State.onCtx_image (n : Nat) (f : Context → Context) : (s.onCtx n f).image = s.image := rfl
@[simp] theorem State.onCtx_boot (n : Nat) (f : Context → Context) : (s.onCtx n f).boot = s.boot := rfl
@[simp] theorem State.onCtx_ecok (n : Nat) (f : Context → Context) : (s.onCtx n f).ecok = s.ecok := rfl
@[simp] theorem State.onCtx_lmok (n : Nat) (f : Context → Context) : (s.onCtx n f).lmok = s.lmok := rfl
@[simp] theorem State.onCtx_rbok (n : Nat) (f : Context → Context) : (s.onCtx n f).rbok = s.rbok := rfl
@[simp] theorem State.onCtx_rbcnt (n : Nat) (f : Context → Context) : (s.onCtx n f).rbcnt = s.rbcnt := rfl
@[simp] theorem State.onCtx_uciDown (n : Nat) (f : Context → Context) : (s.onCtx n f).uciDown = s.uciDown := rfl
@[simp] theorem State.onCtx_uaDown (n : Nat) (f : Context → Context) : (s.onCtx n f).uaDown = s.uaDown := rfl
@[simp] theorem State.onCtx_cxlDown (n : Nat) (f : Context → Context) : (s.onCtx n f).cxlDown = s.cxlDown := rfl
@[simp] theorem State.onCtx_pcieDown (n : Nat) (f : Context → Context) : (s.onCtx n f).pcieDown = s.pcieDown := rfl
@[simp] theorem State.onCtx_railsOff (n : Nat) (f : Context → Context) : (s.onCtx n f).railsOff = s.railsOff := rfl
@[simp] theorem State.onCtx_aer (n : Nat) (f : Context → Context) : (s.onCtx n f).aer = s.aer := rfl
@[simp] theorem State.onCtx_hostReply (n : Nat) (f : Context → Context) : (s.onCtx n f).hostReply = s.hostReply := rfl
@[simp] theorem State.onCtx_hostPoison (n : Nat) (f : Context → Context) : (s.onCtx n f).hostPoison = s.hostPoison := rfl

/-! ## onTeam -/

@[simp] theorem State.onTeam_cycle (n : Nat) (f : Team → Team) : (s.onTeam n f).cycle = s.cycle := rfl
@[simp] theorem State.onTeam_agenda (n : Nat) (f : Team → Team) : (s.onTeam n f).agenda = s.agenda := rfl
@[simp] theorem State.onTeam_cur (n : Nat) (f : Team → Team) : (s.onTeam n f).cur = s.cur := rfl
@[simp] theorem State.onTeam_inputs (n : Nat) (f : Team → Team) : (s.onTeam n f).inputs = s.inputs := rfl
@[simp] theorem State.onTeam_free (n : Nat) (f : Team → Team) : (s.onTeam n f).free = s.free := rfl
@[simp] theorem State.onTeam_mem (n : Nat) (f : Team → Team) : (s.onTeam n f).mem = s.mem := rfl
@[simp] theorem State.onTeam_poisoned (n : Nat) (f : Team → Team) : (s.onTeam n f).poisoned = s.poisoned := rfl
@[simp] theorem State.onTeam_failing (n : Nat) (f : Team → Team) : (s.onTeam n f).failing = s.failing := rfl
@[simp] theorem State.onTeam_checks (n : Nat) (f : Team → Team) : (s.onTeam n f).checks = s.checks := rfl
@[simp] theorem State.onTeam_scrubbed (n : Nat) (f : Team → Team) : (s.onTeam n f).scrubbed = s.scrubbed := rfl
@[simp] theorem State.onTeam_lineKeys (n : Nat) (f : Team → Team) : (s.onTeam n f).lineKeys = s.lineKeys := rfl
@[simp] theorem State.onTeam_behind (n : Nat) (f : Team → Team) : (s.onTeam n f).behind = s.behind := rfl
@[simp] theorem State.onTeam_policy (n : Nat) (f : Team → Team) : (s.onTeam n f).policy = s.policy := rfl
@[simp] theorem State.onTeam_flaws (n : Nat) (f : Team → Team) : (s.onTeam n f).flaws = s.flaws := rfl
@[simp] theorem State.onTeam_cores (n : Nat) (f : Team → Team) : (s.onTeam n f).cores = s.cores := rfl
@[simp] theorem State.onTeam_clusters (n : Nat) (f : Team → Team) : (s.onTeam n f).clusters = s.clusters := rfl
@[simp] theorem State.onTeam_dies (n : Nat) (f : Team → Team) : (s.onTeam n f).dies = s.dies := rfl
@[simp] theorem State.onTeam_contexts (n : Nat) (f : Team → Team) : (s.onTeam n f).contexts = s.contexts := rfl
@[simp] theorem State.onTeam_tasks (n : Nat) (f : Team → Team) : (s.onTeam n f).tasks = s.tasks := rfl
@[simp] theorem State.onTeam_nextTask (n : Nat) (f : Team → Team) : (s.onTeam n f).nextTask = s.nextTask := rfl
@[simp] theorem State.onTeam_nextTeam (n : Nat) (f : Team → Team) : (s.onTeam n f).nextTeam = s.nextTeam := rfl
@[simp] theorem State.onTeam_bells (n : Nat) (f : Team → Team) : (s.onTeam n f).bells = s.bells := rfl
@[simp] theorem State.onTeam_moves (n : Nat) (f : Team → Team) : (s.onTeam n f).moves = s.moves := rfl
@[simp] theorem State.onTeam_bulks (n : Nat) (f : Team → Team) : (s.onTeam n f).bulks = s.bulks := rfl
@[simp] theorem State.onTeam_counted (n : Nat) (f : Team → Team) : (s.onTeam n f).counted = s.counted := rfl
@[simp] theorem State.onTeam_snaps (n : Nat) (f : Team → Team) : (s.onTeam n f).snaps = s.snaps := rfl
@[simp] theorem State.onTeam_moved (n : Nat) (f : Team → Team) : (s.onTeam n f).moved = s.moved := rfl
@[simp] theorem State.onTeam_watches (n : Nat) (f : Team → Team) : (s.onTeam n f).watches = s.watches := rfl
@[simp] theorem State.onTeam_mended (n : Nat) (f : Team → Team) : (s.onTeam n f).mended = s.mended := rfl
@[simp] theorem State.onTeam_objects (n : Nat) (f : Team → Team) : (s.onTeam n f).objects = s.objects := rfl
@[simp] theorem State.onTeam_freeFrames (n : Nat) (f : Team → Team) : (s.onTeam n f).freeFrames = s.freeFrames := rfl
@[simp] theorem State.onTeam_preempts (n : Nat) (f : Team → Team) : (s.onTeam n f).preempts = s.preempts := rfl
@[simp] theorem State.onTeam_keys (n : Nat) (f : Team → Team) : (s.onTeam n f).keys = s.keys := rfl
@[simp] theorem State.onTeam_keyOp (n : Nat) (f : Team → Team) : (s.onTeam n f).keyOp = s.keyOp := rfl
@[simp] theorem State.onTeam_keyKid (n : Nat) (f : Team → Team) : (s.onTeam n f).keyKid = s.keyKid := rfl
@[simp] theorem State.onTeam_keyFor (n : Nat) (f : Team → Team) : (s.onTeam n f).keyFor = s.keyFor := rfl
@[simp] theorem State.onTeam_keyBusy (n : Nat) (f : Team → Team) : (s.onTeam n f).keyBusy = s.keyBusy := rfl
@[simp] theorem State.onTeam_keyLive (n : Nat) (f : Team → Team) : (s.onTeam n f).keyLive = s.keyLive := rfl
@[simp] theorem State.onTeam_keyData (n : Nat) (f : Team → Team) : (s.onTeam n f).keyData = s.keyData := rfl
@[simp] theorem State.onTeam_keyStart (n : Nat) (f : Team → Team) : (s.onTeam n f).keyStart = s.keyStart := rfl
@[simp] theorem State.onTeam_plim (n : Nat) (f : Team → Team) : (s.onTeam n f).plim = s.plim := rfl
@[simp] theorem State.onTeam_plimNow (n : Nat) (f : Team → Team) : (s.onTeam n f).plimNow = s.plimNow := rfl
@[simp] theorem State.onTeam_pwr (n : Nat) (f : Team → Team) : (s.onTeam n f).pwr = s.pwr := rfl
@[simp] theorem State.onTeam_icore (n : Nat) (f : Team → Team) : (s.onTeam n f).icore = s.icore := rfl
@[simp] theorem State.onTeam_vcore (n : Nat) (f : Team → Team) : (s.onTeam n f).vcore = s.vcore := rfl
@[simp] theorem State.onTeam_gating (n : Nat) (f : Team → Team) : (s.onTeam n f).gating = s.gating := rfl
@[simp] theorem State.onTeam_tmax (n : Nat) (f : Team → Team) : (s.onTeam n f).tmax = s.tmax := rfl
@[simp] theorem State.onTeam_energy (n : Nat) (f : Team → Team) : (s.onTeam n f).energy = s.energy := rfl
@[simp] theorem State.onTeam_hot (n : Nat) (f : Team → Team) : (s.onTeam n f).hot = s.hot := rfl
@[simp] theorem State.onTeam_lowFor (n : Nat) (f : Team → Team) : (s.onTeam n f).lowFor = s.lowFor := rfl
@[simp] theorem State.onTeam_overFor (n : Nat) (f : Team → Team) : (s.onTeam n f).overFor = s.overFor := rfl
@[simp] theorem State.onTeam_vfmap (n : Nat) (f : Team → Team) : (s.onTeam n f).vfmap = s.vfmap := rfl
@[simp] theorem State.onTeam_hwbase (n : Nat) (f : Team → Team) : (s.onTeam n f).hwbase = s.hwbase := rfl
@[simp] theorem State.onTeam_pkgid (n : Nat) (f : Team → Team) : (s.onTeam n f).pkgid = s.pkgid := rfl
@[simp] theorem State.onTeam_pkgSet (n : Nat) (f : Team → Team) : (s.onTeam n f).pkgSet = s.pkgSet := rfl
@[simp] theorem State.onTeam_bar4 (n : Nat) (f : Team → Team) : (s.onTeam n f).bar4 = s.bar4 := rfl
@[simp] theorem State.onTeam_image (n : Nat) (f : Team → Team) : (s.onTeam n f).image = s.image := rfl
@[simp] theorem State.onTeam_boot (n : Nat) (f : Team → Team) : (s.onTeam n f).boot = s.boot := rfl
@[simp] theorem State.onTeam_ecok (n : Nat) (f : Team → Team) : (s.onTeam n f).ecok = s.ecok := rfl
@[simp] theorem State.onTeam_lmok (n : Nat) (f : Team → Team) : (s.onTeam n f).lmok = s.lmok := rfl
@[simp] theorem State.onTeam_rbok (n : Nat) (f : Team → Team) : (s.onTeam n f).rbok = s.rbok := rfl
@[simp] theorem State.onTeam_rbcnt (n : Nat) (f : Team → Team) : (s.onTeam n f).rbcnt = s.rbcnt := rfl
@[simp] theorem State.onTeam_uciDown (n : Nat) (f : Team → Team) : (s.onTeam n f).uciDown = s.uciDown := rfl
@[simp] theorem State.onTeam_uaDown (n : Nat) (f : Team → Team) : (s.onTeam n f).uaDown = s.uaDown := rfl
@[simp] theorem State.onTeam_cxlDown (n : Nat) (f : Team → Team) : (s.onTeam n f).cxlDown = s.cxlDown := rfl
@[simp] theorem State.onTeam_pcieDown (n : Nat) (f : Team → Team) : (s.onTeam n f).pcieDown = s.pcieDown := rfl
@[simp] theorem State.onTeam_railsOff (n : Nat) (f : Team → Team) : (s.onTeam n f).railsOff = s.railsOff := rfl
@[simp] theorem State.onTeam_aer (n : Nat) (f : Team → Team) : (s.onTeam n f).aer = s.aer := rfl
@[simp] theorem State.onTeam_hostReply (n : Nat) (f : Team → Team) : (s.onTeam n f).hostReply = s.hostReply := rfl
@[simp] theorem State.onTeam_hostPoison (n : Nat) (f : Team → Team) : (s.onTeam n f).hostPoison = s.hostPoison := rfl

/-! ## tick -/

@[simp] theorem State.tick_cycle : (s.tick).cycle = s.cycle := rfl
@[simp] theorem State.tick_agenda : (s.tick).agenda = s.agenda := rfl
@[simp] theorem State.tick_cur : (s.tick).cur = s.cur := rfl
@[simp] theorem State.tick_inputs : (s.tick).inputs = s.inputs := rfl
@[simp] theorem State.tick_mem : (s.tick).mem = s.mem := rfl
@[simp] theorem State.tick_poisoned : (s.tick).poisoned = s.poisoned := rfl
@[simp] theorem State.tick_failing : (s.tick).failing = s.failing := rfl
@[simp] theorem State.tick_checks : (s.tick).checks = s.checks := rfl
@[simp] theorem State.tick_scrubbed : (s.tick).scrubbed = s.scrubbed := rfl
@[simp] theorem State.tick_lineKeys : (s.tick).lineKeys = s.lineKeys := rfl
@[simp] theorem State.tick_behind : (s.tick).behind = s.behind := rfl
@[simp] theorem State.tick_policy : (s.tick).policy = s.policy := rfl
@[simp] theorem State.tick_flaws : (s.tick).flaws = s.flaws := rfl
@[simp] theorem State.tick_cores : (s.tick).cores = s.cores := rfl
@[simp] theorem State.tick_clusters : (s.tick).clusters = s.clusters := rfl
@[simp] theorem State.tick_dies : (s.tick).dies = s.dies := rfl
@[simp] theorem State.tick_contexts : (s.tick).contexts = s.contexts := rfl
@[simp] theorem State.tick_tasks : (s.tick).tasks = s.tasks := rfl
@[simp] theorem State.tick_teams : (s.tick).teams = s.teams := rfl
@[simp] theorem State.tick_nextTask : (s.tick).nextTask = s.nextTask := rfl
@[simp] theorem State.tick_nextTeam : (s.tick).nextTeam = s.nextTeam := rfl
@[simp] theorem State.tick_bells : (s.tick).bells = s.bells := rfl
@[simp] theorem State.tick_moves : (s.tick).moves = s.moves := rfl
@[simp] theorem State.tick_bulks : (s.tick).bulks = s.bulks := rfl
@[simp] theorem State.tick_counted : (s.tick).counted = s.counted := rfl
@[simp] theorem State.tick_snaps : (s.tick).snaps = s.snaps := rfl
@[simp] theorem State.tick_moved : (s.tick).moved = s.moved := rfl
@[simp] theorem State.tick_watches : (s.tick).watches = s.watches := rfl
@[simp] theorem State.tick_mended : (s.tick).mended = s.mended := rfl
@[simp] theorem State.tick_objects : (s.tick).objects = s.objects := rfl
@[simp] theorem State.tick_freeFrames : (s.tick).freeFrames = s.freeFrames := rfl
@[simp] theorem State.tick_preempts : (s.tick).preempts = s.preempts := rfl
@[simp] theorem State.tick_keys : (s.tick).keys = s.keys := rfl
@[simp] theorem State.tick_keyOp : (s.tick).keyOp = s.keyOp := rfl
@[simp] theorem State.tick_keyKid : (s.tick).keyKid = s.keyKid := rfl
@[simp] theorem State.tick_keyFor : (s.tick).keyFor = s.keyFor := rfl
@[simp] theorem State.tick_keyBusy : (s.tick).keyBusy = s.keyBusy := rfl
@[simp] theorem State.tick_keyLive : (s.tick).keyLive = s.keyLive := rfl
@[simp] theorem State.tick_keyData : (s.tick).keyData = s.keyData := rfl
@[simp] theorem State.tick_keyStart : (s.tick).keyStart = s.keyStart := rfl
@[simp] theorem State.tick_plim : (s.tick).plim = s.plim := rfl
@[simp] theorem State.tick_plimNow : (s.tick).plimNow = s.plimNow := rfl
@[simp] theorem State.tick_pwr : (s.tick).pwr = s.pwr := rfl
@[simp] theorem State.tick_icore : (s.tick).icore = s.icore := rfl
@[simp] theorem State.tick_vcore : (s.tick).vcore = s.vcore := rfl
@[simp] theorem State.tick_gating : (s.tick).gating = s.gating := rfl
@[simp] theorem State.tick_tmax : (s.tick).tmax = s.tmax := rfl
@[simp] theorem State.tick_energy : (s.tick).energy = s.energy := rfl
@[simp] theorem State.tick_hot : (s.tick).hot = s.hot := rfl
@[simp] theorem State.tick_lowFor : (s.tick).lowFor = s.lowFor := rfl
@[simp] theorem State.tick_overFor : (s.tick).overFor = s.overFor := rfl
@[simp] theorem State.tick_vfmap : (s.tick).vfmap = s.vfmap := rfl
@[simp] theorem State.tick_hwbase : (s.tick).hwbase = s.hwbase := rfl
@[simp] theorem State.tick_pkgid : (s.tick).pkgid = s.pkgid := rfl
@[simp] theorem State.tick_pkgSet : (s.tick).pkgSet = s.pkgSet := rfl
@[simp] theorem State.tick_bar4 : (s.tick).bar4 = s.bar4 := rfl
@[simp] theorem State.tick_image : (s.tick).image = s.image := rfl
@[simp] theorem State.tick_boot : (s.tick).boot = s.boot := rfl
@[simp] theorem State.tick_ecok : (s.tick).ecok = s.ecok := rfl
@[simp] theorem State.tick_lmok : (s.tick).lmok = s.lmok := rfl
@[simp] theorem State.tick_rbok : (s.tick).rbok = s.rbok := rfl
@[simp] theorem State.tick_rbcnt : (s.tick).rbcnt = s.rbcnt := rfl
@[simp] theorem State.tick_uciDown : (s.tick).uciDown = s.uciDown := rfl
@[simp] theorem State.tick_uaDown : (s.tick).uaDown = s.uaDown := rfl
@[simp] theorem State.tick_cxlDown : (s.tick).cxlDown = s.cxlDown := rfl
@[simp] theorem State.tick_pcieDown : (s.tick).pcieDown = s.pcieDown := rfl
@[simp] theorem State.tick_railsOff : (s.tick).railsOff = s.railsOff := rfl
@[simp] theorem State.tick_aer : (s.tick).aer = s.aer := rfl
@[simp] theorem State.tick_hostReply : (s.tick).hostReply = s.hostReply := rfl
@[simp] theorem State.tick_hostPoison : (s.tick).hostPoison = s.hostPoison := rfl

/-! ## stall -/

@[simp] theorem State.stall_cycle (w : Cause) (n : Nat) : (stall w n s).cycle = s.cycle := rfl
@[simp] theorem State.stall_agenda (w : Cause) (n : Nat) : (stall w n s).agenda = s.agenda := rfl
@[simp] theorem State.stall_inputs (w : Cause) (n : Nat) : (stall w n s).inputs = s.inputs := rfl
@[simp] theorem State.stall_free (w : Cause) (n : Nat) : (stall w n s).free = s.free := rfl
@[simp] theorem State.stall_mem (w : Cause) (n : Nat) : (stall w n s).mem = s.mem := rfl
@[simp] theorem State.stall_poisoned (w : Cause) (n : Nat) : (stall w n s).poisoned = s.poisoned := rfl
@[simp] theorem State.stall_failing (w : Cause) (n : Nat) : (stall w n s).failing = s.failing := rfl
@[simp] theorem State.stall_checks (w : Cause) (n : Nat) : (stall w n s).checks = s.checks := rfl
@[simp] theorem State.stall_scrubbed (w : Cause) (n : Nat) : (stall w n s).scrubbed = s.scrubbed := rfl
@[simp] theorem State.stall_lineKeys (w : Cause) (n : Nat) : (stall w n s).lineKeys = s.lineKeys := rfl
@[simp] theorem State.stall_behind (w : Cause) (n : Nat) : (stall w n s).behind = s.behind := rfl
@[simp] theorem State.stall_policy (w : Cause) (n : Nat) : (stall w n s).policy = s.policy := rfl
@[simp] theorem State.stall_flaws (w : Cause) (n : Nat) : (stall w n s).flaws = s.flaws := rfl
@[simp] theorem State.stall_cores (w : Cause) (n : Nat) : (stall w n s).cores = s.cores := rfl
@[simp] theorem State.stall_clusters (w : Cause) (n : Nat) : (stall w n s).clusters = s.clusters := rfl
@[simp] theorem State.stall_dies (w : Cause) (n : Nat) : (stall w n s).dies = s.dies := rfl
@[simp] theorem State.stall_contexts (w : Cause) (n : Nat) : (stall w n s).contexts = s.contexts := rfl
@[simp] theorem State.stall_tasks (w : Cause) (n : Nat) : (stall w n s).tasks = s.tasks := rfl
@[simp] theorem State.stall_teams (w : Cause) (n : Nat) : (stall w n s).teams = s.teams := rfl
@[simp] theorem State.stall_nextTask (w : Cause) (n : Nat) : (stall w n s).nextTask = s.nextTask := rfl
@[simp] theorem State.stall_nextTeam (w : Cause) (n : Nat) : (stall w n s).nextTeam = s.nextTeam := rfl
@[simp] theorem State.stall_bells (w : Cause) (n : Nat) : (stall w n s).bells = s.bells := rfl
@[simp] theorem State.stall_moves (w : Cause) (n : Nat) : (stall w n s).moves = s.moves := rfl
@[simp] theorem State.stall_bulks (w : Cause) (n : Nat) : (stall w n s).bulks = s.bulks := rfl
@[simp] theorem State.stall_counted (w : Cause) (n : Nat) : (stall w n s).counted = s.counted := rfl
@[simp] theorem State.stall_snaps (w : Cause) (n : Nat) : (stall w n s).snaps = s.snaps := rfl
@[simp] theorem State.stall_moved (w : Cause) (n : Nat) : (stall w n s).moved = s.moved := rfl
@[simp] theorem State.stall_watches (w : Cause) (n : Nat) : (stall w n s).watches = s.watches := rfl
@[simp] theorem State.stall_mended (w : Cause) (n : Nat) : (stall w n s).mended = s.mended := rfl
@[simp] theorem State.stall_objects (w : Cause) (n : Nat) : (stall w n s).objects = s.objects := rfl
@[simp] theorem State.stall_freeFrames (w : Cause) (n : Nat) : (stall w n s).freeFrames = s.freeFrames := rfl
@[simp] theorem State.stall_preempts (w : Cause) (n : Nat) : (stall w n s).preempts = s.preempts := rfl
@[simp] theorem State.stall_keys (w : Cause) (n : Nat) : (stall w n s).keys = s.keys := rfl
@[simp] theorem State.stall_keyOp (w : Cause) (n : Nat) : (stall w n s).keyOp = s.keyOp := rfl
@[simp] theorem State.stall_keyKid (w : Cause) (n : Nat) : (stall w n s).keyKid = s.keyKid := rfl
@[simp] theorem State.stall_keyFor (w : Cause) (n : Nat) : (stall w n s).keyFor = s.keyFor := rfl
@[simp] theorem State.stall_keyBusy (w : Cause) (n : Nat) : (stall w n s).keyBusy = s.keyBusy := rfl
@[simp] theorem State.stall_keyLive (w : Cause) (n : Nat) : (stall w n s).keyLive = s.keyLive := rfl
@[simp] theorem State.stall_keyData (w : Cause) (n : Nat) : (stall w n s).keyData = s.keyData := rfl
@[simp] theorem State.stall_keyStart (w : Cause) (n : Nat) : (stall w n s).keyStart = s.keyStart := rfl
@[simp] theorem State.stall_plim (w : Cause) (n : Nat) : (stall w n s).plim = s.plim := rfl
@[simp] theorem State.stall_plimNow (w : Cause) (n : Nat) : (stall w n s).plimNow = s.plimNow := rfl
@[simp] theorem State.stall_pwr (w : Cause) (n : Nat) : (stall w n s).pwr = s.pwr := rfl
@[simp] theorem State.stall_icore (w : Cause) (n : Nat) : (stall w n s).icore = s.icore := rfl
@[simp] theorem State.stall_vcore (w : Cause) (n : Nat) : (stall w n s).vcore = s.vcore := rfl
@[simp] theorem State.stall_gating (w : Cause) (n : Nat) : (stall w n s).gating = s.gating := rfl
@[simp] theorem State.stall_tmax (w : Cause) (n : Nat) : (stall w n s).tmax = s.tmax := rfl
@[simp] theorem State.stall_energy (w : Cause) (n : Nat) : (stall w n s).energy = s.energy := rfl
@[simp] theorem State.stall_hot (w : Cause) (n : Nat) : (stall w n s).hot = s.hot := rfl
@[simp] theorem State.stall_lowFor (w : Cause) (n : Nat) : (stall w n s).lowFor = s.lowFor := rfl
@[simp] theorem State.stall_overFor (w : Cause) (n : Nat) : (stall w n s).overFor = s.overFor := rfl
@[simp] theorem State.stall_vfmap (w : Cause) (n : Nat) : (stall w n s).vfmap = s.vfmap := rfl
@[simp] theorem State.stall_hwbase (w : Cause) (n : Nat) : (stall w n s).hwbase = s.hwbase := rfl
@[simp] theorem State.stall_pkgid (w : Cause) (n : Nat) : (stall w n s).pkgid = s.pkgid := rfl
@[simp] theorem State.stall_pkgSet (w : Cause) (n : Nat) : (stall w n s).pkgSet = s.pkgSet := rfl
@[simp] theorem State.stall_bar4 (w : Cause) (n : Nat) : (stall w n s).bar4 = s.bar4 := rfl
@[simp] theorem State.stall_image (w : Cause) (n : Nat) : (stall w n s).image = s.image := rfl
@[simp] theorem State.stall_boot (w : Cause) (n : Nat) : (stall w n s).boot = s.boot := rfl
@[simp] theorem State.stall_ecok (w : Cause) (n : Nat) : (stall w n s).ecok = s.ecok := rfl
@[simp] theorem State.stall_lmok (w : Cause) (n : Nat) : (stall w n s).lmok = s.lmok := rfl
@[simp] theorem State.stall_rbok (w : Cause) (n : Nat) : (stall w n s).rbok = s.rbok := rfl
@[simp] theorem State.stall_rbcnt (w : Cause) (n : Nat) : (stall w n s).rbcnt = s.rbcnt := rfl
@[simp] theorem State.stall_uciDown (w : Cause) (n : Nat) : (stall w n s).uciDown = s.uciDown := rfl
@[simp] theorem State.stall_uaDown (w : Cause) (n : Nat) : (stall w n s).uaDown = s.uaDown := rfl
@[simp] theorem State.stall_cxlDown (w : Cause) (n : Nat) : (stall w n s).cxlDown = s.cxlDown := rfl
@[simp] theorem State.stall_pcieDown (w : Cause) (n : Nat) : (stall w n s).pcieDown = s.pcieDown := rfl
@[simp] theorem State.stall_railsOff (w : Cause) (n : Nat) : (stall w n s).railsOff = s.railsOff := rfl
@[simp] theorem State.stall_aer (w : Cause) (n : Nat) : (stall w n s).aer = s.aer := rfl
@[simp] theorem State.stall_hostReply (w : Cause) (n : Nat) : (stall w n s).hostReply = s.hostReply := rfl
@[simp] theorem State.stall_hostPoison (w : Cause) (n : Nat) : (stall w n s).hostPoison = s.hostPoison := rfl

/-! ## takes -/

@[simp] theorem State.takes_cycle (t : Turn) (l : List Turn) : (s.takes t l).cycle = s.cycle := rfl
@[simp] theorem State.takes_inputs (t : Turn) (l : List Turn) : (s.takes t l).inputs = s.inputs := rfl
@[simp] theorem State.takes_free (t : Turn) (l : List Turn) : (s.takes t l).free = s.free := rfl
@[simp] theorem State.takes_mem (t : Turn) (l : List Turn) : (s.takes t l).mem = s.mem := rfl
@[simp] theorem State.takes_poisoned (t : Turn) (l : List Turn) : (s.takes t l).poisoned = s.poisoned := rfl
@[simp] theorem State.takes_failing (t : Turn) (l : List Turn) : (s.takes t l).failing = s.failing := rfl
@[simp] theorem State.takes_checks (t : Turn) (l : List Turn) : (s.takes t l).checks = s.checks := rfl
@[simp] theorem State.takes_scrubbed (t : Turn) (l : List Turn) : (s.takes t l).scrubbed = s.scrubbed := rfl
@[simp] theorem State.takes_lineKeys (t : Turn) (l : List Turn) : (s.takes t l).lineKeys = s.lineKeys := rfl
@[simp] theorem State.takes_behind (t : Turn) (l : List Turn) : (s.takes t l).behind = s.behind := rfl
@[simp] theorem State.takes_policy (t : Turn) (l : List Turn) : (s.takes t l).policy = s.policy := rfl
@[simp] theorem State.takes_flaws (t : Turn) (l : List Turn) : (s.takes t l).flaws = s.flaws := rfl
@[simp] theorem State.takes_cores (t : Turn) (l : List Turn) : (s.takes t l).cores = s.cores := rfl
@[simp] theorem State.takes_clusters (t : Turn) (l : List Turn) : (s.takes t l).clusters = s.clusters := rfl
@[simp] theorem State.takes_dies (t : Turn) (l : List Turn) : (s.takes t l).dies = s.dies := rfl
@[simp] theorem State.takes_contexts (t : Turn) (l : List Turn) : (s.takes t l).contexts = s.contexts := rfl
@[simp] theorem State.takes_tasks (t : Turn) (l : List Turn) : (s.takes t l).tasks = s.tasks := rfl
@[simp] theorem State.takes_teams (t : Turn) (l : List Turn) : (s.takes t l).teams = s.teams := rfl
@[simp] theorem State.takes_nextTask (t : Turn) (l : List Turn) : (s.takes t l).nextTask = s.nextTask := rfl
@[simp] theorem State.takes_nextTeam (t : Turn) (l : List Turn) : (s.takes t l).nextTeam = s.nextTeam := rfl
@[simp] theorem State.takes_bells (t : Turn) (l : List Turn) : (s.takes t l).bells = s.bells := rfl
@[simp] theorem State.takes_moves (t : Turn) (l : List Turn) : (s.takes t l).moves = s.moves := rfl
@[simp] theorem State.takes_bulks (t : Turn) (l : List Turn) : (s.takes t l).bulks = s.bulks := rfl
@[simp] theorem State.takes_counted (t : Turn) (l : List Turn) : (s.takes t l).counted = s.counted := rfl
@[simp] theorem State.takes_snaps (t : Turn) (l : List Turn) : (s.takes t l).snaps = s.snaps := rfl
@[simp] theorem State.takes_moved (t : Turn) (l : List Turn) : (s.takes t l).moved = s.moved := rfl
@[simp] theorem State.takes_watches (t : Turn) (l : List Turn) : (s.takes t l).watches = s.watches := rfl
@[simp] theorem State.takes_mended (t : Turn) (l : List Turn) : (s.takes t l).mended = s.mended := rfl
@[simp] theorem State.takes_objects (t : Turn) (l : List Turn) : (s.takes t l).objects = s.objects := rfl
@[simp] theorem State.takes_freeFrames (t : Turn) (l : List Turn) : (s.takes t l).freeFrames = s.freeFrames := rfl
@[simp] theorem State.takes_preempts (t : Turn) (l : List Turn) : (s.takes t l).preempts = s.preempts := rfl
@[simp] theorem State.takes_keys (t : Turn) (l : List Turn) : (s.takes t l).keys = s.keys := rfl
@[simp] theorem State.takes_keyOp (t : Turn) (l : List Turn) : (s.takes t l).keyOp = s.keyOp := rfl
@[simp] theorem State.takes_keyKid (t : Turn) (l : List Turn) : (s.takes t l).keyKid = s.keyKid := rfl
@[simp] theorem State.takes_keyFor (t : Turn) (l : List Turn) : (s.takes t l).keyFor = s.keyFor := rfl
@[simp] theorem State.takes_keyBusy (t : Turn) (l : List Turn) : (s.takes t l).keyBusy = s.keyBusy := rfl
@[simp] theorem State.takes_keyLive (t : Turn) (l : List Turn) : (s.takes t l).keyLive = s.keyLive := rfl
@[simp] theorem State.takes_keyData (t : Turn) (l : List Turn) : (s.takes t l).keyData = s.keyData := rfl
@[simp] theorem State.takes_keyStart (t : Turn) (l : List Turn) : (s.takes t l).keyStart = s.keyStart := rfl
@[simp] theorem State.takes_plim (t : Turn) (l : List Turn) : (s.takes t l).plim = s.plim := rfl
@[simp] theorem State.takes_plimNow (t : Turn) (l : List Turn) : (s.takes t l).plimNow = s.plimNow := rfl
@[simp] theorem State.takes_pwr (t : Turn) (l : List Turn) : (s.takes t l).pwr = s.pwr := rfl
@[simp] theorem State.takes_icore (t : Turn) (l : List Turn) : (s.takes t l).icore = s.icore := rfl
@[simp] theorem State.takes_vcore (t : Turn) (l : List Turn) : (s.takes t l).vcore = s.vcore := rfl
@[simp] theorem State.takes_gating (t : Turn) (l : List Turn) : (s.takes t l).gating = s.gating := rfl
@[simp] theorem State.takes_tmax (t : Turn) (l : List Turn) : (s.takes t l).tmax = s.tmax := rfl
@[simp] theorem State.takes_energy (t : Turn) (l : List Turn) : (s.takes t l).energy = s.energy := rfl
@[simp] theorem State.takes_hot (t : Turn) (l : List Turn) : (s.takes t l).hot = s.hot := rfl
@[simp] theorem State.takes_lowFor (t : Turn) (l : List Turn) : (s.takes t l).lowFor = s.lowFor := rfl
@[simp] theorem State.takes_overFor (t : Turn) (l : List Turn) : (s.takes t l).overFor = s.overFor := rfl
@[simp] theorem State.takes_vfmap (t : Turn) (l : List Turn) : (s.takes t l).vfmap = s.vfmap := rfl
@[simp] theorem State.takes_hwbase (t : Turn) (l : List Turn) : (s.takes t l).hwbase = s.hwbase := rfl
@[simp] theorem State.takes_pkgid (t : Turn) (l : List Turn) : (s.takes t l).pkgid = s.pkgid := rfl
@[simp] theorem State.takes_pkgSet (t : Turn) (l : List Turn) : (s.takes t l).pkgSet = s.pkgSet := rfl
@[simp] theorem State.takes_bar4 (t : Turn) (l : List Turn) : (s.takes t l).bar4 = s.bar4 := rfl
@[simp] theorem State.takes_image (t : Turn) (l : List Turn) : (s.takes t l).image = s.image := rfl
@[simp] theorem State.takes_boot (t : Turn) (l : List Turn) : (s.takes t l).boot = s.boot := rfl
@[simp] theorem State.takes_ecok (t : Turn) (l : List Turn) : (s.takes t l).ecok = s.ecok := rfl
@[simp] theorem State.takes_lmok (t : Turn) (l : List Turn) : (s.takes t l).lmok = s.lmok := rfl
@[simp] theorem State.takes_rbok (t : Turn) (l : List Turn) : (s.takes t l).rbok = s.rbok := rfl
@[simp] theorem State.takes_rbcnt (t : Turn) (l : List Turn) : (s.takes t l).rbcnt = s.rbcnt := rfl
@[simp] theorem State.takes_uciDown (t : Turn) (l : List Turn) : (s.takes t l).uciDown = s.uciDown := rfl
@[simp] theorem State.takes_uaDown (t : Turn) (l : List Turn) : (s.takes t l).uaDown = s.uaDown := rfl
@[simp] theorem State.takes_cxlDown (t : Turn) (l : List Turn) : (s.takes t l).cxlDown = s.cxlDown := rfl
@[simp] theorem State.takes_pcieDown (t : Turn) (l : List Turn) : (s.takes t l).pcieDown = s.pcieDown := rfl
@[simp] theorem State.takes_railsOff (t : Turn) (l : List Turn) : (s.takes t l).railsOff = s.railsOff := rfl
@[simp] theorem State.takes_aer (t : Turn) (l : List Turn) : (s.takes t l).aer = s.aer := rfl
@[simp] theorem State.takes_hostReply (t : Turn) (l : List Turn) : (s.takes t l).hostReply = s.hostReply := rfl
@[simp] theorem State.takes_hostPoison (t : Turn) (l : List Turn) : (s.takes t l).hostPoison = s.hostPoison := rfl

/-! ## issuing -/

@[simp] theorem State.issuing_cycle (i : Instr) (n : Nat) : (s.issuing i n).cycle = s.cycle := rfl
@[simp] theorem State.issuing_agenda (i : Instr) (n : Nat) : (s.issuing i n).agenda = s.agenda := rfl
@[simp] theorem State.issuing_inputs (i : Instr) (n : Nat) : (s.issuing i n).inputs = s.inputs := rfl
@[simp] theorem State.issuing_free (i : Instr) (n : Nat) : (s.issuing i n).free = s.free := rfl
@[simp] theorem State.issuing_mem (i : Instr) (n : Nat) : (s.issuing i n).mem = s.mem := rfl
@[simp] theorem State.issuing_poisoned (i : Instr) (n : Nat) : (s.issuing i n).poisoned = s.poisoned := rfl
@[simp] theorem State.issuing_failing (i : Instr) (n : Nat) : (s.issuing i n).failing = s.failing := rfl
@[simp] theorem State.issuing_checks (i : Instr) (n : Nat) : (s.issuing i n).checks = s.checks := rfl
@[simp] theorem State.issuing_scrubbed (i : Instr) (n : Nat) : (s.issuing i n).scrubbed = s.scrubbed := rfl
@[simp] theorem State.issuing_lineKeys (i : Instr) (n : Nat) : (s.issuing i n).lineKeys = s.lineKeys := rfl
@[simp] theorem State.issuing_behind (i : Instr) (n : Nat) : (s.issuing i n).behind = s.behind := rfl
@[simp] theorem State.issuing_policy (i : Instr) (n : Nat) : (s.issuing i n).policy = s.policy := rfl
@[simp] theorem State.issuing_flaws (i : Instr) (n : Nat) : (s.issuing i n).flaws = s.flaws := rfl
@[simp] theorem State.issuing_cores (i : Instr) (n : Nat) : (s.issuing i n).cores = s.cores := rfl
@[simp] theorem State.issuing_clusters (i : Instr) (n : Nat) : (s.issuing i n).clusters = s.clusters := rfl
@[simp] theorem State.issuing_dies (i : Instr) (n : Nat) : (s.issuing i n).dies = s.dies := rfl
@[simp] theorem State.issuing_contexts (i : Instr) (n : Nat) : (s.issuing i n).contexts = s.contexts := rfl
@[simp] theorem State.issuing_tasks (i : Instr) (n : Nat) : (s.issuing i n).tasks = s.tasks := rfl
@[simp] theorem State.issuing_teams (i : Instr) (n : Nat) : (s.issuing i n).teams = s.teams := rfl
@[simp] theorem State.issuing_nextTask (i : Instr) (n : Nat) : (s.issuing i n).nextTask = s.nextTask := rfl
@[simp] theorem State.issuing_nextTeam (i : Instr) (n : Nat) : (s.issuing i n).nextTeam = s.nextTeam := rfl
@[simp] theorem State.issuing_bells (i : Instr) (n : Nat) : (s.issuing i n).bells = s.bells := rfl
@[simp] theorem State.issuing_moves (i : Instr) (n : Nat) : (s.issuing i n).moves = s.moves := rfl
@[simp] theorem State.issuing_bulks (i : Instr) (n : Nat) : (s.issuing i n).bulks = s.bulks := rfl
@[simp] theorem State.issuing_counted (i : Instr) (n : Nat) : (s.issuing i n).counted = s.counted := rfl
@[simp] theorem State.issuing_snaps (i : Instr) (n : Nat) : (s.issuing i n).snaps = s.snaps := rfl
@[simp] theorem State.issuing_moved (i : Instr) (n : Nat) : (s.issuing i n).moved = s.moved := rfl
@[simp] theorem State.issuing_watches (i : Instr) (n : Nat) : (s.issuing i n).watches = s.watches := rfl
@[simp] theorem State.issuing_mended (i : Instr) (n : Nat) : (s.issuing i n).mended = s.mended := rfl
@[simp] theorem State.issuing_objects (i : Instr) (n : Nat) : (s.issuing i n).objects = s.objects := rfl
@[simp] theorem State.issuing_freeFrames (i : Instr) (n : Nat) : (s.issuing i n).freeFrames = s.freeFrames := rfl
@[simp] theorem State.issuing_preempts (i : Instr) (n : Nat) : (s.issuing i n).preempts = s.preempts := rfl
@[simp] theorem State.issuing_keys (i : Instr) (n : Nat) : (s.issuing i n).keys = s.keys := rfl
@[simp] theorem State.issuing_keyOp (i : Instr) (n : Nat) : (s.issuing i n).keyOp = s.keyOp := rfl
@[simp] theorem State.issuing_keyKid (i : Instr) (n : Nat) : (s.issuing i n).keyKid = s.keyKid := rfl
@[simp] theorem State.issuing_keyFor (i : Instr) (n : Nat) : (s.issuing i n).keyFor = s.keyFor := rfl
@[simp] theorem State.issuing_keyBusy (i : Instr) (n : Nat) : (s.issuing i n).keyBusy = s.keyBusy := rfl
@[simp] theorem State.issuing_keyLive (i : Instr) (n : Nat) : (s.issuing i n).keyLive = s.keyLive := rfl
@[simp] theorem State.issuing_keyData (i : Instr) (n : Nat) : (s.issuing i n).keyData = s.keyData := rfl
@[simp] theorem State.issuing_keyStart (i : Instr) (n : Nat) : (s.issuing i n).keyStart = s.keyStart := rfl
@[simp] theorem State.issuing_plim (i : Instr) (n : Nat) : (s.issuing i n).plim = s.plim := rfl
@[simp] theorem State.issuing_plimNow (i : Instr) (n : Nat) : (s.issuing i n).plimNow = s.plimNow := rfl
@[simp] theorem State.issuing_pwr (i : Instr) (n : Nat) : (s.issuing i n).pwr = s.pwr := rfl
@[simp] theorem State.issuing_icore (i : Instr) (n : Nat) : (s.issuing i n).icore = s.icore := rfl
@[simp] theorem State.issuing_vcore (i : Instr) (n : Nat) : (s.issuing i n).vcore = s.vcore := rfl
@[simp] theorem State.issuing_gating (i : Instr) (n : Nat) : (s.issuing i n).gating = s.gating := rfl
@[simp] theorem State.issuing_tmax (i : Instr) (n : Nat) : (s.issuing i n).tmax = s.tmax := rfl
@[simp] theorem State.issuing_energy (i : Instr) (n : Nat) : (s.issuing i n).energy = s.energy := rfl
@[simp] theorem State.issuing_hot (i : Instr) (n : Nat) : (s.issuing i n).hot = s.hot := rfl
@[simp] theorem State.issuing_lowFor (i : Instr) (n : Nat) : (s.issuing i n).lowFor = s.lowFor := rfl
@[simp] theorem State.issuing_overFor (i : Instr) (n : Nat) : (s.issuing i n).overFor = s.overFor := rfl
@[simp] theorem State.issuing_vfmap (i : Instr) (n : Nat) : (s.issuing i n).vfmap = s.vfmap := rfl
@[simp] theorem State.issuing_hwbase (i : Instr) (n : Nat) : (s.issuing i n).hwbase = s.hwbase := rfl
@[simp] theorem State.issuing_pkgid (i : Instr) (n : Nat) : (s.issuing i n).pkgid = s.pkgid := rfl
@[simp] theorem State.issuing_pkgSet (i : Instr) (n : Nat) : (s.issuing i n).pkgSet = s.pkgSet := rfl
@[simp] theorem State.issuing_bar4 (i : Instr) (n : Nat) : (s.issuing i n).bar4 = s.bar4 := rfl
@[simp] theorem State.issuing_image (i : Instr) (n : Nat) : (s.issuing i n).image = s.image := rfl
@[simp] theorem State.issuing_boot (i : Instr) (n : Nat) : (s.issuing i n).boot = s.boot := rfl
@[simp] theorem State.issuing_ecok (i : Instr) (n : Nat) : (s.issuing i n).ecok = s.ecok := rfl
@[simp] theorem State.issuing_lmok (i : Instr) (n : Nat) : (s.issuing i n).lmok = s.lmok := rfl
@[simp] theorem State.issuing_rbok (i : Instr) (n : Nat) : (s.issuing i n).rbok = s.rbok := rfl
@[simp] theorem State.issuing_rbcnt (i : Instr) (n : Nat) : (s.issuing i n).rbcnt = s.rbcnt := rfl
@[simp] theorem State.issuing_uciDown (i : Instr) (n : Nat) : (s.issuing i n).uciDown = s.uciDown := rfl
@[simp] theorem State.issuing_uaDown (i : Instr) (n : Nat) : (s.issuing i n).uaDown = s.uaDown := rfl
@[simp] theorem State.issuing_cxlDown (i : Instr) (n : Nat) : (s.issuing i n).cxlDown = s.cxlDown := rfl
@[simp] theorem State.issuing_pcieDown (i : Instr) (n : Nat) : (s.issuing i n).pcieDown = s.pcieDown := rfl
@[simp] theorem State.issuing_railsOff (i : Instr) (n : Nat) : (s.issuing i n).railsOff = s.railsOff := rfl
@[simp] theorem State.issuing_aer (i : Instr) (n : Nat) : (s.issuing i n).aer = s.aer := rfl
@[simp] theorem State.issuing_hostReply (i : Instr) (n : Nat) : (s.issuing i n).hostReply = s.hostReply := rfl
@[simp] theorem State.issuing_hostPoison (i : Instr) (n : Nat) : (s.issuing i n).hostPoison = s.hostPoison := rfl

/-! ## Vectors -/

/-- Reading a vector after one write. -/
theorem vget_set {α : Type} {n : Nat} (v : Vector α n) (i j : Fin n) (x : α) :
    (v.set i.val x i.isLt).get j = if j = i then x else v.get j := by
  show (v.set i.val x i.isLt)[j.val] = if j = i then x else v[j.val]
  rw [Vector.getElem_set]
  simp [Fin.ext_iff, eq_comm]

@[simp] theorem vget_set_self {α : Type} {n : Nat} (v : Vector α n) (i : Fin n) (x : α) :
    (v.set i.val x i.isLt).get i = x := by simp [vget_set]

theorem vget_set_ne {α : Type} {n : Nat} (v : Vector α n) {i j : Fin n} (x : α) (h : j ≠ i) :
    (v.set i.val x i.isLt).get j = v.get j := by simp [vget_set, h]

@[simp] theorem vset_get_self {α : Type} {n : Nat} (v : Vector α n) (i : Fin n) :
    v.set i.val (v.get i) i.isLt = v := by
  show v.set i.val v[i.val] i.isLt = v
  simp

theorem seqIdx_inj {q r : Seq} (h : seqIdx q = seqIdx r) : q = r := by
  cases q <;> cases r <;> first | rfl | exact absurd h (by decide)

theorem engIdx_inj {q r : Engine} (h : engIdx q = engIdx r) : q = r := by
  cases q <;> cases r <;> first | rfl | exact absurd h (by decide)

/-! ## Cores -/

@[simp] theorem State.core_putCore_self (c : CoreId) (k : Core) : (s.putCore c k).core c = k := by
  simp [State.core, State.putCore]

theorem State.core_putCore_ne {c d : CoreId} (k : Core) (h : d ≠ c) : (s.putCore c k).core d = s.core d := by
  simp [State.core, State.putCore, vget_set, h]

@[simp] theorem State.core_onDie (d : DieId) (f : Die → Die) (c : CoreId) : (s.onDie d f).core c = s.core c := rfl
@[simp] theorem State.core_onTask (n : Nat) (f : Task → Task) (c : CoreId) : (s.onTask n f).core c = s.core c := rfl
@[simp] theorem State.core_onCtx (n : Nat) (f : Context → Context) (c : CoreId) : (s.onCtx n f).core c = s.core c := rfl
@[simp] theorem State.core_onTeam (n : Nat) (f : Team → Team) (c : CoreId) : (s.onTeam n f).core c = s.core c := rfl
@[simp] theorem State.core_tick (c : CoreId) : s.tick.core c = s.core c := rfl
@[simp] theorem State.core_stall (w : Cause) (n : Nat) (c : CoreId) : (stall w n s).core c = s.core c := rfl

@[simp] theorem State.me_onMe (f : Core → Core) : (s.onMe f).me = f s.me := by
  simp [State.onMe, State.onCore, State.me]

theorem State.core_onMe_ne (f : Core → Core) {c : CoreId} (h : c ≠ s.cur.core) : (s.onMe f).core c = s.core c :=
  s.core_putCore_ne _ h

@[simp] theorem State.me_tick : s.tick.me = s.me := rfl
@[simp] theorem State.me_onTask (n : Nat) (f : Task → Task) : (s.onTask n f).me = s.me := rfl
@[simp] theorem State.me_stall (w : Cause) (n : Nat) : (stall w n s).me = s.me := rfl

/-- An update of one core changes nothing but the vector of cores. -/
theorem State.putCore_eq (c : CoreId) (k : Core) : s.putCore c k = { s with cores := (s.putCore c k).cores } := rfl

/-- An update of the acting core changes nothing but the vector of cores. -/
theorem State.onMe_eq (f : Core → Core) : s.onMe f = { s with cores := (s.onMe f).cores } := rfl

theorem State.onMe_onMe (f g : Core → Core) : (s.onMe f).onMe g = s.onMe (g ∘ f) := by
  unfold State.onMe State.onCore State.putCore State.core
  simp [Vector.set_set]

/-! ## Sequencers, engines and tokens of a core -/

@[simp] theorem Core.seq_onSeq_self (k : Core) (q : Seq) (f : Sequencer → Sequencer) :
    (k.onSeq q f).seq q = f (k.seq q) := by
  simp [Core.seq, Core.onSeq]

theorem Core.seq_onSeq_ne (k : Core) {q r : Seq} (f : Sequencer → Sequencer) (h : r ≠ q) :
    (k.onSeq q f).seq r = k.seq r := by
  exact vget_set_ne _ _ fun e => h (seqIdx_inj e)

@[simp] theorem Core.engine_onEngine_self (k : Core) (e : Engine) (f : EngineQ → EngineQ) :
    (k.onEngine e f).engine e = f (k.engine e) := by
  simp [Core.engine, Core.onEngine]

theorem Core.engine_onEngine_ne (k : Core) {e g : Engine} (f : EngineQ → EngineQ) (h : g ≠ e) :
    (k.onEngine e f).engine g = k.engine g := by
  exact vget_set_ne _ _ fun e => h (engIdx_inj e)

@[simp] theorem Core.engine_onSeq (k : Core) (q : Seq) (f : Sequencer → Sequencer) (e : Engine) :
    (k.onSeq q f).engine e = k.engine e := rfl
@[simp] theorem Core.seq_onEngine (k : Core) (e : Engine) (f : EngineQ → EngineQ) (q : Seq) :
    (k.onEngine e f).seq q = k.seq q := rfl

@[simp] theorem Core.tok_onTok_self (k : Core) (q : QReg) (f : Token → Token) :
    (k.onTok q f).tok.get q = f (k.tok.get q) := by
  simp [Core.onTok]

theorem Core.tok_onTok_ne (k : Core) {q r : QReg} (f : Token → Token) (h : r ≠ q) :
    (k.onTok q f).tok.get r = k.tok.get r := by
  simp [Core.onTok, vget_set, h]

end Sys2Proof.Machine
end

