-- ==== Sys2Proof/Laws/Keeps.lean ====
section
/-! SUPPORT. What every shared operation keeps, one lemma for each: memory in its canonical form (log 3), D (R16) and the
fused rollback number (R356). `<operation>_keeps` says it of the state that the operation answers, from any state that
already keeps it against a first one, so the lemmas compose; an operation that takes an action as an argument asks the
same of the action. -/

namespace Sys2Proof.Machine

/-- Memory is as canonical as before. -/
def MemKept (m n : Memory) : Prop := m.wf = true → n.wf = true
/-- From `s` to `t` memory stays canonical, and D and the rollback number are the same. -/
def Kept (s t : State) : Prop := t.gating = s.gating ∧ t.rbcnt = s.rbcnt ∧ MemKept s.mem t.mem

@[simp] theorem MemKept.refl (m : Memory) : MemKept m m := id
theorem MemKept.trans {a b c : Memory} (h : MemKept a b) (g : MemKept b c) : MemKept a c := g ∘ h
@[simp] theorem memKept_wrByte {m n : Memory} (h : MemKept m n) (a : Nat) (v : Byte) : MemKept m (wrByte n a v) := fun w => wrByte_wf (h w) a v
@[simp] theorem memKept_wrBytes {m n : Memory} (h : MemKept m n) (a : Nat) (v : List Byte) : MemKept m (wrBytes n a v) :=
  fun w => wrBytes_wf (h w) a v
@[simp] theorem memKept_wrNat {m n : Memory} (h : MemKept m n) (a k v : Nat) : MemKept m (wrNat n a k v) := fun w => wrNat_wf (h w) a k v
@[simp] theorem memKept_wrCells {m n : Memory} (h : MemKept m n) (cs : Cells) : MemKept m (wrCells n cs) := fun w => wrCells_wf (h w) cs
@[simp] theorem memKept_filter {m n : Memory} (h : MemKept m n) (p : Host.Cell → Bool) : MemKept m (List.filter p n) :=
  fun w => filter_wf p (h w)

@[simp] theorem Kept.refl (s : State) : Kept s s := ⟨rfl, rfl, id⟩
theorem Kept.trans {s t u : State} (h : Kept s t) (g : Kept t u) : Kept s u :=
  ⟨g.1.trans h.1, g.2.1.trans h.2.1, h.2.2.trans g.2.2⟩
@[simp] theorem Kept.gating {s t : State} (h : Kept s t) : (t.gating = s.gating) = True := eq_true h.1
@[simp] theorem Kept.rbcnt {s t : State} (h : Kept s t) : (t.rbcnt = s.rbcnt) = True := eq_true h.2.1
@[simp] theorem Kept.mem {s t : State} (h : Kept s t) : MemKept s.mem t.mem = True := eq_true h.2.2
/-- An update of the other fields. -/
theorem kept_of {s t u : State} (h : Kept s t) (hg : u.gating = t.gating) (hr : u.rbcnt = t.rbcnt) (hm : u.mem = t.mem) : Kept s u :=
  ⟨hg.trans h.1, hr.trans h.2.1, hm ▸ h.2.2⟩
@[simp] theorem kept_ite {s t u : State} {c : Prop} [Decidable c] (h : Kept s t) (g : Kept s u) : Kept s (if c then t else u) := by
  split <;> assumption
@[simp] theorem kept_foldl {α : Type} {f : State → α → State} (hf : ∀ t x, Kept t (f t x)) {s t : State} (h : Kept s t) (l : List α) :
    Kept s (l.foldl f t) := by
  induction l generalizing t with
  | nil => exact h
  | cons x l ih => exact ih (h.trans (hf t x))
/-- A state that an optional value gives, or else another. -/
theorem kept_getD {α : Type} {f : α → State} {s t : State} (hf : ∀ x, Kept s (f x)) (h : Kept s t) (o : Option α) :
    Kept s ((o.map f).getD t) := by
  cases o
  · exact h
  · exact hf _
@[simp] theorem kept_mk {s : State} (cycle : Nat) (agenda : List Turn) (cur : Turn) (inputs : List (Nat × Turn)) (free : Nat) (mem : Memory) (poisoned : List Nat) (failing : SMap Nat) (checks : SMap Nat) (scrubbed : List Nat) (lineKeys : SMap (Nat × Nat)) (behind : SMap Behind) (policy : SMap Nat) (flaws : List Flaw) (cores : Vector Core 288) (clusters : Vector Cluster 36) (dies : Vector Die 4) (contexts : SMap Context) (tasks : SMap Task) (teams : SMap Team) (nextTask : Nat) (nextTeam : Nat) (bells : SMap (Nat × Nat)) (moves : SMap Move) (bulks : SMap Bulk) (counted : List (Nat × List Nat × List Nat)) (snaps : List Snap) (moved : List Nat) (watches : List Watch) (mended : SMap (List Byte)) (objects : SMap PoolObj) (freeFrames : SMap (List Nat)) (preempts : List Preempt) (keys : Vector (Option Nat) 128) (keyOp : Nat) (keyKid : Nat) (keyFor : Nat) (keyBusy : Bool) (keyLive : Bool) (keyData : Nat) (keyStart : Nat) (plim : Dword) (plimNow : Dword) (pwr : BitVec 16) (icore : BitVec 16) (vcore : BitVec 12) (gating : Nat) (tmax : BitVec 8) (energy : Dword) (hot : Bool) (lowFor : Nat) (overFor : Nat) (vfmap : Vector Dword 64) (hwbase : Dword) (pkgid : BitVec 10) (pkgSet : Bool) (bar4 : Nat) (image : Memory) (boot : Nat) (ecok : Bool) (lmok : Bool) (rbok : Bool) (rbcnt : BitVec 8) (uciDown : List (Fin 4)) (uaDown : List (Fin 12)) (cxlDown : List (Fin 2)) (pcieDown : Bool) (railsOff : Bool) (aer : List Nat) (hostReply : List Byte) (hostPoison : Bool) :
    Kept s ⟨cycle, agenda, cur, inputs, free, mem, poisoned, failing, checks, scrubbed, lineKeys, behind, policy, flaws, cores, clusters, dies, contexts, tasks, teams, nextTask, nextTeam, bells, moves, bulks, counted, snaps, moved, watches, mended, objects, freeFrames, preempts, keys, keyOp, keyKid, keyFor, keyBusy, keyLive, keyData, keyStart, plim, plimNow, pwr, icore, vcore, gating, tmax, energy, hot, lowFor, overFor, vfmap, hwbase, pkgid, pkgSet, bar4, image, boot, ecok, lmok, rbok, rbcnt, uciDown, uaDown, cxlDown, pcieDown, railsOff, aer, hostReply, hostPoison⟩ ↔ gating = s.gating ∧ rbcnt = s.rbcnt ∧ MemKept s.mem mem := Iff.rfl

/-! ## The operations of Ops.lean -/

@[simp] theorem putCore_keeps {s0 s : State} (hk0 : Kept s0 s) (c : CoreId) (k : Core) : Kept s0 (State.putCore s c k) :=
  hk0.trans (by simp only [State.putCore]; first | (simp (maxDischargeDepth := 100); done) | ((repeat' split) <;> simp (maxDischargeDepth := 100)))
@[simp] theorem onCore_keeps {s0 s : State} (hk0 : Kept s0 s) (c : CoreId) (f : Core → Core) : Kept s0 (State.onCore s c f) :=
  hk0.trans (by simp only [State.onCore]; first | (simp (maxDischargeDepth := 100); done) | ((repeat' split) <;> simp (maxDischargeDepth := 100)))
@[simp] theorem onMe_keeps {s0 s : State} (hk0 : Kept s0 s) (f : Core → Core) : Kept s0 (State.onMe s f) :=
  hk0.trans (by simp only [State.onMe]; first | (simp (maxDischargeDepth := 100); done) | ((repeat' split) <;> simp (maxDischargeDepth := 100)))
@[simp] theorem onDie_keeps {s0 s : State} (hk0 : Kept s0 s) (d : DieId) (f : Die → Die) : Kept s0 (State.onDie s d f) :=
  hk0.trans (by simp only [State.onDie]; first | (simp (maxDischargeDepth := 100); done) | ((repeat' split) <;> simp (maxDischargeDepth := 100)))
@[simp] theorem onTask_keeps {s0 s : State} (hk0 : Kept s0 s) (t : Nat) (f : Task → Task) : Kept s0 (State.onTask s t f) :=
  hk0.trans (by simp only [State.onTask]; first | (simp (maxDischargeDepth := 100); done) | ((repeat' split) <;> simp (maxDischargeDepth := 100)))
@[simp] theorem onCtx_keeps {s0 s : State} (hk0 : Kept s0 s) (n : Nat) (f : Context → Context) : Kept s0 (State.onCtx s n f) :=
  hk0.trans (by simp only [State.onCtx]; first | (simp (maxDischargeDepth := 100); done) | ((repeat' split) <;> simp (maxDischargeDepth := 100)))
@[simp] theorem onTeam_keeps {s0 s : State} (hk0 : Kept s0 s) (n : Nat) (f : Team → Team) : Kept s0 (State.onTeam s n f) :=
  hk0.trans (by simp only [State.onTeam]; first | (simp (maxDischargeDepth := 100); done) | ((repeat' split) <;> simp (maxDischargeDepth := 100)))
@[simp] theorem advanceBy_keeps {s0 s : State} (hk0 : Kept s0 s) (n : Nat) : Kept s0 (advanceBy n s) :=
  hk0.trans (by simp only [advanceBy]; first | (simp (maxDischargeDepth := 100); done) | ((repeat' split) <;> simp (maxDischargeDepth := 100)))
@[simp] theorem advance_keeps {s0 s : State} (hk0 : Kept s0 s) : Kept s0 (advance s) :=
  hk0.trans (by simp only [advance]; first | (simp (maxDischargeDepth := 100); done) | ((repeat' split) <;> simp (maxDischargeDepth := 100)))
@[simp] theorem stall_keeps {s0 s : State} (hk0 : Kept s0 s) (why : Cause) (sub : Nat) : Kept s0 (stall why sub s) :=
  hk0.trans (by simp only [stall]; first | (simp (maxDischargeDepth := 100); done) | ((repeat' split) <;> simp (maxDischargeDepth := 100)))
@[simp] theorem tick_keeps {s0 s : State} (hk0 : Kept s0 s) : Kept s0 (State.tick s) :=
  hk0.trans (by simp only [State.tick]; first | (simp (maxDischargeDepth := 100); done) | ((repeat' split) <;> simp (maxDischargeDepth := 100)))
@[simp] theorem post_keeps {s0 s : State} (hk0 : Kept s0 s) (d : Dest) (lat : Nat) : Kept s0 (post d lat s) :=
  hk0.trans (by simp only [post]; first | (simp (maxDischargeDepth := 100); done) | ((repeat' split) <;> simp (maxDischargeDepth := 100)))
@[simp] theorem postLater_keeps {s0 s : State} (hk0 : Kept s0 s) (d : Dest) (least : Nat) : Kept s0 (postLater d least s) :=
  hk0.trans (by simp only [postLater]; first | (simp (maxDischargeDepth := 100); done) | ((repeat' split) <;> simp (maxDischargeDepth := 100)))
@[simp] theorem pin_keeps {s0 s : State} (hk0 : Kept s0 s) : Kept s0 (pin s) :=
  hk0.trans (by simp only [pin]; first | (simp (maxDischargeDepth := 100); done) | ((repeat' split) <;> simp (maxDischargeDepth := 100)))
@[simp] theorem raiseOn_keeps {s0 s : State} (hk0 : Kept s0 s) (c : CoreId) (f : Raised) : Kept s0 (raiseOn c f s) :=
  hk0.trans (by simp only [raiseOn]; first | (simp (maxDischargeDepth := 100); done) | ((repeat' split) <;> simp (maxDischargeDepth := 100)))
@[simp] theorem raise_keeps {s0 s : State} (hk0 : Kept s0 s) (cause info0 info1 : Nat) : Kept s0 (raise cause info0 info1 s) :=
  hk0.trans (by simp only [raise]; first | (simp (maxDischargeDepth := 100); done) | ((repeat' split) <;> simp (maxDischargeDepth := 100)))
@[simp] theorem raiseFor_keeps {s0 s : State} (hk0 : Kept s0 s) (c : CoreId) (tid : Nat) (f : Raised) : Kept s0 (raiseFor c tid f s) :=
  hk0.trans (by simp only [raiseFor]; first | (simp (maxDischargeDepth := 100); done) | ((repeat' split) <;> simp (maxDischargeDepth := 100)))
@[simp] theorem raiseCmd_keeps {s0 s : State} (hk0 : Kept s0 s) (e : Engine) (m : Cmd) (cause info0 info1 : Nat) : Kept s0 (raiseCmd e m cause info0 info1 s) :=
  hk0.trans (by simp only [raiseCmd]; first | (simp (maxDischargeDepth := 100); done) | ((repeat' split) <;> simp (maxDischargeDepth := 100)))
@[simp] theorem beneath_keeps {s0 s : State} (hk0 : Kept s0 s) (c : CoreId) (tid : Nat) {act : State → State} (ha : ∀ t, Kept t (act t)) :
    Kept s0 (beneath c tid act s) := by
  unfold beneath
  split
  · exact hk0.trans (ha s)
  · exact putCore_keeps ((putCore_keeps hk0 _ _).trans (ha _)) _ _

/-! ## The operations of Access.lean -/

@[simp] theorem ringPut_keeps {s0 s : State} (hk0 : Kept s0 s) (base ctx : Nat) (bs : List Byte) : Kept s0 (ringPut base ctx bs s) :=
  hk0.trans (by simp only [ringPut]; first | (simp (maxDischargeDepth := 100); done) | ((repeat' split) <;> simp (maxDischargeDepth := 100)))
@[simp] theorem memEntry_keeps {s0 s : State} (hk0 : Kept s0 s) (d : DieId) (kind tier src ctx kid : Nat) (wld : Bool) (count paddr vaddr detail : Nat) : Kept s0 (memEntry d kind tier src ctx kid wld count paddr vaddr detail s) :=
  hk0.trans (by simp only [memEntry]; first | (simp (maxDischargeDepth := 100); done) | ((repeat' split) <;> simp (maxDischargeDepth := 100)))
@[simp] theorem schedEntry_keeps {s0 s : State} (hk0 : Kept s0 s) (d : DieId) (kind sub queue ctx team arg0 arg1 : Nat) : Kept s0 (schedEntry d kind sub queue ctx team arg0 arg1 s) :=
  hk0.trans (by simp only [schedEntry]; first | (simp (maxDischargeDepth := 100); done) | ((repeat' split) <;> simp (maxDischargeDepth := 100)))
@[simp] theorem badBell_keeps {s0 s : State} (hk0 : Kept s0 s) (d : DieId) (off size : Nat) : Kept s0 (badBell d off size s) :=
  hk0.trans (by simp only [badBell]; first | (simp (maxDischargeDepth := 100); done) | ((repeat' split) <;> simp (maxDischargeDepth := 100)))
@[simp] theorem ringCount_keeps {s0 s : State} (hk0 : Kept s0 s) (d : DieId) (off n v : Nat) : Kept s0 (ringCount d off n v s) :=
  hk0.trans (by simp only [ringCount]; first | (simp (maxDischargeDepth := 100); done) | ((repeat' split) <;> simp (maxDischargeDepth := 100)))
@[simp] theorem markLeaf_keeps {s0 s : State} (hk0 : Kept s0 s) (d : DieId) (l : Leaf) (writes : Bool) (lines : Nat) : Kept s0 (markLeaf d l writes lines s) :=
  hk0.trans (by simp only [markLeaf]; first | (simp (maxDischargeDepth := 100); done) | ((repeat' split) <;> simp (maxDischargeDepth := 100)))
@[simp] theorem setLcnt_keeps {s0 s : State} (hk0 : Kept s0 s) (head : Nat) (f : Nat → Nat) : Kept s0 (setLcnt head f s) :=
  hk0.trans (by simp only [setLcnt]; first | (simp (maxDischargeDepth := 100); done) | ((repeat' split) <;> simp (maxDischargeDepth := 100)))

/-! ## The operations of Cache.lean -/

@[simp] theorem onCluster_keeps {s0 s : State} (hk0 : Kept s0 s) (c : CoreId) (f : Cluster → Cluster) : Kept s0 (State.onCluster s c f) :=
  hk0.trans (by simp only [State.onCluster]; first | (simp (maxDischargeDepth := 100); done) | ((repeat' split) <;> simp (maxDischargeDepth := 100)))
@[simp] theorem meetLineOf_keeps {s0 s : State} (hk0 : Kept s0 s) (d : DieId) (ctx va line : Nat) : Kept s0 (meetLineOf d ctx va line s) :=
  hk0.trans (by simp only [meetLineOf]; first | (simp (maxDischargeDepth := 100); done) | ((repeat' split) <;> simp (maxDischargeDepth := 100)))
@[simp] theorem meetLine_keeps {s0 s : State} (hk0 : Kept s0 s) (d : DieId) (line : Nat) : Kept s0 (meetLine d line s) :=
  hk0.trans (by simp only [meetLine]; first | (simp (maxDischargeDepth := 100); done) | ((repeat' split) <;> simp (maxDischargeDepth := 100)))
@[simp] theorem staleLine_keeps {s0 s : State} (hk0 : Kept s0 s) (kid : Option Nat) (line : Nat) : Kept s0 (staleLine kid line s) :=
  hk0.trans (by simp only [staleLine]; first | (simp (maxDischargeDepth := 100); done) | ((repeat' split) <;> simp (maxDischargeDepth := 100)))
@[simp] theorem reachHome_keeps {s0 s : State} (hk0 : Kept s0 s) (d : DieId) (ctx va line : Nat) : Kept s0 (reachHome d ctx va line s) :=
  hk0.trans (by simp only [reachHome]; first | (simp (maxDischargeDepth := 100); done) | ((repeat' split) <;> simp (maxDischargeDepth := 100)))
@[simp] theorem writeBack_keeps {s0 s : State} (hk0 : Kept s0 s) (line : Nat) : Kept s0 (writeBack line s) :=
  hk0.trans (by simp only [writeBack]; first | (simp (maxDischargeDepth := 100); done) | ((repeat' split) <;> simp (maxDischargeDepth := 100)))
@[simp] theorem meetRange_keeps {s0 s : State} (hk0 : Kept s0 s) (d : DieId) (ctx tag : Nat) (va : Nat → Nat) (mine : Nat → Bool) : Kept s0 (meetRange d ctx tag va mine s) :=
  hk0.trans (by simp only [meetRange]; first | (simp (maxDischargeDepth := 100); done) | ((repeat' split) <;> simp (maxDischargeDepth := 100)))
@[simp] theorem noteWrites_keeps {s0 s : State} (hk0 : Kept s0 s) (ks : List Nat) (at' : Nat → Nat) : Kept s0 (noteWrites ks at' s) :=
  hk0.trans (by simp only [noteWrites]; first | (simp (maxDischargeDepth := 100); done) | ((repeat' split) <;> simp (maxDischargeDepth := 100)))
@[simp] theorem writeLine_keeps {s0 s : State} (hk0 : Kept s0 s) (ctx : Nat) (n : Copies) (l : Nat) : Kept s0 (writeLine ctx n s l) :=
  hk0.trans (by simp only [writeLine]; first | (simp (maxDischargeDepth := 100); done) | ((repeat' split) <;> simp (maxDischargeDepth := 100)))
@[simp] theorem writeHome_keeps {s0 s : State} (hk0 : Kept s0 s) (ctx : Nat) (n : Copies) : Kept s0 (writeHome ctx n s) :=
  hk0.trans (by simp only [writeHome]; first | (simp (maxDischargeDepth := 100); done) | ((repeat' split) <;> simp (maxDischargeDepth := 100)))
@[simp] theorem freshen_keeps {s0 s : State} (hk0 : Kept s0 s) (c : CoreId) (n : Copies) : Kept s0 (freshen c n s) :=
  hk0.trans (by simp only [freshen]; first | (simp (maxDischargeDepth := 100); done) | ((repeat' split) <;> simp (maxDischargeDepth := 100)))
@[simp] theorem leaveDie_keeps {s0 s : State} (hk0 : Kept s0 s) (d : DieId) (ctx : Nat) (n : Copies) : Kept s0 (leaveDie d ctx n s) :=
  hk0.trans (by simp only [leaveDie]; first | (simp (maxDischargeDepth := 100); done) | ((repeat' split) <;> simp (maxDischargeDepth := 100)))
@[simp] theorem leaveCluster_keeps {s0 s : State} (hk0 : Kept s0 s) (c : CoreId) (ctx scope : Nat) (n : Copies) : Kept s0 (leaveCluster c ctx scope n s) :=
  hk0.trans (by simp only [leaveCluster]; first | (simp (maxDischargeDepth := 100); done) | ((repeat' split) <;> simp (maxDischargeDepth := 100)))
@[simp] theorem leaveCore_keeps {s0 s : State} (hk0 : Kept s0 s) (c : CoreId) (ctx scope : Nat) (n : Copies) : Kept s0 (leaveCore c ctx scope n s) :=
  hk0.trans (by simp only [leaveCore]; first | (simp (maxDischargeDepth := 100); done) | ((repeat' split) <;> simp (maxDischargeDepth := 100)))
@[simp] theorem cumulate_keeps {s0 s : State} (hk0 : Kept s0 s) (c : CoreId) (scope : Nat) (p : Nat → Bool) : Kept s0 (cumulate c scope p s) :=
  hk0.trans (by simp only [cumulate]; first | (simp (maxDischargeDepth := 100); done) | ((repeat' split) <;> simp (maxDischargeDepth := 100)))
@[simp] theorem publishCells_keeps {s0 s : State} (hk0 : Kept s0 s) (c : CoreId) (scope : Nat) (n : Copies) : Kept s0 (publishCells c scope n s) :=
  hk0.trans (by simp only [publishCells]; first | (simp (maxDischargeDepth := 100); done) | ((repeat' split) <;> simp (maxDischargeDepth := 100)))
@[simp] theorem publishEpoch_keeps {s0 s : State} (hk0 : Kept s0 s) (c : CoreId) (tid scope : Nat) (p : Nat → Bool) (e : Epoch) : Kept s0 (publishEpoch c tid scope p s e) :=
  hk0.trans (by simp only [publishEpoch]; first | (simp (maxDischargeDepth := 100); done) | ((repeat' split) <;> simp (maxDischargeDepth := 100)))
@[simp] theorem publishWhere_keeps {s0 s : State} (hk0 : Kept s0 s) (c : CoreId) (tid : Nat) (at' : Epoch → Nat) (p : Nat → Bool) : Kept s0 (publishWhere c tid at' p s) :=
  hk0.trans (by simp only [publishWhere]; first | (simp (maxDischargeDepth := 100); done) | ((repeat' split) <;> simp (maxDischargeDepth := 100)))
@[simp] theorem publishTask_keeps {s0 s : State} (hk0 : Kept s0 s) (c : CoreId) (tid : Nat) (scope : Scope) :
    Kept s0 (publishTask c tid scope s) := by
  unfold publishTask
  split
  · exact hk0
  · exact cumulate_keeps (onTask_keeps (kept_foldl (fun t e => by split <;> simp (maxDischargeDepth := 100)) hk0 _) _ _) _ _ _
@[simp] theorem acquireAt_keeps {s0 s : State} (hk0 : Kept s0 s) (c : CoreId) (scope : Nat) (p : Nat → Bool) : Kept s0 (acquireAt c scope p s) :=
  hk0.trans (by simp only [acquireAt]; first | (simp (maxDischargeDepth := 100); done) | ((repeat' split) <;> simp (maxDischargeDepth := 100)))
@[simp] theorem acquireMoved_keeps {s0 s : State} (hk0 : Kept s0 s) (c : CoreId) (ls : List Leaf) : Kept s0 (acquireMoved c ls s) :=
  hk0.trans (by simp only [acquireMoved]; first | (simp (maxDischargeDepth := 100); done) | ((repeat' split) <;> simp (maxDischargeDepth := 100)))
@[simp] theorem evictClean_keeps {s0 s : State} (hk0 : Kept s0 s) (c : CoreId) (line : Nat) : Kept s0 (evictClean c line s) :=
  hk0.trans (by simp only [evictClean]; first | (simp (maxDischargeDepth := 100); done) | ((repeat' split) <;> simp (maxDischargeDepth := 100)))
@[simp] theorem spend_keeps {s0 s : State} (hk0 : Kept s0 s) (ls : List Nat) : Kept s0 (State.spend s ls) :=
  hk0.trans (by simp only [State.spend]; first | (simp (maxDischargeDepth := 100); done) | ((repeat' split) <;> simp (maxDischargeDepth := 100)))
@[simp] theorem evictCore_keeps {s0 s : State} (hk0 : Kept s0 s) (c : CoreId) : Kept s0 (evictCore c s) :=
  hk0.trans (by simp only [evictCore]; first | (simp (maxDischargeDepth := 100); done) | ((repeat' split) <;> simp (maxDischargeDepth := 100)))
@[simp] theorem evictCluster_keeps {s0 s : State} (hk0 : Kept s0 s) (c : CoreId) : Kept s0 (evictCluster c s) :=
  hk0.trans (by simp only [evictCluster]; first | (simp (maxDischargeDepth := 100); done) | ((repeat' split) <;> simp (maxDischargeDepth := 100)))
@[simp] theorem evictDie_keeps {s0 s : State} (hk0 : Kept s0 s) (d : DieId) : Kept s0 (evictDie d s) :=
  hk0.trans (by simp only [evictDie]; first | (simp (maxDischargeDepth := 100); done) | ((repeat' split) <;> simp (maxDischargeDepth := 100)))
@[simp] theorem meetFlaw_keeps {s0 s : State} (hk0 : Kept s0 s) (sp : Spot) (src : Nat) (d : DieId) (ctx va l : Nat) :
    Kept s0 (meetFlaw sp src d ctx va l s).2 := hk0.trans (by simp only [meetFlaw]; (repeat' split) <;> simp (maxDischargeDepth := 100))
@[simp] theorem failEntry_keeps {s0 s : State} (hk0 : Kept s0 s) (kind src : Nat) (d : DieId) (ctx va l : Nat) : Kept s0 (failEntry kind src d ctx va l s) :=
  hk0.trans (by simp only [failEntry]; first | (simp (maxDischargeDepth := 100); done) | ((repeat' split) <;> simp (maxDischargeDepth := 100)))
@[simp] theorem meetPool_keeps {s0 s : State} (hk0 : Kept s0 s) (c : CoreId) (ctx : Nat) (ks : List Nat) : Kept s0 (meetPool c ctx ks s) :=
  kept_ite hk0 (kept_foldl (fun _ _ => meetFlaw_keeps (.refl _) _ _ _ _ _ _) hk0 _)
@[simp] theorem meetRegion_keeps {s0 s : State} (hk0 : Kept s0 s) (c : CoreId) (tid : Nat) (t : Task) (va l : Nat) :
    Kept s0 (meetRegion c tid t va l s).2 := by
  have h := meetFlaw_keeps hk0 (.region c) 4 (dieOf c) t.record.ctx va l
  simp only [meetRegion]
  generalize meetFlaw (.region c) 4 (dieOf c) t.record.ctx va l s = r at h ⊢
  (repeat' split) <;> simp (maxDischargeDepth := 100) [h, hk0]
@[simp] theorem meetCluster_keeps {s0 s : State} (hk0 : Kept s0 s) (c : CoreId) (first ctx va l : Nat) :
    Kept s0 (meetCluster c first ctx va l s).2 := by
  have h := meetFlaw_keeps hk0 (.cluster (clusterOf c)) 3 (dieOf c) ctx va l
  simp only [meetCluster]
  generalize meetFlaw (.cluster (clusterOf c)) 3 (dieOf c) ctx va l s = r at h ⊢
  (repeat' split) <;> simp (maxDischargeDepth := 100) [h, hk0]
@[simp] theorem meetSide_keeps {s0 s : State} (hk0 : Kept s0 s) (c : CoreId) (first ctx va l : Nat) :
    Kept s0 (meetSide c first ctx va l s) := by
  simp only [meetSide]
  generalize (if isFar (64 * l) then dieOf c else (frameDie (64 * l)).getD (dieOf c)) = d
  have h := meetFlaw_keeps hk0 (.side d) 1 d ctx va l
  generalize meetFlaw (.side d) 1 d ctx va l s = r at h ⊢
  (repeat' split) <;> simp (maxDischargeDepth := 100) [h, hk0]
@[simp] theorem meetCopies_keeps {s0 s : State} (hk0 : Kept s0 s) (c : CoreId) (tid : Nat) (t : Task) (va l : Nat) :
    Kept s0 (meetCopies c tid t va l s) := by
  have h := meetRegion_keeps hk0 c tid t va l
  simp only [meetCopies]
  generalize meetRegion c tid t va l s = r at h ⊢
  have g := meetCluster_keeps h c r.1 t.record.ctx va l
  generalize meetCluster c r.1 t.record.ctx va l r.2 = q at g ⊢
  exact kept_ite hk0 (kept_ite h (kept_ite g (meetSide_keeps g _ _ _ _ _)))
@[simp] theorem fillLine_keeps {s0 s : State} (hk0 : Kept s0 s) (c : CoreId) (ctx hint : Nat) (lf : Leaf) (line : Nat) : Kept s0 (fillLine c ctx hint lf line s) :=
  hk0.trans (by simp only [fillLine]; first | (simp (maxDischargeDepth := 100); done) | ((repeat' split) <;> simp (maxDischargeDepth := 100)))
@[simp] theorem prefetchNext_keeps {s0 s : State} (hk0 : Kept s0 s) (c : CoreId) (t : Task) (hint : Nat) (ls : List Leaf) (line : Nat) : Kept s0 (prefetchNext c t hint ls line s) :=
  hk0.trans (by simp only [prefetchNext]; first | (simp (maxDischargeDepth := 100); done) | ((repeat' split) <;> simp (maxDischargeDepth := 100)))
@[simp] theorem readMem_keeps {s0 s : State} (hk0 : Kept s0 s) (c : CoreId) (tid : Nat) (t : Task) (hint : Nat) (ls : List Leaf)
    (ks : List Nat) : Kept s0 (readMem c tid t hint ls ks s).2.2 := by
  simp only [readMem]
  split <;> simp (maxDischargeDepth := 100) [hk0]
@[simp] theorem setPolicy_keeps {s0 s : State} (hk0 : Kept s0 s) (hint : Nat) (ls : List Leaf) (line : Nat) : Kept s0 (setPolicy hint ls s line) :=
  hk0.trans (by simp only [setPolicy]; first | (simp (maxDischargeDepth := 100); done) | ((repeat' split) <;> simp (maxDischargeDepth := 100)))
@[simp] theorem markWrite_keeps {s0 s : State} (hk0 : Kept s0 s) (c : CoreId) (hint : Nat) (ls : List Leaf) (lines : List Nat) : Kept s0 (markWrite c hint ls lines s) :=
  hk0.trans (by simp only [markWrite]; first | (simp (maxDischargeDepth := 100); done) | ((repeat' split) <;> simp (maxDischargeDepth := 100)))

/-! ## The operations of Barrier.lean -/

@[simp] theorem barWrite_keeps {s0 s : State} (hk0 : Kept s0 s) (c : CoreId) (r : BarRef) (w : Nat) : Kept s0 (barWrite c r w s) :=
  hk0.trans (by simp only [barWrite]; first | (simp (maxDischargeDepth := 100); done) | ((repeat' split) <;> simp (maxDischargeDepth := 100)))
@[simp] theorem homeLine_keeps {s0 s : State} (hk0 : Kept s0 s) (c : CoreId) (tid line : Nat) : Kept s0 (homeLine c tid line s) :=
  hk0.trans (by simp only [homeLine]; first | (simp (maxDischargeDepth := 100); done) | ((repeat' split) <;> simp (maxDischargeDepth := 100)))
@[simp] theorem atomicKeys_keeps {s0 s : State} (hk0 : Kept s0 s) (c : CoreId) (tid : Nat) (ks : List Nat) (f : Nat → Nat) :
    Kept s0 (atomicKeys c tid ks f s).2 := hk0.trans (by simp only [atomicKeys]; simp (maxDischargeDepth := 100))
@[simp] theorem atomicHome_keeps {s0 s : State} (hk0 : Kept s0 s) (c : CoreId) (tid key n : Nat) (f : Nat → Nat) :
    Kept s0 (atomicHome c tid key n f s).2 := hk0.trans (by simp only [atomicHome]; simp (maxDischargeDepth := 100))
@[simp] theorem homeBar_keeps {s0 s : State} (hk0 : Kept s0 s) (c : CoreId) (tid : Nat) (r : BarRef) : Kept s0 (homeBar c tid r s) :=
  hk0.trans (by simp only [homeBar]; first | (simp (maxDischargeDepth := 100); done) | ((repeat' split) <;> simp (maxDischargeDepth := 100)))
@[simp] theorem markBar_keeps {s0 s : State} (hk0 : Kept s0 s) (c : CoreId) (r : BarRef) (writes : Bool) : Kept s0 (markBar c r writes s) :=
  hk0.trans (by simp only [markBar]; first | (simp (maxDischargeDepth := 100); done) | ((repeat' split) <;> simp (maxDischargeDepth := 100)))
@[simp] theorem barApply_keeps {s0 s : State} (hk0 : Kept s0 s) (c : CoreId) (tid : Nat) (r : BarRef) (op : BarOp) (lines : List Nat) :
    Kept s0 (barApply c tid r op lines s).1 := by
  unfold barApply
  have h := homeBar_keeps hk0 c tid r
  lift_lets
  intro u
  change Kept s0 u at h
  clear_value u
  cases op <;> dsimp only <;> (repeat' split) <;> simp (maxDischargeDepth := 100) [h]

/-! ## The operations of Save.lean -/

@[simp] theorem markBlock_keeps {s0 s : State} (hk0 : Kept s0 s) (x : Context) (used : Bool) (b : Nat) : Kept s0 (markBlock x used s b) :=
  hk0.trans (by simp only [markBlock]; first | (simp (maxDischargeDepth := 100); done) | ((repeat' split) <;> simp (maxDischargeDepth := 100)))
@[simp] theorem readArea_keeps {s0 s : State} (hk0 : Kept s0 s) (d : DieId) (x : Context) (mine : Nat → Bool) : Kept s0 (readArea d x mine s) :=
  hk0.trans (by simp only [readArea]; first | (simp (maxDischargeDepth := 100); done) | ((repeat' split) <;> simp (maxDischargeDepth := 100)))
@[simp] theorem readDirectory_keeps {s0 s : State} (hk0 : Kept s0 s) (d : DieId) (x : Context) : Kept s0 (readDirectory d x s) :=
  hk0.trans (by simp only [readDirectory]; first | (simp (maxDischargeDepth := 100); done) | ((repeat' split) <;> simp (maxDischargeDepth := 100)))
@[simp] theorem tagRegion_keeps {s0 s : State} (hk0 : Kept s0 s) (kid line n : Nat) : Kept s0 (tagRegion kid line n s) :=
  hk0.trans (by simp only [tagRegion]; first | (simp (maxDischargeDepth := 100); done) | ((repeat' split) <;> simp (maxDischargeDepth := 100)))
theorem memKept_wrRegion {m n : Memory} (h : MemKept m n) (a k : Nat) (cs : Cells) : MemKept m (wrRegion n a k cs) := by
  simp [wrRegion, h]
@[simp] theorem saveTask_keeps {s0 s : State} (hk0 : Kept s0 s) (c : CoreId) (tid : Nat) (reg : Bool) : Kept s0 (saveTask c tid reg s).2 :=
  hk0.trans (by
    simp only [saveTask]
    (repeat' split) <;> simp (maxDischargeDepth := 100) [memKept_wrRegion])
@[simp] theorem readRun_keeps {s0 s : State} (hk0 : Kept s0 s) (d : DieId) (x : Context) (off n : Nat) : Kept s0 (readRun d x off n s).2 :=
  kept_foldl (fun _ _ => meetLine_keeps (.refl _) _ _) (kept_foldl (fun _ _ => staleLine_keeps (.refl _) _ _) hk0 _) _
@[simp] theorem readSaved_keeps {s0 s : State} (hk0 : Kept s0 s) (d : DieId) (x : Context) (t : Task) : Kept s0 (readSaved d x t s).2 :=
  readRun_keeps hk0 _ _ _ _
@[simp] theorem freeRun_keeps {s0 s : State} (hk0 : Kept s0 s) (x : Context) (b n : Nat) : Kept s0 (freeRun x b n s) :=
  hk0.trans (by simp only [freeRun]; first | (simp (maxDischargeDepth := 100); done) | ((repeat' split) <;> simp (maxDischargeDepth := 100)))

/-! ## The operations of Lease.lean -/

@[simp] theorem journal_keeps {s0 s : State} (hk0 : Kept s0 s) (d : DieId) (kind obj arg : Nat) : Kept s0 (journal d kind obj arg s) :=
  hk0.trans (by simp only [journal]; first | (simp (maxDischargeDepth := 100); done) | ((repeat' split) <;> simp (maxDischargeDepth := 100)))
@[simp] theorem takeFrame_keeps {s0 s : State} (hk0 : Kept s0 s) (key : Nat) : Kept s0 (takeFrame key s).2 :=
  hk0.trans (by simp only [takeFrame]; split <;> simp (maxDischargeDepth := 100))
theorem takeFrame_of {s0 s t : State} (hk0 : Kept s0 s) {key : Nat} {o : Option Nat} (h : takeFrame key s = (o, t)) : Kept s0 t := by
  have := takeFrame_keeps hk0 key
  rwa [h] at this
@[simp] theorem takePool_keeps {s0 s : State} (hk0 : Kept s0 s) (x : Context) (size : Nat) : Kept s0 (takePool x size s).2 :=
  hk0.trans (by simp only [takePool]; split <;> simp (maxDischargeDepth := 100))
@[simp] theorem copyKeys_keeps {s0 s : State} (hk0 : Kept s0 s) (src dst n : Nat) : Kept s0 (copyKeys src dst n s) :=
  hk0.trans (by simp only [copyKeys]; first | (simp (maxDischargeDepth := 100); done) | ((repeat' split) <;> simp (maxDischargeDepth := 100)))
@[simp] theorem setFrame_keeps {s0 s : State} (hk0 : Kept s0 s) (head tier frame : Nat) : Kept s0 (setFrame head tier frame s) :=
  hk0.trans (by simp only [setFrame]; first | (simp (maxDischargeDepth := 100); done) | ((repeat' split) <;> simp (maxDischargeDepth := 100)))
@[simp] theorem copyOnWrite_keeps {s0 s : State} (hk0 : Kept s0 s) (t : Task) : Kept s0 (copyOnWrite t s) := by
  simp only [copyOnWrite]
  split
  · exact hk0
  · rename_i x _
    refine kept_foldl (fun u e => ?_) hk0 _
    have h := takePool_keeps (.refl u) x e.2.2.2.2.size
    generalize takePool x e.2.2.2.2.size u = r at h ⊢
    rcases r with ⟨_ | g, v⟩ <;> simp (maxDischargeDepth := 100) [show Kept u v from h]
@[simp] theorem grantLeases_keeps {s0 s : State} (hk0 : Kept s0 s) (tid : Nat) : Kept s0 (grantLeases tid s) :=
  hk0.trans (by simp only [grantLeases]; first | (simp (maxDischargeDepth := 100); done) | ((repeat' split) <;> simp (maxDischargeDepth := 100)))
@[simp] theorem dropLeases_keeps {s0 s : State} (hk0 : Kept s0 s) (tid : Nat) : Kept s0 (dropLeases tid s) :=
  hk0.trans (by simp only [dropLeases]; first | (simp (maxDischargeDepth := 100); done) | ((repeat' split) <;> simp (maxDischargeDepth := 100)))
@[simp] theorem settleDemotion_keeps {s0 s : State} (hk0 : Kept s0 s) (n : Nat) : Kept s0 (settleDemotion n s) :=
  hk0.trans (by simp only [settleDemotion]; first | (simp (maxDischargeDepth := 100); done) | ((repeat' split) <;> simp (maxDischargeDepth := 100)))
@[simp] theorem predictPark_keeps {s0 s : State} (hk0 : Kept s0 s) (n : Nat) : Kept s0 (predictPark n s) :=
  hk0.trans (by simp only [predictPark]; first | (simp (maxDischargeDepth := 100); done) | ((repeat' split) <;> simp (maxDischargeDepth := 100)))
@[simp] theorem almanac_keeps {s0 s : State} (hk0 : Kept s0 s) (n : Nat) : Kept s0 (almanac n s) :=
  hk0.trans (by simp only [almanac]; first | (simp (maxDischargeDepth := 100); done) | ((repeat' split) <;> simp (maxDischargeDepth := 100)))
@[simp] theorem wakeMean_keeps {s0 s : State} (hk0 : Kept s0 s) (n : Nat) : Kept s0 (wakeMean n s) :=
  hk0.trans (by simp only [wakeMean]; first | (simp (maxDischargeDepth := 100); done) | ((repeat' split) <;> simp (maxDischargeDepth := 100)))
@[simp] theorem parkCtx_keeps {s0 s : State} (hk0 : Kept s0 s) (n reason : Nat) (x : Context) : Kept s0 (parkCtx n reason x s) :=
  hk0.trans (by simp only [parkCtx]; first | (simp (maxDischargeDepth := 100); done) | ((repeat' split) <;> simp (maxDischargeDepth := 100)))
@[simp] theorem noteCow_keeps {s0 s : State} (hk0 : Kept s0 s) (n : Nat) : Kept s0 (noteCow n s) :=
  hk0.trans (by simp only [noteCow]; first | (simp (maxDischargeDepth := 100); done) | ((repeat' split) <;> simp (maxDischargeDepth := 100)))
@[simp] theorem refresh_keeps {s0 s : State} (hk0 : Kept s0 s) (n reason : Nat) : Kept s0 (refresh n reason s) :=
  hk0.trans (by simp only [refresh]; first | (simp (maxDischargeDepth := 100); done) | ((repeat' split) <;> simp (maxDischargeDepth := 100)))
@[simp] theorem startRecall_keeps {s0 s : State} (hk0 : Kept s0 s) (n : Nat) : Kept s0 (startRecall n s) :=
  hk0.trans (by simp only [startRecall]; first | (simp (maxDischargeDepth := 100); done) | ((repeat' split) <;> simp (maxDischargeDepth := 100)))

/-! ## The operations of Operands.lean -/

@[simp] theorem alu_keeps {s0 s : State} (hk0 : Kept s0 s) (lat : Nat) (f : Dword → Dword → Dword) (d a b : XReg) : Kept s0 (alu lat f d a b s) :=
  hk0.trans (by simp only [alu]; first | (simp (maxDischargeDepth := 100); done) | ((repeat' split) <;> simp (maxDischargeDepth := 100)))
@[simp] theorem alu1_keeps {s0 s : State} (hk0 : Kept s0 s) (f : Dword → Dword) (d a : XReg) : Kept s0 (alu1 f d a s) :=
  hk0.trans (by simp only [alu1]; first | (simp (maxDischargeDepth := 100); done) | ((repeat' split) <;> simp (maxDischargeDepth := 100)))
@[simp] theorem aluI_keeps {s0 s : State} (hk0 : Kept s0 s) (lat : Nat) (f : Dword → Dword → Dword) (d a : XReg) (imm : BitVec 14) : Kept s0 (aluI lat f d a imm s) :=
  hk0.trans (by simp only [aluI]; first | (simp (maxDischargeDepth := 100); done) | ((repeat' split) <;> simp (maxDischargeDepth := 100)))
@[simp] theorem aluSh_keeps {s0 s : State} (hk0 : Kept s0 s) (f : Dword → Dword → Dword) (d a : XReg) (sh : Fin 64) : Kept s0 (aluSh f d a sh s) :=
  hk0.trans (by simp only [aluSh]; first | (simp (maxDischargeDepth := 100); done) | ((repeat' split) <;> simp (maxDischargeDepth := 100)))

/-! ## The operations of Flags.lean -/

@[simp] theorem cmpReg_keeps {s0 s : State} (hk0 : Kept s0 s) (c : Dword → Dword → Bool) (fd : FReg) (a b : XReg) : Kept s0 (cmpReg c fd a b s) :=
  hk0.trans (by simp only [cmpReg]; first | (simp (maxDischargeDepth := 100); done) | ((repeat' split) <;> simp (maxDischargeDepth := 100)))
@[simp] theorem cmpImm_keeps {s0 s : State} (hk0 : Kept s0 s) (c : Dword → Dword → Bool) (fd : FReg) (a : XReg) (imm : BitVec 10) : Kept s0 (cmpImm c fd a imm s) :=
  hk0.trans (by simp only [cmpImm]; first | (simp (maxDischargeDepth := 100); done) | ((repeat' split) <;> simp (maxDischargeDepth := 100)))
@[simp] theorem flagOp_keeps {s0 s : State} (hk0 : Kept s0 s) (v : Bool → Bool → Bool) (fd fa fb : FReg) : Kept s0 (flagOp v fd fa fb s) :=
  hk0.trans (by simp only [flagOp]; first | (simp (maxDischargeDepth := 100); done) | ((repeat' split) <;> simp (maxDischargeDepth := 100)))

/-! ## The operations of Tasks.lean -/

@[simp] theorem releaseParked_keeps {s0 s : State} (hk0 : Kept s0 s) (tid : Nat) : Kept s0 (releaseParked tid s) :=
  hk0.trans (by simp only [releaseParked]; first | (simp (maxDischargeDepth := 100); done) | ((repeat' split) <;> simp (maxDischargeDepth := 100)))
@[simp] theorem sevCtx_keeps {s0 s : State} (hk0 : Kept s0 s) (n : Nat) : Kept s0 (sevCtx n s) := by
  unfold sevCtx
  lift_lets
  intro ts t freed u v
  have ht : Kept s0 t := kept_foldl (fun v x => by split <;> simp (maxDischargeDepth := 100)) hk0 _
  have hu : Kept s0 u := onCtx_keeps ht _ _
  have hv : Kept s0 v := by simp only [v]; split <;> simp (maxDischargeDepth := 100) [hu]
  clear_value v
  refine refresh_keeps ?_ _ _
  split <;> simp (maxDischargeDepth := 100) [hv]
@[simp] theorem endFaultHold_keeps {s0 s : State} (hk0 : Kept s0 s) (n : Nat) : Kept s0 (endFaultHold n s) :=
  hk0.trans (by simp only [endFaultHold]; first | (simp (maxDischargeDepth := 100); done) | ((repeat' split) <;> simp (maxDischargeDepth := 100)))
@[simp] theorem wakeCtx_keeps {s0 s : State} (hk0 : Kept s0 s) (n : Nat) (secure : Bool) : Kept s0 (wakeCtx n secure s) := by
  have h (t : State) (ht : Kept s0 t) : Kept s0 ((t.tasksOf n).foldl (fun s t => match t.2.standing with
        | .parked _ _ => releaseParked t.1 s
        | _ => s) t) := kept_foldl (fun v x => by split <;> simp (maxDischargeDepth := 100)) ht _
  unfold wakeCtx
  split
  · exact hk0
  · split
    · exact hk0
    · split
      · simp (maxDischargeDepth := 100) [hk0]
      · split
        · exact hk0
        · lift_lets
          intro t u
          have ht : Kept s0 t := by simp only [t]; split <;> simp (maxDischargeDepth := 100) [hk0]
          exact refresh_keeps (startRecall_keeps (h t ht) _) _ _
@[simp] theorem afterPark_keeps {s0 s : State} (hk0 : Kept s0 s) (n : Nat) : Kept s0 (afterPark n s) :=
  hk0.trans (by simp only [afterPark]; first | (simp (maxDischargeDepth := 100); done) | ((repeat' split) <;> simp (maxDischargeDepth := 100)))
@[simp] theorem leaveCtx_keeps {s0 s : State} (hk0 : Kept s0 s) (n reason : Nat) : Kept s0 (leaveCtx n reason s) :=
  hk0.trans (by simp only [leaveCtx]; first | (simp (maxDischargeDepth := 100); done) | ((repeat' split) <;> simp (maxDischargeDepth := 100)))
@[simp] theorem barFrom_keeps {s0 s : State} (hk0 : Kept s0 s) (c : CoreId) (tid : Nat) (r : BarRef) (op : BarOp) (lines : List Nat) :
    Kept s0 (barFrom c tid r op lines s).1 := by
  simp only [barFrom]; split
  · exact hk0
  · split <;> simp (maxDischargeDepth := 100) [hk0]
@[simp] theorem publishLines_keeps {s0 s : State} (hk0 : Kept s0 s) (c : CoreId) (r : BarRef) (lines : List Nat) : Kept s0 (publishLines c r lines s) :=
  hk0.trans (by simp only [publishLines]; first | (simp (maxDischargeDepth := 100); done) | ((repeat' split) <;> simp (maxDischargeDepth := 100)))
@[simp] theorem redaddAt_keeps {s0 s : State} (hk0 : Kept s0 s) (c : CoreId) (tid : Nat) (fmt : Fmt) (keys : List Nat) (v : Nat) (bad : Bool) : Kept s0 (redaddAt c tid fmt keys v bad s) :=
  hk0.trans (by simp only [redaddAt]; first | (simp (maxDischargeDepth := 100); done) | ((repeat' split) <;> simp (maxDischargeDepth := 100)))
@[simp] theorem performHeld_keeps {s0 s : State} (hk0 : Kept s0 s) (c : CoreId) (tid eng : Nat) (hs : List Held) :
    Kept s0 (performHeld c tid eng hs s) := by
  induction hs generalizing s with
  | nil => exact hk0
  | cons h l ih =>
    cases h <;> simp only [performHeld]
    · split
      · exact ih (barFrom_keeps (publishLines_keeps hk0 _ _ _) _ _ _ _ _)
      · exact raiseFor_keeps (barFrom_keeps (publishLines_keeps hk0 _ _ _) _ _ _ _ _) _ _ _
    · exact ih (wakeCtx_keeps hk0 _ _)
    · exact ih (sevCtx_keeps hk0 _)
    · split
      · exact raiseFor_keeps hk0 _ _ _
      · exact ih (redaddAt_keeps hk0 _ _ _ _ _ _)
@[simp] theorem publishAll_keeps {s0 s : State} (hk0 : Kept s0 s) (c : CoreId) (tid eng : Nat) (scope : Scope) :
    Kept s0 (publishAll c tid eng scope s) := by
  simp only [publishAll]
  split
  · exact publishTask_keeps hk0 _ _ _
  · exact performHeld_keeps (onTask_keeps (publishTask_keeps hk0 _ _ _) _ _) _ _ _ _
@[simp] theorem publishArriving_keeps {s0 s : State} (hk0 : Kept s0 s) (c : CoreId) (tid : Nat) (l : Level) : Kept s0 (publishArriving c tid l s) :=
  hk0.trans (by simp only [publishArriving]; first | (simp (maxDischargeDepth := 100); done) | ((repeat' split) <;> simp (maxDischargeDepth := 100)))
@[simp] theorem resumeMember_keeps {s0 s : State} (hk0 : Kept s0 s) (l : Level) (m : Nat × Task) : Kept s0 (resumeMember l m s) := by
  have h1 : Kept s0 { s with snaps := s.snaps.filter fun (e : Snap) => e.task != m.1 } := ⟨hk0.1, hk0.2.1, hk0.2.2⟩
  have h2 := onTask_keeps h1 m.1 fun t => { t with arrived := none }
  unfold resumeMember
  generalize (State.onTask _ _ _) = u at h2 ⊢
  cases m.2.standing
  case running => exact acquireAt_keeps (onCore_keeps h2 _ _) _ _ _
  case phaseHeld => exact onTask_keeps h2 _ _
  all_goals exact h2
@[simp] theorem checkFlips_keeps {s0 s : State} (hk0 : Kept s0 s) (team : Nat) : Kept s0 (checkFlips team s) := by
  simp only [checkFlips]
  exact kept_foldl (fun t x => by (repeat' split) <;> simp (maxDischargeDepth := 100)) hk0 _
@[simp] theorem qcbUpdate_keeps {s0 s : State} (hk0 : Kept s0 s) (q : Nat) {f : Memory → Nat → Memory} (hf : ∀ m a, MemKept m (f m a)) :
    Kept s0 (qcbUpdate q f s) := by
  simp only [qcbUpdate, kept_mk]
  exact ⟨hk0.1, hk0.2.1, memKept_wrNat (hk0.2.2.trans (hf _ _)) _ _ _⟩
@[simp] theorem onSlot_keeps {s0 s : State} (hk0 : Kept s0 s) (d : DieId) (i : Fin 256) (f : QSlot → QSlot) : Kept s0 (onSlot d i f s) :=
  hk0.trans (by simp only [onSlot]; first | (simp (maxDischargeDepth := 100); done) | ((repeat' split) <;> simp (maxDischargeDepth := 100)))
@[simp] theorem dropOutt_keeps {s0 s : State} (hk0 : Kept s0 s) (q : Nat) : Kept s0 (dropOutt q s) :=
  hk0.trans (by simp only [dropOutt]; first | (simp (maxDischargeDepth := 100); done) | ((repeat' split) <;> simp (maxDischargeDepth := 100)))
@[simp] theorem signalAtomic_keeps {s0 s : State} (hk0 : Kept s0 s) (c : CoreId) (l : Leaf) (va : Nat) (f : Nat → Nat) : Kept s0 (signalAtomic c l va f s) :=
  hk0.trans (by simp only [signalAtomic]; first | (simp (maxDischargeDepth := 100); done) | ((repeat' split) <;> simp (maxDischargeDepth := 100)))
@[simp] theorem signalTeam_keeps {s0 s : State} (hk0 : Kept s0 s) (c : CoreId) (m : Team) : Kept s0 (signalTeam c m s) := by
  unfold signalTeam
  generalize (2 ^ 64 : Nat) = a
  generalize (2 ^ 63 : Nat) = b
  split
  · exact hk0
  · split
    · exact hk0
    · dsimp only
      split
      · exact signalAtomic_keeps (signalAtomic_keeps hk0 _ _ _ _) _ _ _ _
      · exact signalAtomic_keeps hk0 _ _ _ _
@[simp] theorem overrun_keeps {s0 s : State} (hk0 : Kept s0 s) (ctx : Nat) (p : Preempt) : Kept s0 (overrun ctx p s) :=
  hk0.trans (by simp only [overrun]; first | (simp (maxDischargeDepth := 100); done) | ((repeat' split) <;> simp (maxDischargeDepth := 100)))
@[simp] theorem completeTeam_keeps {s0 s : State} (hk0 : Kept s0 s) (c : CoreId) (n : Nat) : Kept s0 (completeTeam c n s) := by
  simp only [completeTeam]
  repeat' with_reducible first | assumption | exact Kept.refl _ | apply onCtx_keeps | apply dropOutt_keeps | apply signalTeam_keeps | apply overrun_keeps | refine kept_foldl (fun _ _ => ?_) ?_ _ | split | intro _
  all_goals simp (maxDischargeDepth := 100) [*]
@[simp] theorem countRetired_keeps {s0 s : State} (hk0 : Kept s0 s) (c : CoreId) (tid : Nat) : Kept s0 (countRetired c tid s) :=
  hk0.trans (by simp only [countRetired]; first | (simp (maxDischargeDepth := 100); done) | ((repeat' split) <;> simp (maxDischargeDepth := 100)))
@[simp] theorem flushAccounts_keeps {s0 s : State} (hk0 : Kept s0 s) (c : CoreId) : Kept s0 (flushAccounts c s) :=
  hk0.trans (by simp only [flushAccounts]; first | (simp (maxDischargeDepth := 100); done) | ((repeat' split) <;> simp (maxDischargeDepth := 100)))
@[simp] theorem owe_keeps {s0 s : State} (hk0 : Kept s0 s) (c : CoreId) (why : Cause) (disc : Bool) : Kept s0 (owe c why disc s) :=
  hk0.trans (by simp only [owe]; first | (simp (maxDischargeDepth := 100); done) | ((repeat' split) <;> simp (maxDischargeDepth := 100)))
@[simp] theorem returnTaken_keeps {s0 s : State} (hk0 : Kept s0 s) (c : CoreId) : Kept s0 (returnTaken c s) :=
  hk0.trans (by simp only [returnTaken]; first | (simp (maxDischargeDepth := 100); done) | ((repeat' split) <;> simp (maxDischargeDepth := 100)))
@[simp] theorem vacate_keeps {s0 s : State} (hk0 : Kept s0 s) (c : CoreId) : Kept s0 (vacate c s) :=
  hk0.trans (by simp only [vacate]; first | (simp (maxDischargeDepth := 100); done) | ((repeat' split) <;> simp (maxDischargeDepth := 100)))
@[simp] theorem placeFault_keeps {s0 s : State} (hk0 : Kept s0 s) (c : CoreId) (cause i0 i1 : Nat) : Kept s0 (placeFault c cause i0 i1 s) :=
  hk0.trans (by simp only [placeFault]; first | (simp (maxDischargeDepth := 100); done) | ((repeat' split) <;> simp (maxDischargeDepth := 100)))
@[simp] theorem addWaiter_keeps {s0 s : State} (hk0 : Kept s0 s) (c : CoreId) (k : KReg) (up : Bool) : Kept s0 (addWaiter c k up s) :=
  hk0.trans (by simp only [addWaiter]; first | (simp (maxDischargeDepth := 100); done) | ((repeat' split) <;> simp (maxDischargeDepth := 100)))
@[simp] theorem unwait_keeps {s0 s : State} (hk0 : Kept s0 s) (c : CoreId) : Kept s0 (unwait c s) :=
  hk0.trans (by simp only [unwait]; first | (simp (maxDischargeDepth := 100); done) | ((repeat' split) <;> simp (maxDischargeDepth := 100)))
@[simp] theorem touchPages_keeps {s0 s : State} (hk0 : Kept s0 s) (d : DieId) (ctx va n : Nat) : Kept s0 (touchPages d ctx va n s) :=
  hk0.trans (by simp only [touchPages]; first | (simp (maxDischargeDepth := 100); done) | ((repeat' split) <;> simp (maxDischargeDepth := 100)))
@[simp] theorem stageRun_keeps {s0 s : State} (hk0 : Kept s0 s) (c : CoreId) (t : Task) (p : Plane) : Kept s0 (stageRun c t p s).2 := by
  unfold stageRun
  split
  · exact hk0
  · exact readSaved_keeps hk0 _ _ _
@[simp] theorem stageTask_keeps {s0 s : State} (hk0 : Kept s0 s) (c : CoreId) (tid : Nat) : Kept s0 (stageTask c tid s).2 := by
  unfold stageTask
  split
  · exact hk0
  · rename_i t _
    dsimp only
    split
    · exact hk0
    · rename_i g _
      have h := touchPages_keeps hk0 (dieOf c) t.record.ctx t.record.img g.bytes.length
      generalize touchPages (dieOf c) t.record.ctx t.record.img g.bytes.length s = u at h ⊢
      split
      · exact h
      · split
        · exact h
        · have hv : Kept s0 (if (t.record.rimg != 0 && !t.record.resume) = true then
            touchPages (dieOf c) t.record.ctx t.record.rimg 1616 u else u) := kept_ite (touchPages_keeps h _ _ _ _) h
          generalize (if (t.record.rimg != 0 && !t.record.resume) = true then
            touchPages (dieOf c) t.record.ctx t.record.rimg 1616 u else u) = v at hv ⊢
          split
          · exact hv
          · split
            · exact hv
            · exact hv
            · split
              · exact hv
              · split
                · exact stageRun_keeps hv _ _ _
                · exact hv
@[simp] theorem activate_keeps {s0 s : State} (hk0 : Kept s0 s) (c : CoreId) (tid : Nat) (st : Staged) : Kept s0 (activate c tid st s) :=
  hk0.trans (by simp only [activate]; first | (simp (maxDischargeDepth := 100); done) | ((repeat' split) <;> simp (maxDischargeDepth := 100)))
@[simp] theorem beginTask_keeps {s0 s : State} (hk0 : Kept s0 s) (c : CoreId) (tid till : Nat) (half : Bool) (st : Staged) : Kept s0 (beginTask c tid till half st s) :=
  hk0.trans (by simp only [beginTask]; first | (simp (maxDischargeDepth := 100); done) | ((repeat' split) <;> simp (maxDischargeDepth := 100)))
@[simp] theorem startTask_keeps {s0 s : State} (hk0 : Kept s0 s) (c : CoreId) (tid till : Nat) (half : Bool) : Kept s0 (startTask c tid till half s) :=
  hk0.trans (by simp only [startTask]; first | (simp (maxDischargeDepth := 100); done) | ((repeat' split) <;> simp (maxDischargeDepth := 100)))
@[simp] theorem takeShadow_keeps {s0 s : State} (hk0 : Kept s0 s) (c : CoreId) : Kept s0 (takeShadow c s) :=
  hk0.trans (by simp only [takeShadow]; first | (simp (maxDischargeDepth := 100); done) | ((repeat' split) <;> simp (maxDischargeDepth := 100)))
@[simp] theorem stopTask_keeps {s0 s : State} (hk0 : Kept s0 s) (c : CoreId) : Kept s0 (stopTask c s) :=
  hk0.trans (by simp only [stopTask]; first | (simp (maxDischargeDepth := 100); done) | ((repeat' split) <;> simp (maxDischargeDepth := 100)))
@[simp] theorem endStop_keeps {s0 s : State} (hk0 : Kept s0 s) (c : CoreId) (code : Nat) : Kept s0 (endStop c code s) :=
  hk0.trans (by simp only [endStop]; first | (simp (maxDischargeDepth := 100); done) | ((repeat' split) <;> simp (maxDischargeDepth := 100)))
@[simp] theorem resumeStop_keeps {s0 s : State} (hk0 : Kept s0 s) (c : CoreId) : Kept s0 (resumeStop c s) :=
  hk0.trans (by simp only [resumeStop]; first | (simp (maxDischargeDepth := 100); done) | ((repeat' split) <;> simp (maxDischargeDepth := 100)))
@[simp] theorem discardTask_keeps {s0 s : State} (hk0 : Kept s0 s) (c : CoreId) (as : Standing) : Kept s0 (discardTask c as s) :=
  hk0.trans (by simp only [discardTask]; first | (simp (maxDischargeDepth := 100); done) | ((repeat' split) <;> simp (maxDischargeDepth := 100)))
@[simp] theorem halveTask_keeps {s0 s : State} (hk0 : Kept s0 s) (c : CoreId) (a : Fin 3) : Kept s0 (halveTask c a s) :=
  hk0.trans (by simp only [halveTask]; first | (simp (maxDischargeDepth := 100); done) | ((repeat' split) <;> simp (maxDischargeDepth := 100)))
@[simp] theorem halveBeneath_keeps {s0 s : State} (hk0 : Kept s0 s) (c : CoreId) (tid : Nat) (a : Fin 3) : Kept s0 (halveBeneath c tid a s) :=
  hk0.trans (by simp only [halveBeneath]; first | (simp (maxDischargeDepth := 100); done) | ((repeat' split) <;> simp (maxDischargeDepth := 100)))
@[simp] theorem exhaust_keeps {s0 s : State} (hk0 : Kept s0 s) (c : CoreId) (tid which request : Nat)
    {rs : Nat → Nat → Nat → State → State} (hr : ∀ a i j t, Kept t (rs a i j t)) : Kept s0 (exhaust c tid which request rs s) := by
  unfold exhaust; (repeat' split) <;> first | exact hk0.trans (hr _ _ _ _) | simp (maxDischargeDepth := 100) [hk0]
@[simp] theorem withinWrites_keeps {s0 s next : State} (hk0 : Kept s0 s) (hn : Kept s0 next) (c : CoreId) (tid : Nat)
    {rs : Nat → Nat → Nat → State → State} (hr : ∀ a i j t, Kept t (rs a i j t)) : Kept s0 (withinWrites c tid rs s next) := by
  unfold withinWrites; (repeat' split) <;> first | exact hn | exact exhaust_keeps hk0 _ _ _ _ hr
@[simp] theorem makeTask_keeps {s0 s : State} (hk0 : Kept s0 s) (r : TaskRec) (ready csig : Nat) : Kept s0 (makeTask r ready csig s) := by
  unfold makeTask
  lift_lets
  intro d _ n u v _
  have hu : Kept s0 u := kept_ite hk0 (touchPages_keeps hk0 _ _ _ _)
  have hv : Kept s0 v := kept_ite hu (touchPages_keeps hu _ _ _ _)
  clear_value v
  simp (maxDischargeDepth := 100) [hv]

/-! ## The operations of Trace.lean -/

@[simp] theorem onTrace_keeps {s0 s : State} (hk0 : Kept s0 s) (d : DieId) (f : Trace → Trace) : Kept s0 (onTrace d f s) :=
  hk0.trans (by simp only [onTrace]; first | (simp (maxDischargeDepth := 100); done) | ((repeat' split) <;> simp (maxDischargeDepth := 100)))
@[simp] theorem writeRecord_keeps {s0 s : State} (hk0 : Kept s0 s) (d : DieId) (ctx rec : Nat) : Kept s0 (writeRecord d ctx rec s) :=
  hk0.trans (by simp only [writeRecord]; first | (simp (maxDischargeDepth := 100); done) | ((repeat' split) <;> simp (maxDischargeDepth := 100)))
@[simp] theorem writeMade_keeps {s0 s : State} (hk0 : Kept s0 s) (d : DieId) : Kept s0 (writeMade d s) :=
  hk0.trans (by simp only [writeMade]; first | (simp (maxDischargeDepth := 100); done) | ((repeat' split) <;> simp (maxDischargeDepth := 100)))
@[simp] theorem putRecord_keeps {s0 s : State} (hk0 : Kept s0 s) (d : DieId) (ctx rec : Nat) : Kept s0 (putRecord d ctx rec s) :=
  hk0.trans (by simp only [putRecord]; first | (simp (maxDischargeDepth := 100); done) | ((repeat' split) <;> simp (maxDischargeDepth := 100)))
@[simp] theorem putPlain_keeps {s0 s : State} (hk0 : Kept s0 s) (d : DieId) (kind b c : Nat) : Kept s0 (putPlain d kind b c s) :=
  hk0.trans (by simp only [putPlain]; first | (simp (maxDischargeDepth := 100); done) | ((repeat' split) <;> simp (maxDischargeDepth := 100)))
@[simp] theorem endRun_keeps {s0 s : State} (hk0 : Kept s0 s) (c : CoreId) (q : Fin 4) (r : Run) (now : Nat) : Kept s0 (endRun c q r now s) :=
  hk0.trans (by simp only [endRun]; first | (simp (maxDischargeDepth := 100); done) | ((repeat' split) <;> simp (maxDischargeDepth := 100)))
@[simp] theorem setRun_keeps {s0 s : State} (hk0 : Kept s0 s) (c : CoreId) (q : Fin 4) (r : Option Run) : Kept s0 (setRun c q r s) :=
  hk0.trans (by simp only [setRun]; first | (simp (maxDischargeDepth := 100); done) | ((repeat' split) <;> simp (maxDischargeDepth := 100)))
@[simp] theorem chargeRun_keeps {s0 s : State} (hk0 : Kept s0 s) (c : CoreId) (q : Fin 4) (ctx : Nat) (why : Cause) (sub pos nxt : Nat) : Kept s0 (chargeRun c q ctx why sub pos nxt s) :=
  hk0.trans (by simp only [chargeRun]; first | (simp (maxDischargeDepth := 100); done) | ((repeat' split) <;> simp (maxDischargeDepth := 100)))
@[simp] theorem mapRuns_keeps {s0 s : State} (hk0 : Kept s0 s) (d : DieId) (f : Run → Run) : Kept s0 (mapRuns d f s) :=
  hk0.trans (by simp only [mapRuns]; first | (simp (maxDischargeDepth := 100); done) | ((repeat' split) <;> simp (maxDischargeDepth := 100)))
@[simp] theorem sampleRecord_keeps {s0 s : State} (hk0 : Kept s0 s) (c : CoreId) (q : Fin 4) : Kept s0 (sampleRecord c q s) :=
  hk0.trans (by simp only [sampleRecord]; first | (simp (maxDischargeDepth := 100); done) | ((repeat' split) <;> simp (maxDischargeDepth := 100)))
@[simp] theorem sampleAll_keeps {s0 s : State} (hk0 : Kept s0 s) (d : DieId) : Kept s0 (sampleAll d s) :=
  hk0.trans (by simp only [sampleAll]; first | (simp (maxDischargeDepth := 100); done) | ((repeat' split) <;> simp (maxDischargeDepth := 100)))
@[simp] theorem openWindow_keeps {s0 s : State} (hk0 : Kept s0 s) (d : DieId) : Kept s0 (openWindow d s) :=
  hk0.trans (by simp only [openWindow]; first | (simp (maxDischargeDepth := 100); done) | ((repeat' split) <;> simp (maxDischargeDepth := 100)))
@[simp] theorem closeWindow_keeps {s0 s : State} (hk0 : Kept s0 s) (d : DieId) : Kept s0 (closeWindow d s) := by
  unfold closeWindow
  exact onTrace_keeps (putPlain_keeps (kept_foldl (fun t c => kept_foldl (fun u q => by
    split
    · exact .refl _
    · exact endRun_keeps (.refl _) _ _ _ _) (.refl _) _) hk0 _) _ _ _ _) _ _
@[simp] theorem addLoss_keeps {s0 s : State} (hk0 : Kept s0 s) (d : DieId) : Kept s0 (addLoss d s) :=
  hk0.trans (by simp only [addLoss]; first | (simp (maxDischargeDepth := 100); done) | ((repeat' split) <;> simp (maxDischargeDepth := 100)))
@[simp] theorem traceTick_keeps {s0 s : State} (hk0 : Kept s0 s) (d : DieId) : Kept s0 (traceTick d s) :=
  hk0.trans (by simp only [traceTick]; first | (simp (maxDischargeDepth := 100); done) | ((repeat' split) <;> simp (maxDischargeDepth := 100)))
@[simp] theorem charge_keeps {s0 s : State} (hk0 : Kept s0 s) (c : CoreId) (q : Fin 4) (why : Cause) (sub pos nxt : Nat) : Kept s0 (charge c q why sub pos nxt s) :=
  hk0.trans (by simp only [charge]; first | (simp (maxDischargeDepth := 100); done) | ((repeat' split) <;> simp (maxDischargeDepth := 100)))
@[simp] theorem fullIdle_keeps {s0 s : State} (hk0 : Kept s0 s) (c : CoreId) : Kept s0 (fullIdle c s) :=
  kept_foldl (fun t q => by
    split
    · exact kept_ite (chargeRun_keeps (.refl _) _ _ _ _ _ _ _) (.refl _)
    · exact .refl _) hk0 _

/-! ## The operations of Bells.lean -/

@[simp] theorem updateQcb_keeps {s0 s : State} (hk0 : Kept s0 s) (q slot : Nat) {f : Memory → Nat → Memory} (hf : ∀ m a, MemKept m (f m a)) :
    Kept s0 (updateQcb q slot f s) :=
  qcbUpdate_keeps (journal_keeps hk0 _ _ _ _) q hf
@[simp] theorem setPending_keeps {s0 s : State} (hk0 : Kept s0 s) (q : Nat) : Kept s0 (setPending q s) :=
  hk0.trans (by simp only [setPending]; first | (simp (maxDischargeDepth := 100); done) | ((repeat' split) <;> simp (maxDischargeDepth := 100)))
@[simp] theorem clearPending_keeps {s0 s : State} (hk0 : Kept s0 s) (q : Nat) : Kept s0 (clearPending q s) :=
  hk0.trans (by simp only [clearPending]; first | (simp (maxDischargeDepth := 100); done) | ((repeat' split) <;> simp (maxDischargeDepth := 100)))
@[simp] theorem unwatch_keeps {s0 s : State} (hk0 : Kept s0 s) (d : DieId) (i : Fin 256) : Kept s0 (unwatch d i s) :=
  hk0.trans (by simp only [unwatch]; first | (simp (maxDischargeDepth := 100); done) | ((repeat' split) <;> simp (maxDischargeDepth := 100)))
@[simp] theorem journalUnmap_keeps {s0 s : State} (hk0 : Kept s0 s) (d : DieId) (i : Fin 256) : Kept s0 (journalUnmap d i s) :=
  hk0.trans (by simp only [journalUnmap]; first | (simp (maxDischargeDepth := 100); done) | ((repeat' split) <;> simp (maxDischargeDepth := 100)))
@[simp] theorem setUnmapping_keeps {s0 s : State} (hk0 : Kept s0 s) (d : DieId) (i : Fin 256) (wblk : Bool) : Kept s0 (setUnmapping d i wblk s) :=
  hk0.trans (by simp only [setUnmapping]; first | (simp (maxDischargeDepth := 100); done) | ((repeat' split) <;> simp (maxDischargeDepth := 100)))
@[simp] theorem beginUnmap_keeps {s0 s : State} (hk0 : Kept s0 s) (d : DieId) (i : Fin 256) (wblk : Bool) : Kept s0 (beginUnmap d i wblk s) :=
  hk0.trans (by simp only [beginUnmap]; first | (simp (maxDischargeDepth := 100); done) | ((repeat' split) <;> simp (maxDischargeDepth := 100)))
@[simp] theorem helmUnmap_keeps {s0 s : State} (hk0 : Kept s0 s) (d : DieId) (i : Fin 256) : Kept s0 (helmUnmap d i s) :=
  hk0.trans (by simp only [helmUnmap]; first | (simp (maxDischargeDepth := 100); done) | ((repeat' split) <;> simp (maxDischargeDepth := 100)))
@[simp] theorem openUnmap_keeps {s0 s : State} (hk0 : Kept s0 s) (i : Fin 256) (q : Nat) : Kept s0 (openUnmap i q s) :=
  hk0.trans (by simp only [openUnmap]; first | (simp (maxDischargeDepth := 100); done) | ((repeat' split) <;> simp (maxDischargeDepth := 100)))
@[simp] theorem closeUnmap_keeps {s0 s : State} (hk0 : Kept s0 s) (d : DieId) (i : Fin 256) : Kept s0 (closeUnmap d i s) :=
  hk0.trans (by simp only [closeUnmap]; first | (simp (maxDischargeDepth := 100); done) | ((repeat' split) <;> simp (maxDischargeDepth := 100)))
@[simp] theorem finishUnmap_keeps {s0 s : State} (hk0 : Kept s0 s) (d : DieId) (i : Fin 256) : Kept s0 (finishUnmap d i s) :=
  hk0.trans (by simp only [finishUnmap]; first | (simp (maxDischargeDepth := 100); done) | ((repeat' split) <;> simp (maxDischargeDepth := 100)))
@[simp] theorem packetError_keeps {s0 s : State} (hk0 : Kept s0 s) (d : DieId) (i : Fin 256) (sub ctx : Nat) : Kept s0 (packetError d i sub ctx s) :=
  hk0.trans (by simp only [packetError]; first | (simp (maxDischargeDepth := 100); done) | ((repeat' split) <;> simp (maxDischargeDepth := 100)))
@[simp] theorem takeWidx_keeps {s0 s : State} (hk0 : Kept s0 s) (d : DieId) (i : Fin 256) (w lsigt : Nat) : Kept s0 (takeWidx d i w lsigt s) :=
  hk0.trans (by simp only [takeWidx]; first | (simp (maxDischargeDepth := 100); done) | ((repeat' split) <;> simp (maxDischargeDepth := 100)))
@[simp] theorem kick_keeps {s0 s : State} (hk0 : Kept s0 s) (q : Nat) : Kept s0 (kick q s) :=
  hk0.trans (by simp only [kick]; first | (simp (maxDischargeDepth := 100); done) | ((repeat' split) <;> simp (maxDischargeDepth := 100)))
@[simp] theorem ringBell_keeps {s0 s : State} (hk0 : Kept s0 s) (src : BellSource) (d : DieId) (off size v : Nat) : Kept s0 (ringBell src d off size v s) :=
  hk0.trans (by simp only [ringBell]; first | (simp (maxDischargeDepth := 100); done) | ((repeat' split) <;> simp (maxDischargeDepth := 100)))

/-! ## The operations of Control.lean -/

@[simp] theorem transfer_keeps {s0 s : State} (hk0 : Kept s0 s) (tgt : Option Nat) (cyc : Nat) : Kept s0 (transfer tgt cyc s) :=
  hk0.trans (by simp only [transfer]; first | (simp (maxDischargeDepth := 100); done) | ((repeat' split) <;> simp (maxDischargeDepth := 100)))
@[simp] theorem goTo_keeps {s0 s : State} (hk0 : Kept s0 s) (tgt cyc : Nat) : Kept s0 (goTo tgt cyc s) :=
  hk0.trans (by simp only [goTo]; first | (simp (maxDischargeDepth := 100); done) | ((repeat' split) <;> simp (maxDischargeDepth := 100)))
@[simp] theorem setTarget_keeps {s0 s : State} (hk0 : Kept s0 s) (b : BReg) (v : Dword) (wild : Bool) : Kept s0 (setTarget b v wild s) :=
  hk0.trans (by simp only [setTarget]; first | (simp (maxDischargeDepth := 100); done) | ((repeat' split) <;> simp (maxDischargeDepth := 100)))
@[simp] theorem branchIf_keeps {s0 s : State} (hk0 : Kept s0 s) (taken : Bool) (b : BReg) : Kept s0 (branchIf taken b s) :=
  hk0.trans (by simp only [branchIf]; first | (simp (maxDischargeDepth := 100); done) | ((repeat' split) <;> simp (maxDischargeDepth := 100)))
theorem stackBad_keeps {s0 s t : State} (hk0 : Kept s0 s) {sp : Int} {off n : Nat} (h : stackBad s sp off n = some t) : Kept s0 t := by
  simp only [stackBad] at h
  split at h
  · cases h; simp [hk0]
  · split at h <;> cases h
    simp [hk0]
@[simp] theorem poolRead_keeps {s0 s : State} (hk0 : Kept s0 s) (off n : Nat) {act : State → State} (ha : ∀ t, Kept t (act t)) :
    Kept s0 (poolRead off n s act) := by
  simp only [poolRead]; split <;> first | exact raise_keeps (meetPool_keeps hk0 _ _ _) _ _ _ | exact (meetPool_keeps hk0 _ _ _).trans (ha _)
@[simp] theorem takeTrap_keeps {s0 s : State} (hk0 : Kept s0 s) (code : Nat) : Kept s0 (takeTrap code s) :=
  hk0.trans (by simp only [takeTrap]; (repeat' split) <;> first | exact stackBad_keeps (Kept.refl _) ‹_› | simp (maxDischargeDepth := 100))
@[simp] theorem returnTrap_keeps {s0 s : State} (hk0 : Kept s0 s) : Kept s0 (returnTrap s) :=
  hk0.trans (by simp only [returnTrap]; (repeat' split) <;> first | exact stackBad_keeps (Kept.refl _) ‹_› | simp (maxDischargeDepth := 100))
@[simp] theorem spadAt_keeps {s0 s : State} (hk0 : Kept s0 s) (a : XReg) (imm : BitVec 9) (size : Nat) {act : Nat → State}
    (ha : ∀ n, Kept s0 (act n)) : Kept s0 (spadAt a imm size s act) := by
  simp [spadAt, hk0, ha]
@[simp] theorem poolPoison_keeps {s0 s t : State} (hk0 : Kept s0 s) (off n : Nat) (ht : Kept s0 t) : Kept s0 (poolPoison off n s t) := by
  simp [poolPoison, hk0, ht]
@[simp] theorem loadSpad_keeps {s0 s : State} (hk0 : Kept s0 s) (size : Nat) (d a : XReg) (imm : BitVec 9) : Kept s0 (loadSpad size d a imm s) :=
  hk0.trans (by simp only [loadSpad]; first | (simp (maxDischargeDepth := 100); done) | ((repeat' split) <;> simp (maxDischargeDepth := 100)))
@[simp] theorem storeSpad_keeps {s0 s : State} (hk0 : Kept s0 s) (size : Nat) (d a : XReg) (imm : BitVec 9) : Kept s0 (storeSpad size d a imm s) :=
  hk0.trans (by simp only [storeSpad]; first | (simp (maxDischargeDepth := 100); done) | ((repeat' split) <;> simp (maxDischargeDepth := 100)))
@[simp] theorem giveToken_keeps {s0 s : State} (hk0 : Kept s0 s) (q : QReg) : Kept s0 (giveToken q s) :=
  hk0.trans (by simp only [giveToken]; first | (simp (maxDischargeDepth := 100); done) | ((repeat' split) <;> simp (maxDischargeDepth := 100)))
@[simp] theorem takeToken_keeps {s0 s : State} (hk0 : Kept s0 s) (q : QReg) : Kept s0 (takeToken q s) :=
  hk0.trans (by simp only [takeToken]; first | (simp (maxDischargeDepth := 100); done) | ((repeat' split) <;> simp (maxDischargeDepth := 100)))
@[simp] theorem pushGuard_keeps {s0 s : State} (hk0 : Kept s0 s) (g : GReg) (v : Bool) : Kept s0 (pushGuard g v s) :=
  hk0.trans (by simp only [pushGuard]; first | (simp (maxDischargeDepth := 100); done) | ((repeat' split) <;> simp (maxDischargeDepth := 100)))
@[simp] theorem openLoop_keeps {s0 s : State} (hk0 : Kept s0 s) (n : BitVec 24) : Kept s0 (openLoop n s) :=
  hk0.trans (by simp only [openLoop]; first | (simp (maxDischargeDepth := 100); done) | ((repeat' split) <;> simp (maxDischargeDepth := 100)))
@[simp] theorem closeLoop_keeps {s0 s : State} (hk0 : Kept s0 s) : Kept s0 (closeLoop s) :=
  hk0.trans (by simp only [closeLoop]; first | (simp (maxDischargeDepth := 100); done) | ((repeat' split) <;> simp (maxDischargeDepth := 100)))
@[simp] theorem jumpBy_keeps {s0 s : State} (hk0 : Kept s0 s) (off : BitVec 24) : Kept s0 (jumpBy off s) :=
  hk0.trans (by simp only [jumpBy]; first | (simp (maxDischargeDepth := 100); done) | ((repeat' split) <;> simp (maxDischargeDepth := 100)))
@[simp] theorem stopSeq_keeps {s0 s : State} (hk0 : Kept s0 s) : Kept s0 (stopSeq s) :=
  hk0.trans (by simp only [stopSeq]; first | (simp (maxDischargeDepth := 100); done) | ((repeat' split) <;> simp (maxDischargeDepth := 100)))

/-! ## The operations of Ordered.lean -/

@[simp] theorem holdOn_keeps {s0 s : State} (hk0 : Kept s0 s) : Kept s0 (holdOn s) :=
  hk0.trans (by simp only [holdOn]; first | (simp (maxDischargeDepth := 100); done) | ((repeat' split) <;> simp (maxDischargeDepth := 100)))
@[simp] theorem readPoison_keeps {s0 s act : State} (hk0 : Kept s0 s) (i0 integ : Nat) (bad : Option Nat) (ha : Kept s0 act) :
    Kept s0 (readPoison i0 integ bad s act) := by
  unfold readPoison
  split
  · split <;> exact raise_keeps hk0 _ _ _
  · exact ha
@[simp] theorem request_keeps {s0 s : State} (hk0 : Kept s0 s) (buf : Nat) (off : Int) (n : Nat) (a : Acts) (mask : Nat)
    {act : List Nat → Nat → Nat → List Leaf → State} (ha : ∀ ks kid integ ls, Kept s0 (act ks kid integ ls)) :
    Kept s0 (request buf off n a mask s act) := by
  unfold request
  split
  · exact hk0
  · split
    · exact stall_keeps hk0 _ _
    · exact raise_keeps hk0 _ _ _
    · exact ha _ _ _ _
@[simp] theorem loadMem_keeps {s0 s : State} (hk0 : Kept s0 s) (size : Nat) (d : XReg) (h : HReg) (a : XReg) (imm : BitVec 9) :
    Kept s0 (loadMem size d h a imm s) := by
  simp only [loadMem]
  split
  · exact kept_ite (raise_keeps hk0 _ _ _) (poolRead_keeps hk0 _ _ fun t =>
      poolPoison_keeps (.refl _) _ _ (advance_keeps (postLater_keeps (.refl _) _ _)))
  · refine request_keeps hk0 _ _ _ _ _ fun ks kid integ ls => ?_
    split
    · exact hk0
    · have h1 := readMem_keeps hk0 s.cur.core s.myTid ‹_› (s.me.h.get h).hint.toNat ls ks
      exact kept_ite (raise_keeps (tick_keeps h1) _ _ _) (readPoison_keeps h1 _ _ _ (advance_keeps (postLater_keeps h1 _ _)))
@[simp] theorem storeMem_keeps {s0 s : State} (hk0 : Kept s0 s) (size : Nat) (d : XReg) (h : HReg) (a : XReg) (imm : BitVec 9) :
    Kept s0 (storeMem size d h a imm s) := by
  simp only [storeMem]
  split
  · simp (maxDischargeDepth := 100) [hk0]
  · refine request_keeps hk0 _ _ _ _ _ fun ks kid integ ls => ?_
    split
    · exact raise_keeps hk0 _ _ _
    · exact withinWrites_keeps hk0 (advance_keeps (markWrite_keeps (onTask_keeps hk0 _ _) _ _ _ _))
        _ _ fun c i j t => raise_keeps (.refl _) _ _ _
@[simp] theorem ordered_keeps {s0 s : State} (hk0 : Kept s0 s) (act : Late) (waits pins : Bool) {effect : State → State}
    (he : ∀ t, Kept s0 t → Kept s0 (effect t)) : Kept s0 (ordered act waits pins effect s) := by
  simp only [ordered]
  have ht : Kept s0 (if pins then pin s else s) := kept_ite (pin_keeps hk0) hk0
  generalize (if pins then pin s else s) = u at *
  exact kept_ite (onMe_keeps (advance_keeps ht) _) (he _ (advance_keeps ht))
@[simp] theorem atomicEffect_keeps {s0 s : State} (hk0 : Kept s0 s) (fn n : Nat) (ks : List Nat) (hint : Nat) (ls : List Leaf) (d : XReg)
    (v v2 : Nat) (ord : Order) (sc : Scope) : Kept s0 (atomicEffect fn n ks hint ls d v v2 ord sc s) := by
  unfold atomicEffect
  lift_lets
  intro c key u r t w
  have hp : Kept s0 u := kept_ite (publishAll_keeps hk0 _ _ _ _) hk0
  clear_value u
  have hr : Kept s0 r.2 := by
    simp only [r]
    split
    · exact ringBell_keeps hp _ _ _ _ _
    · exact atomicHome_keeps (markWrite_keeps hp _ _ _ _) _ _ _ _ _
  clear_value r
  have ht : Kept s0 t := kept_ite (acquireAt_keeps hr _ _ _) hr
  clear_value t
  have hw : Kept s0 w := kept_ite ht (postLater_keeps ht _ _)
  clear_value w
  exact kept_ite hw (holdOn_keeps hw)
@[simp] theorem meetAtomic_keeps {s0 s : State} (hk0 : Kept s0 s) (ls : List Leaf) (ks : List Nat) : Kept s0 (meetAtomic ls ks s) :=
  kept_ite hk0 (kept_foldl (fun _ _ => reachHome_keeps (.refl _) _ _ _ _) hk0 _)
@[simp] theorem atomic_keeps {s0 s : State} (hk0 : Kept s0 s) (fn n : Nat) (o : Atom) : Kept s0 (atomic fn n o s) := by
  simp only [atomic]
  split
  · exact raise_keeps hk0 _ _ _
  · refine request_keeps hk0 _ _ _ _ _ fun ks kid integ ls => ?_
    split
    · exact raise_keeps hk0 _ _ _
    · have hm := meetAtomic_keeps hk0 ls ks
      exact readPoison_keeps hm _ _ _ (ordered_keeps hm _ _ _ fun t ht => atomicEffect_keeps ht _ _ _ _ _ _ _ _ _ _)
@[simp] theorem fenceRelease_keeps {s0 s : State} (hk0 : Kept s0 s) (scope : Scope) : Kept s0 (fenceRelease scope s) :=
  hk0.trans (by simp only [fenceRelease]; first | (simp (maxDischargeDepth := 100); done) | ((repeat' split) <;> simp (maxDischargeDepth := 100)))
@[simp] theorem fenceEffect_keeps {s0 s : State} (hk0 : Kept s0 s) (releases acquires : Bool) (sc : Scope) : Kept s0 (fenceEffect releases acquires sc s) :=
  hk0.trans (by simp only [fenceEffect]; first | (simp (maxDischargeDepth := 100); done) | ((repeat' split) <;> simp (maxDischargeDepth := 100)))
@[simp] theorem rangeOp_keeps {s0 s : State} (hk0 : Kept s0 s) (h : HReg) (a : XReg) {act : Nat → Nat → Nat → State → State}
    (ha : ∀ n p q, Kept s0 (act n p q s)) : Kept s0 (rangeOp h a s act) := by
  simp only [rangeOp]
  split
  · exact advance_keeps hk0
  · split
    · exact hk0
    · split
      · exact raise_keeps hk0 _ _ _
      · exact ha _ _ _
@[simp] theorem flushEffect_keeps {s0 s : State} (hk0 : Kept s0 s) (sc : Scope) (lo hi ilv : Nat) : Kept s0 (flushEffect sc lo hi ilv s) :=
  hk0.trans (by simp only [flushEffect]; first | (simp (maxDischargeDepth := 100); done) | ((repeat' split) <;> simp (maxDischargeDepth := 100)))
@[simp] theorem phaseEffect_keeps {s0 s : State} (hk0 : Kept s0 s) (l : Level) : Kept s0 (phaseEffect l s) :=
  hk0.trans (by simp only [phaseEffect]; first | (simp (maxDischargeDepth := 100); done) | ((repeat' split) <;> simp (maxDischargeDepth := 100)))
@[simp] theorem commitEffect_keeps {s0 s : State} (hk0 : Kept s0 s) : Kept s0 (commitEffect s) :=
  hk0.trans (by simp only [commitEffect]; first | (simp (maxDischargeDepth := 100); done) | ((repeat' split) <;> simp (maxDischargeDepth := 100)))
@[simp] theorem onSlotK_keeps {s0 s : State} (hk0 : Kept s0 s) (k : KReg) (f : Slot → Slot) : Kept s0 (onSlotK k f s) :=
  hk0.trans (by simp only [onSlotK]; first | (simp (maxDischargeDepth := 100); done) | ((repeat' split) <;> simp (maxDischargeDepth := 100)))
@[simp] theorem bound_keeps {s0 s : State} (hk0 : Kept s0 s) (k : KReg) {act : State → State} (ha : Kept s0 (act s)) :
    Kept s0 (bound k s act) := kept_ite ha (raise_keeps hk0 _ _ _)
@[simp] theorem postBar_keeps {s0 s : State} (hk0 : Kept s0 s) (k : KReg) (op : BarOp) : Kept s0 (postBar k op s) := by
  simp only [postBar]
  split
  · exact onTask_keeps hk0 _ _
  · split
    · exact raise_keeps (barFrom_keeps hk0 _ _ _ _ _) _ _ _
    · exact barFrom_keeps hk0 _ _ _ _ _
@[simp] theorem postAdvance_keeps {s0 s : State} (hk0 : Kept s0 s) (k : KReg) (op : BarOp) {done : State → State}
    (hd : ∀ t, Kept t (done t)) : Kept s0 (postAdvance k op s done) := by
  simp only [postAdvance]
  have h := postBar_keeps hk0 k op
  exact kept_ite (advance_keeps (h.trans (hd _))) h
@[simp] theorem sound_keeps {s0 s : State} (hk0 : Kept s0 s) (k : KReg) {act : State → State} (ha : ∀ t, Kept t (act t)) :
    Kept s0 (sound k s act) := by
  simp only [sound]
  refine kept_ite (poolRead_keeps hk0 _ _ ha) ?_
  split
  · exact raise_keeps hk0 _ _ _
  · split
    · exact raise_keeps hk0 _ _ _
    · exact (markBar_keeps hk0 _ _ _).trans (ha _)
@[simp] theorem seeFlip_keeps {s0 s : State} (hk0 : Kept s0 s) (k : KReg) : Kept s0 (seeFlip k s) :=
  hk0.trans (by simp only [seeFlip]; first | (simp (maxDischargeDepth := 100); done) | ((repeat' split) <;> simp (maxDischargeDepth := 100)))

/-! ## The operations of TaskInstr.lean -/

@[simp] theorem alloc_keeps {s0 s : State} (hk0 : Kept s0 s) (spad : Bool) (d a : XReg) (imm : BitVec 14) : Kept s0 (alloc spad d a imm s) :=
  hk0.trans (by simp only [alloc]; first | (simp (maxDischargeDepth := 100); done) | ((repeat' split) <;> simp (maxDischargeDepth := 100)))
@[simp] theorem leaveBy_keeps {s0 s : State} (hk0 : Kept s0 s) (why : Leave) : Kept s0 (leaveBy why s) :=
  hk0.trans (by simp only [leaveBy]; first | (simp (maxDischargeDepth := 100); done) | ((repeat' split) <;> simp (maxDischargeDepth := 100)))
@[simp] theorem parkEffect_keeps {s0 s : State} (hk0 : Kept s0 s) : Kept s0 (parkEffect s) :=
  hk0.trans (by simp only [parkEffect]; first | (simp (maxDischargeDepth := 100); done) | ((repeat' split) <;> simp (maxDischargeDepth := 100)))
@[simp] theorem switchTo_keeps {s0 s : State} (hk0 : Kept s0 s) (reg : Bool) (a : XReg) : Kept s0 (switchTo reg a s) :=
  hk0.trans (by simp only [switchTo]; first | (simp (maxDischargeDepth := 100); done) | ((repeat' split) <;> simp (maxDischargeDepth := 100)))
@[simp] theorem saveWaiter_keeps {s0 s : State} (hk0 : Kept s0 s) (c : CoreId) (tid : Nat) : Kept s0 (saveWaiter c tid s) :=
  hk0.trans (by simp only [saveWaiter]; first | (simp (maxDischargeDepth := 100); done) | ((repeat' split) <;> simp (maxDischargeDepth := 100)))
@[simp] theorem loadRun_keeps {s0 s : State} (hk0 : Kept s0 s) (c : CoreId) (tid till : Nat) (reg : Bool) (old : Core) : Kept s0 (loadRun c tid till reg old s) :=
  hk0.trans (by simp only [loadRun]; first | (simp (maxDischargeDepth := 100); done) | ((repeat' split) <;> simp (maxDischargeDepth := 100)))
@[simp] theorem finishSave_keeps {s0 s : State} (hk0 : Kept s0 s) (c : CoreId) (why : Leave) : Kept s0 (finishSave c why s) := by
  unfold finishSave
  split
  · exact hk0
  · rename_i tid _
    lift_lets
    intro reg t old v at'
    refine kept_ite (discardTask_keeps hk0 _ _) ?_
    have ht : Kept s0 t := endStop_keeps (saveWaiter_keeps hk0 _ _) _ _
    have hv : Kept s0 v := publishAll_keeps (onTask_keeps ht _ _) _ _ _ _
    clear_value at' v reg old
    have hs := saveTask_keeps hv c tid reg
    refine kept_ite hv ?_
    revert hs
    generalize saveTask c tid reg v = r
    intro hs
    rcases r with ⟨b, w⟩
    cases b
    · exact raiseOn_keeps hs _ _
    · simp only
      generalize hw' : vacate c _ = w'
      have hw : Kept s0 w' := hw' ▸ vacate_keeps (onTask_keeps hs _ _) _
      cases why
      case park => exact takeShadow_keeps (leaveCtx_keeps (onCtx_keeps hw _ _) _ _) _
      case csw => exact refresh_keeps (leaveCtx_keeps (loadRun_keeps hw _ _ _ _ _) _ _) _ _
      all_goals exact takeShadow_keeps (leaveCtx_keeps hw _ _) _
@[simp] theorem bindEntry_keeps {s0 s : State} (hk0 : Kept s0 s) (x : Context) (i : Nat) (pool pwr : Bool) (ver obj : Nat) (base : Option Nat) : Kept s0 (bindEntry x i pool pwr ver obj base s) :=
  hk0.trans (by simp only [bindEntry]; first | (simp (maxDischargeDepth := 100); done) | ((repeat' split) <;> simp (maxDischargeDepth := 100)))
@[simp] theorem mapVersion_keeps {s0 s : State} (hk0 : Kept s0 s) (x : Context) (reader : Bool) (base : Nat) (pages : List (Nat × Nat)) :
    Kept s0 (mapVersion x reader base pages s) := by
  unfold mapVersion
  refine kept_foldl (fun t p => ?_) hk0 _
  split
  · exact .refl _
  · refine kept_foldl (fun u i => ?_) (setFrame_keeps (.refl _) _ _ _) _
    simp (maxDischargeDepth := 100)
@[simp] theorem snapDone_keeps {s0 s : State} (hk0 : Kept s0 s) : Kept s0 (snapDone s) :=
  hk0.trans (by simp only [snapDone]; first | (simp (maxDischargeDepth := 100); done) | ((repeat' split) <;> simp (maxDischargeDepth := 100)))
@[simp] theorem snapOpen_keeps {s0 s : State} (hk0 : Kept s0 s) (writer : Bool) (a b : XReg) : Kept s0 (snapOpen writer a b s) :=
  hk0.trans (by simp only [snapOpen]; first | (simp (maxDischargeDepth := 100); done) | ((repeat' split) <;> simp (maxDischargeDepth := 100)))
@[simp] theorem reclaim_keeps {s0 s : State} (hk0 : Kept s0 s) (o ver : Nat) : Kept s0 (reclaim o ver s) :=
  hk0.trans (by simp only [reclaim]; first | (simp (maxDischargeDepth := 100); done) | ((repeat' split) <;> simp (maxDischargeDepth := 100)))
@[simp] theorem endBinding_keeps {s0 s : State} (hk0 : Kept s0 s) (i : Nat) : Kept s0 (endBinding i s) :=
  hk0.trans (by simp only [endBinding]; first | (simp (maxDischargeDepth := 100); done) | ((repeat' split) <;> simp (maxDischargeDepth := 100)))
@[simp] theorem snapEffect_keeps {s0 s : State} (hk0 : Kept s0 s) (i : Nat) : Kept s0 (snapEffect i s) :=
  hk0.trans (by simp only [snapEffect]; first | (simp (maxDischargeDepth := 100); done) | ((repeat' split) <;> simp (maxDischargeDepth := 100)))
@[simp] theorem lateEffect_keeps {s0 s : State} (hk0 : Kept s0 s) (act : Late) : Kept s0 (lateEffect act s) := by
  cases act <;> simp only [lateEffect]
  all_goals simp (maxDischargeDepth := 100) [hk0]
@[simp] theorem leaveCache_keeps {s0 s : State} (hk0 : Kept s0 s) (nc : Nat) : Kept s0 (leaveCache nc s) :=
  hk0.trans (by simp only [leaveCache]; first | (simp (maxDischargeDepth := 100); done) | ((repeat' split) <;> simp (maxDischargeDepth := 100)))

/-! ## The operations of Queue.lean -/

@[simp] theorem enqueue_keeps {s0 s : State} (hk0 : Kept s0 s) (e : Engine) (hs : List HReg) (bar : Option KReg) (ranges : List Range) (units : Nat) : Kept s0 (enqueue e hs bar ranges units s) :=
  hk0.trans (by simp only [enqueue]; first | (simp (maxDischargeDepth := 100); done) | ((repeat' split) <;> simp (maxDischargeDepth := 100)))
@[simp] theorem onCmd_keeps {s0 s : State} (hk0 : Kept s0 s) (e : Engine) (tid num : Nat) (f : Cmd → Cmd) : Kept s0 (onCmd e tid num f s) :=
  hk0.trans (by simp only [onCmd]; first | (simp (maxDischargeDepth := 100); done) | ((repeat' split) <;> simp (maxDischargeDepth := 100)))
@[simp] theorem performing_keeps {s0 s : State} (hk0 : Kept s0 s) {act : Cmd → Task → State} (ha : ∀ m t, Kept s0 (act m t)) :
    Kept s0 (performing s act) := by
  unfold performing
  split
  · exact hk0
  · split
    · exact hk0
    · exact ha _ _
@[simp] theorem engineInstr_keeps {s0 s : State} (hk0 : Kept s0 s) {issue perform : State → State} (hi : Kept s0 (issue s))
    (hp : ∀ t, Kept t (perform t)) : Kept s0 (engineInstr issue perform s) :=
  kept_ite (beneath_keeps hk0 _ _ hp) hi
@[simp] theorem begin'_keeps {s0 s : State} (hk0 : Kept s0 s) (least : Nat) (f : Cmd → Cmd) : Kept s0 (begin' least f s) :=
  hk0.trans (by simp only [begin']; first | (simp (maxDischargeDepth := 100); done) | ((repeat' split) <;> simp (maxDischargeDepth := 100)))
@[simp] theorem fail_keeps {s0 s : State} (hk0 : Kept s0 s) (m : Cmd) (f : Nat × Nat × Nat) : Kept s0 (fail m f s) :=
  hk0.trans (by simp only [fail]; first | (simp (maxDischargeDepth := 100); done) | ((repeat' split) <;> simp (maxDischargeDepth := 100)))
@[simp] theorem fetchElems_keeps {s0 s : State} (hk0 : Kept s0 s) (c : CoreId) (tid : Nat) (t : Task) (o : Opd) (w : Nat) (ls : List Leaf) (ps : List Place) :
    Kept s0 (fetchElems c tid t o w ls ps s).2 := by
  simp only [fetchElems]
  split
  · exact meetPool_keeps hk0 _ _ _
  · exact readMem_keeps hk0 _ _ _ _ _ _
@[simp] theorem poolPut_keeps {s0 s : State} (hk0 : Kept s0 s) (c : CoreId) (w : Nat) (es : List (Place × Nat × Bool)) : Kept s0 (poolPut c w es s) :=
  hk0.trans (by simp only [poolPut]; first | (simp (maxDischargeDepth := 100); done) | ((repeat' split) <;> simp (maxDischargeDepth := 100)))

/-! ## The operations of Transfer.lean -/

@[simp] theorem issueXfer_keeps {s0 s : State} (hk0 : Kept s0 s) (w : Xfer) (hs : List HReg) (ranges : Opd → Opd → Core → List Range) : Kept s0 (issueXfer w hs ranges s) := by
  simp only [issueXfer]
  repeat' with_reducible first | assumption | exact Kept.refl _ | apply enqueue_keeps | split | intro _
  all_goals simp (maxDischargeDepth := 100) [*]
@[simp] theorem baseRows_keeps {s0 s : State} (hk0 : Kept s0 s) (c : CoreId) (t : Task) (ls : List Leaf) (ps : List Place) : Kept s0 (baseRows c t ls ps s) := by
  simp only [baseRows]
  repeat' with_reducible first | assumption | exact Kept.refl _ | apply markLeaf_keeps | apply reachHome_keeps | refine kept_foldl (fun _ _ => ?_) ?_ _ | split | intro _
  all_goals simp (maxDischargeDepth := 100) [*]
@[simp] theorem deliver_keeps {s0 s : State} (hk0 : Kept s0 s) (m : Cmd) (t : Task) (src dst : Opd) (sa : List Int) (ps qs : List Place) (integ : Nat) (ls ms : List Leaf) (pick : List (Nat × Bool) → List (Nat × Bool)) (conv : Nat → Nat) (least : Nat) : Kept s0 (deliver m t src dst sa ps qs integ ls ms pick conv least s) := by
  simp only [deliver]
  repeat' with_reducible first | assumption | exact Kept.refl _ | apply raiseCmd_keeps | apply markWrite_keeps | apply begin'_keeps | apply fetchElems_keeps | apply poolPut_keeps | split | intro _
  all_goals simp (maxDischargeDepth := 100) [*]
@[simp] theorem moveElems_keeps {s0 s : State} (hk0 : Kept s0 s) (m : Cmd) (t : Task) (src dst : Opd) (sa da : List Int) (pick : List (Nat × Bool) → List (Nat × Bool)) (conv : Nat → Nat) (least : List Place → Nat) (base : Bool) : Kept s0 (moveElems m t src dst sa da pick conv least base s) := by
  simp only [moveElems]
  repeat' with_reducible first | assumption | exact Kept.refl _ | apply fail_keeps | apply baseRows_keeps | apply deliver_keeps | split | intro _
  all_goals simp (maxDischargeDepth := 100) [*]
@[simp] theorem startCopy_keeps {s0 s : State} (hk0 : Kept s0 s) (w : Xfer) (formats : Fmt → Fmt → Bool) (one swap : Bool) (conv : Opd → Opd → Nat → Nat) (rate : Opd → Opd → Nat → Nat) : Kept s0 (startCopy w formats one swap conv rate s) := by
  simp only [startCopy]
  repeat' with_reducible first | assumption | exact Kept.refl _ | apply performing_keeps | apply fail_keeps | apply moveElems_keeps | split | intro _
  all_goals simp (maxDischargeDepth := 100) [*]
@[simp] theorem startRows_keeps {s0 s : State} (hk0 : Kept s0 s) (w : Xfer) (xh : HReg) (gather : Bool) : Kept s0 (startRows w xh gather s) := by
  simp only [startRows]
  repeat' with_reducible first | assumption | exact Kept.refl _ | apply raiseCmd_keeps | apply performing_keeps | apply begin'_keeps | apply fail_keeps | apply fetchElems_keeps | apply moveElems_keeps | split | intro _
  all_goals simp (maxDischargeDepth := 100) [*]
@[simp] theorem meetElems_keeps {s0 s : State} (hk0 : Kept s0 s) (c : CoreId) (t : Task) (ls : List Leaf) (qs : List Place) : Kept s0 (meetElems c t ls qs s) := by
  simp only [meetElems]
  repeat' with_reducible first | assumption | exact Kept.refl _ | apply reachHome_keeps | refine kept_foldl (fun _ _ => ?_) ?_ _ | split | intro _
  all_goals simp (maxDischargeDepth := 100) [*]
@[simp] theorem startRedadd_keeps {s0 s : State} (hk0 : Kept s0 s) (w : Xfer) : Kept s0 (startRedadd w s) := by
  simp only [startRedadd]
  repeat' with_reducible first | assumption | exact Kept.refl _ | apply onTask_keeps | apply raiseCmd_keeps | apply markWrite_keeps | apply redaddAt_keeps | apply withinWrites_keeps | apply request_keeps | apply performing_keeps | apply begin'_keeps | apply fail_keeps | apply fetchElems_keeps | apply meetElems_keeps | refine kept_foldl (fun _ _ => ?_) ?_ _ | split | intro _
  all_goals simp (maxDischargeDepth := 100) [*]
@[simp] theorem startPref_keeps {s0 s : State} (hk0 : Kept s0 s) (sh : HReg) (soff : BitVec 24) (cnt : BitVec 12) : Kept s0 (startPref sh soff cnt s) := by
  simp only [startPref]
  repeat' with_reducible first | assumption | exact Kept.refl _ | apply ringCount_keeps | apply performing_keeps | apply begin'_keeps | apply fail_keeps | refine kept_getD (fun _ => ?_) ?_ _ | split | intro _
  all_goals simp (maxDischargeDepth := 100) [*]
@[simp] theorem startBulk_keeps {s0 s : State} (hk0 : Kept s0 s) (w : Xfer) : Kept s0 (startBulk w s) := by
  simp only [startBulk]
  repeat' with_reducible first | assumption | exact Kept.refl _ | apply onTask_keeps | apply tick_keeps | apply markLeaf_keeps | apply cumulate_keeps | apply publishWhere_keeps | apply acquireMoved_keeps | apply markWrite_keeps | apply onCmd_keeps | apply performing_keeps | apply fail_keeps | refine kept_foldl (fun _ _ => ?_) ?_ _ | split | intro _
  all_goals simp (maxDischargeDepth := 100) [*]

/-! ## The operations of Vector.lean -/

@[simp] theorem issueVec_keeps {s0 s : State} (hk0 : Kept s0 s) (plan : Nat → VPlan) : Kept s0 (issueVec plan s) := by
  simp only [issueVec]
  repeat' with_reducible first | assumption | exact Kept.refl _ | apply enqueue_keeps | split | intro _
  all_goals simp (maxDischargeDepth := 100) [*]
@[simp] theorem vecFetch_keeps {s0 s : State} (hk0 : Kept s0 s) (c : CoreId) (tid : Nat) (t : Task) (n : Nat) (src : VSrc) :
    Kept s0 (vecFetch c tid t n src s).2.2.2 := by
  cases src <;> simp only [vecFetch]
  · split
    · exact meetPool_keeps hk0 _ _ _
    · exact hk0
  · exact fetchElems_keeps hk0 _ _ _ _ _ _ _
@[simp] theorem vecFetchAll_keeps {s0 s : State} (hk0 : Kept s0 s) (c : CoreId) (tid : Nat) (t : Task) (n : Nat) (l : List VSrc) :
    Kept s0 (vecFetchAll c tid t n l s).2.2.2 := by
  induction l generalizing s with
  | nil => exact hk0
  | cons x l ih => exact ih (vecFetch_keeps hk0 _ _ _ _ _)
@[simp] theorem readsOn_keeps {s0 s : State} (hk0 : Kept s0 s) (m : Cmd) (reads : List Nat) (got : List (List Lanes)) (bad : Bool)
    (stop : Option (Nat × Nat × Nat × Nat × Nat)) : Kept s0 (readsOn m reads got bad stop s) := onCmd_keeps hk0 _ _ _ _
@[simp] theorem readVec_keeps {s0 s : State} (hk0 : Kept s0 s) (m : Cmd) (t : Task) (v : Nat) (src : Operand × Nat)
    (got : List Lanes) : Kept s0 (readVec m t v src got s).2.2.2 := by
  simp only [readVec]
  repeat' with_reducible first | assumption | apply vecFetch_keeps | split
@[simp] theorem readVecs_keeps {s0 s : State} (hk0 : Kept s0 s) (m : Cmd) (t : Task) (v : Nat)
    (l : List ((Operand × Nat) × List Lanes)) : Kept s0 (readVecs m t v l s).2.2.2 := by
  induction l generalizing s with
  | nil => exact hk0
  | cons x l ih => exact ih (readVec_keeps hk0 _ _ _ _ _)
@[simp] theorem finishVec_keeps {s0 s : State} (hk0 : Kept s0 s) (p : VPlan) (m : Cmd) (got : List (List Lanes)) (bad : Bool)
    (stop : Option (Nat × Nat × Nat × Nat × Nat)) : Kept s0 (finishVec p m got bad stop s) := by
  simp only [finishVec]
  repeat' with_reducible first | assumption | exact Kept.refl _ | apply onMe_keeps | apply raiseCmd_keeps | split | intro _
@[simp] theorem readNext_keeps {s0 s : State} (hk0 : Kept s0 s) (n : Nat) (srcs : List (Operand × Nat)) (m : Cmd) (t : Task)
    (f : List (List Lanes) → Bool → Option (Nat × Nat × Nat × Nat × Nat) → State → State)
    (hf : ∀ got bad stop u, Kept s0 u → Kept s0 (f got bad stop u)) : Kept s0 (readNext n srcs m t f s) := by
  simp only [readNext]
  repeat' with_reducible first | assumption | apply hf | apply readsOn_keeps | apply readVecs_keeps | split
@[simp] theorem startVec_keeps {s0 s : State} (hk0 : Kept s0 s) (plan : Nat → VPlan) : Kept s0 (startVec plan s) := by
  simp only [startVec]
  repeat' with_reducible first | assumption | exact Kept.refl _ | refine readNext_keeps ?_ _ _ _ _ _ (fun _ _ _ _ h => finishVec_keeps h _ _ _ _ _) | apply finishVec_keeps | apply readsOn_keeps | apply onMe_keeps | apply tick_keeps | apply raiseCmd_keeps | apply onCmd_keeps | apply performing_keeps | apply fail_keeps | apply vecFetchAll_keeps | refine kept_foldl (fun _ _ => ?_) ?_ _ | refine kept_getD (fun _ => ?_) ?_ _ | split | intro _
  all_goals simp (maxDischargeDepth := 100) [*]
@[simp] theorem vector_keeps {s0 s : State} (hk0 : Kept s0 s) (plan : Nat → VPlan) : Kept s0 (vector plan s) := by
  simp only [vector]
  repeat' with_reducible first | assumption | exact Kept.refl _ | apply engineInstr_keeps | apply issueVec_keeps | apply startVec_keeps | split | intro _
  all_goals simp (maxDischargeDepth := 100) [*]
@[simp] theorem beginPred_keeps {s0 s : State} (hk0 : Kept s0 s) (busy : Nat) : Kept s0 (beginPred busy s) := by
  simp only [beginPred]
  repeat' with_reducible first | assumption | exact Kept.refl _ | apply onCmd_keeps | apply vector_keeps | split | intro _
  all_goals simp (maxDischargeDepth := 100) [*]
@[simp] theorem finishCmp_keeps {s0 s : State} (hk0 : Kept s0 s) (fmt : Fmt) (pred : Option PReg) (pd : PReg) (cond : VCond) (m : Cmd)
    (got : List (List Lanes)) (bad : Bool) (stop : Option (Nat × Nat × Nat × Nat × Nat)) :
    Kept s0 (finishCmp fmt pred pd cond m got bad stop s) := by
  simp only [finishCmp]
  repeat' with_reducible first | assumption | exact Kept.refl _ | apply onMe_keeps | apply raiseCmd_keeps | split | intro _
@[simp] theorem startCmp_keeps {s0 s : State} (hk0 : Kept s0 s) (fmt : Fmt) (pred : Option PReg) (pd : PReg) (cond : VCond) (a b : Operand) : Kept s0 (startCmp fmt pred pd cond a b s) := by
  simp only [startCmp]
  repeat' with_reducible first | assumption | exact Kept.refl _ | refine readNext_keeps ?_ _ _ _ _ _ (fun _ _ _ _ h => finishCmp_keeps h _ _ _ _ _ _ _ _) | apply finishCmp_keeps | apply readsOn_keeps | apply onMe_keeps | apply tick_keeps | apply raiseCmd_keeps | apply performing_keeps | apply fail_keeps | apply vecFetchAll_keeps | apply vector_keeps | apply beginPred_keeps | refine kept_getD (fun _ => ?_) ?_ _ | split | intro _
  all_goals simp (maxDischargeDepth := 100) [*]
@[simp] theorem predOp_keeps {s0 s : State} (hk0 : Kept s0 s) (pd pa pb : PReg) (f : Dword → Dword → Dword) : Kept s0 (predOp pd pa pb f s) := by
  simp only [predOp]
  repeat' with_reducible first | assumption | exact Kept.refl _ | apply onMe_keeps | apply enqueue_keeps | apply performing_keeps | apply engineInstr_keeps | apply vector_keeps | apply beginPred_keeps | split | intro _
  all_goals simp (maxDischargeDepth := 100) [*]
@[simp] theorem vote_keeps {s0 s : State} (hk0 : Kept s0 s) (pred : Option PReg) (pa : PReg) (f : (enabled ones : Dword) → Dest) : Kept s0 (vote pred pa f s) := by
  simp only [vote]
  repeat' with_reducible first | assumption | exact Kept.refl _ | apply onMe_keeps | apply raiseCmd_keeps | apply enqueue_keeps | apply performing_keeps | apply engineInstr_keeps | apply vector_keeps | apply beginPred_keeps | split | intro _
  all_goals simp (maxDischargeDepth := 100) [*]

/-! ## The operations of Matrix.lean -/

@[simp] theorem beginMat_keeps {s0 s : State} (hk0 : Kept s0 s) (op : MatOp) (w : Mat) (f : FormatWord) (m : Cmd) (effect : Core → Core) : Kept s0 (beginMat op w f m effect s) := by
  simp only [beginMat]
  repeat' with_reducible first | assumption | exact Kept.refl _ | apply onMe_keeps | apply onCmd_keeps | split | intro _
  all_goals simp (maxDischargeDepth := 100) [*]
@[simp] theorem putLater_keeps {s0 s : State} (hk0 : Kept s0 s) (m : Cmd) (ps : List Put) : Kept s0 (putLater m ps s) := by
  simp only [putLater]
  repeat' with_reducible first | assumption | exact Kept.refl _ | apply onCmd_keeps | split | intro _
  all_goals simp (maxDischargeDepth := 100) [*]
@[simp] theorem matFail_keeps {s0 s : State} (hk0 : Kept s0 s) (m : Cmd) (x : Nat × Nat × Nat) : Kept s0 (matFail m x s) := by
  simp only [matFail]
  repeat' with_reducible first | assumption | exact Kept.refl _ | apply raiseCmd_keeps | apply begin'_keeps | apply fail_keeps | split | intro _
  all_goals simp (maxDischargeDepth := 100) [*]
@[simp] theorem meetReads_keeps {s0 s : State} (hk0 : Kept s0 s) (m : Cmd) (t : Task) : Kept s0 (meetReads m t s) := by
  simp only [meetReads]
  repeat' with_reducible first | assumption | exact Kept.refl _ | apply meetFlaw_keeps | refine kept_foldl (fun _ _ => ?_) ?_ _ | split | intro _
  all_goals simp (maxDischargeDepth := 100) [*]
@[simp] theorem startMat_keeps {s0 s : State} (hk0 : Kept s0 s) (op : MatOp) (w : Mat) (act : Cmd → Task → FormatWord → State → State) (ha : ∀ m t f, Kept s0 (act m t f s)) : Kept s0 (startMat op w act s) := by
  simp only [startMat]
  repeat' with_reducible first | assumption | exact Kept.refl _ | apply performing_keeps | apply fail_keeps | apply matFail_keeps | apply meetReads_keeps | apply ha | split | intro _
  all_goals simp (maxDischargeDepth := 100) [*]
@[simp] theorem issueMat_keeps {s0 s : State} (hk0 : Kept s0 s) (op : MatOp) (w : Mat) : Kept s0 (issueMat op w s) := by
  simp only [issueMat]
  repeat' with_reducible first | assumption | exact Kept.refl _ | apply enqueue_keeps | split | intro _
  all_goals simp (maxDischargeDepth := 100) [*]
@[simp] theorem matrix_keeps {s0 s : State} (hk0 : Kept s0 s) (op : MatOp) (w : Mat) (act : Cmd → Task → FormatWord → State → State) (ha : ∀ s m t f, Kept s (act m t f s)) : Kept s0 (matrix op w act s) := by
  simp only [matrix]
  repeat' with_reducible first | assumption | exact Kept.refl _ | apply engineInstr_keeps | apply startMat_keeps | apply issueMat_keeps | apply ha | split | intro _
  all_goals simp (maxDischargeDepth := 100) [*]
@[simp] theorem multiply_keeps {s0 s : State} (hk0 : Kept s0 s) (op : MatOp) (w : Mat) (m : Cmd) (f : FormatWord) (bad : Bool) (sums : Nat × Nat × Nat → Nat → Acc3) : Kept s0 (multiply op w m f bad sums s) := by
  simp only [multiply]
  repeat' with_reducible first | assumption | exact Kept.refl _ | apply beginMat_keeps | split | intro _
  all_goals simp (maxDischargeDepth := 100) [*]
@[simp] theorem startMma_keeps {s0 s : State} (hk0 : Kept s0 s) (op : MatOp) (w : Mat) (m : Cmd) (t : Task) (f : FormatWord) : Kept s0 (startMma op w m t f s) := by
  simp only [startMma]
  repeat' with_reducible first | assumption | exact Kept.refl _ | apply matFail_keeps | apply multiply_keeps | refine kept_getD (fun _ => ?_) ?_ _ | split | intro _
  all_goals simp (maxDischargeDepth := 100) [*]
@[simp] theorem startMmag_keeps {s0 s : State} (hk0 : Kept s0 s) (w : Mat) (m : Cmd) (t : Task) (f : FormatWord) : Kept s0 (startMmag w m t f s) := by
  simp only [startMmag]
  repeat' with_reducible first | assumption | exact Kept.refl _ | apply matFail_keeps | apply multiply_keeps | refine kept_getD (fun _ => ?_) ?_ _ | split | intro _
  all_goals simp (maxDischargeDepth := 100) [*]
@[simp] theorem startMst_keeps {s0 s : State} (hk0 : Kept s0 s) (w : Mat) (m : Cmd) (t : Task) (f : FormatWord) : Kept s0 (startMst w m t f s) := by
  simp only [startMst]
  repeat' with_reducible first | assumption | exact Kept.refl _ | apply fail_keeps | apply beginMat_keeps | apply putLater_keeps | apply matFail_keeps | refine kept_getD (fun _ => ?_) ?_ _ | split | intro _
  all_goals simp (maxDischargeDepth := 100) [*]

/-! ## The operations of Engines.lean -/

@[simp] theorem dropCmd_keeps {s0 s : State} (hk0 : Kept s0 s) (e : Engine) (m : Cmd) : Kept s0 (dropCmd e m s) := by
  simp only [dropCmd]
  repeat' with_reducible first | assumption | exact Kept.refl _ | apply onMe_keeps | split | intro _
  all_goals simp (maxDischargeDepth := 100) [*]
@[simp] theorem admitCmd_keeps {s0 s : State} (hk0 : Kept s0 s) (e : Engine) (m : Cmd) (outcome pops : Bool) : Kept s0 (admitCmd e m outcome pops s) := by
  simp only [admitCmd]
  repeat' with_reducible first | assumption | exact Kept.refl _ | apply onMe_keeps | apply onCmd_keeps | apply dropCmd_keeps | split | intro _
  all_goals simp (maxDischargeDepth := 100) [*]
@[simp] theorem performNext_keeps {s0 s : State} (hk0 : Kept s0 s) (e : Engine) (m : Cmd) : Kept s0 (performNext e m s) := hk0
@[simp] theorem startHead_keeps {s0 s : State} (hk0 : Kept s0 s) : Kept s0 (startHead s) := by
  simp only [startHead]
  repeat' with_reducible first | assumption | apply performNext_keeps | exact Kept.refl _ | apply onMe_keeps | apply raiseCmd_keeps | apply admitCmd_keeps | split | intro _
  all_goals simp (maxDischargeDepth := 100) [*]
@[simp] theorem completeCounted_keeps {s0 s : State} (hk0 : Kept s0 s) (e : Engine) (m : Cmd) : Kept s0 (completeCounted e m s) := by
  simp only [completeCounted]
  repeat' with_reducible first | assumption | exact Kept.refl _ | apply onTask_keeps | apply raiseCmd_keeps | apply publishWhere_keeps | apply barFrom_keeps | apply publishLines_keeps | split | intro _
  all_goals simp (maxDischargeDepth := 100) [*]
@[simp] theorem retireCmd_keeps {s0 s : State} (hk0 : Kept s0 s) (e : Engine) (m : Cmd) : Kept s0 (retireCmd e m s) := by
  simp only [retireCmd]
  repeat' with_reducible first | assumption | exact Kept.refl _ | apply onTask_keeps | apply raiseCmd_keeps | apply badBell_keeps | apply exhaust_keeps | apply dropCmd_keeps | apply completeCounted_keeps | split | intro _
  all_goals simp (maxDischargeDepth := 100) [*]
@[simp] theorem landPuts_keeps {s0 s : State} (hk0 : Kept s0 s) (e : Engine) (m : Cmd) : Kept s0 (landPuts e m s) := by
  simp only [landPuts]
  repeat' with_reducible first | assumption | exact Kept.refl _ | apply onCmd_keeps | apply poolPut_keeps | refine kept_foldl (fun _ _ => ?_) ?_ _ | split | intro _
  all_goals simp (maxDischargeDepth := 100) [*]
@[simp] theorem retireAll_keeps {s0 s : State} (hk0 : Kept s0 s) (e : Engine) (l : List Cmd) : Kept s0 (retireAll e l s) := by
  induction l generalizing s with
  | nil => exact hk0
  | cons m l ih =>
    have hp : Kept s0 (if m.puts.isEmpty then s else beneath s.cur.core m.task (landPuts e m) s) :=
      kept_ite hk0 (beneath_keeps hk0 _ _ fun t => landPuts_keeps (.refl _) _ _)
    exact ih (kept_ite (beneath_keeps hp _ _ fun t => retireCmd_keeps (.refl _) _ _) hp)
@[simp] theorem copyBulk_keeps {s0 s : State} (hk0 : Kept s0 s) (b : Bulk) (n : Nat) : Kept s0 (copyBulk b n s) := by
  simp only [copyBulk]
  repeat' with_reducible first | assumption | exact Kept.refl _ | apply badBell_keeps | apply publishCells_keeps | split | intro _
  all_goals simp (maxDischargeDepth := 100) [*]
@[simp] theorem meetBulk_keeps {s0 s : State} (hk0 : Kept s0 s) (b : Bulk) : Kept s0 (meetBulk b s) := by
  simp only [meetBulk]
  repeat' with_reducible first | assumption | exact Kept.refl _ | apply reachHome_keeps | refine kept_foldl (fun _ _ => ?_) ?_ _ | refine kept_getD (fun _ => ?_) ?_ _ | split | intro _
  all_goals simp (maxDischargeDepth := 100) [*]
@[simp] theorem endBulk_keeps {s0 s : State} (hk0 : Kept s0 s) (key : Nat) : Kept s0 (endBulk key s) := by
  simp only [endBulk]
  repeat' with_reducible first | assumption | exact Kept.refl _ | apply onMe_keeps | apply onTask_keeps | apply raiseCmd_keeps | apply beneath_keeps | apply barFrom_keeps | apply copyBulk_keeps | apply meetBulk_keeps | refine kept_getD (fun _ => ?_) ?_ _ | split | intro _
  all_goals simp (maxDischargeDepth := 100) [*]
@[simp] theorem retireTask_keeps {s0 s : State} (hk0 : Kept s0 s) (c : CoreId) (tid : Nat) : Kept s0 (retireTask c tid s) := by
  simp only [retireTask]
  repeat' with_reducible first | assumption | exact Kept.refl _ | apply onCore_keeps | apply dropLeases_keeps | apply leaveCtx_keeps | apply publishAll_keeps | apply countRetired_keeps | split | intro _
  all_goals simp (maxDischargeDepth := 100) [*]
@[simp] theorem swapPlanes_keeps {s0 s : State} (hk0 : Kept s0 s) (c : CoreId) (tid : Nat) : Kept s0 (swapPlanes c tid s) := by
  simp only [swapPlanes]
  repeat' with_reducible first | assumption | exact Kept.refl _ | apply onCore_keeps | apply onTask_keeps | apply vacate_keeps | apply takeShadow_keeps | refine kept_getD (fun _ => ?_) ?_ _ | split | intro _
  all_goals simp (maxDischargeDepth := 100) [*]

/-! ## The operations of Dispatcher.lean -/

@[simp] theorem changeClass_keeps {s0 s : State} (hk0 : Kept s0 s) (tid : Nat) (f : Task → Task) : Kept s0 (changeClass tid f s) := by
  simp only [changeClass]
  repeat' with_reducible first | assumption | exact Kept.refl _ | apply onTask_keeps | apply journal_keeps | split | intro _
  all_goals simp (maxDischargeDepth := 100) [*]
@[simp] theorem inheritClasses_keeps {s0 s : State} (hk0 : Kept s0 s) : Kept s0 (inheritClasses s) := by
  simp only [inheritClasses]
  repeat' with_reducible first | assumption | exact Kept.refl _ | apply changeClass_keeps | refine kept_foldl (fun _ _ => ?_) ?_ _ | split | intro _
  all_goals simp (maxDischargeDepth := 100) [*]
@[simp] theorem place_keeps {s0 s : State} (hk0 : Kept s0 s) (c : CoreId) (tid : Nat) : Kept s0 (place c tid s) := by
  simp only [place]
  repeat' with_reducible first | assumption | exact Kept.refl _ | apply onCore_keeps | apply onTask_keeps | apply onTeam_keeps | apply tick_keeps | apply journal_keeps | apply grantLeases_keeps | apply refresh_keeps | apply stageTask_keeps | apply startTask_keeps | split | intro _
  all_goals simp (maxDischargeDepth := 100) [*]
theorem placeGang_keeps {s0 s u : State} (hk0 : Kept s0 s) {n : Nat} {free : List CoreId} (h : placeGang n free s = some u) : Kept s0 u := by
  simp only [placeGang] at h
  split at h
  · cases h
  · split at h
    · obtain ⟨cs, -, rfl⟩ := Option.map_eq_some_iff.1 h
      exact kept_foldl (fun t p => place_keeps (.refl _) _ _) hk0 _
    · cases h
@[simp] theorem sendRequest_keeps {s0 s : State} (hk0 : Kept s0 s) (t : Task) : Kept s0 (sendRequest t s) := by
  simp only [sendRequest]
  repeat' with_reducible first | assumption | exact Kept.refl _ | refine kept_getD (fun _ => ?_) ?_ _ | split | intro _
  all_goals simp (maxDischargeDepth := 100) [*]
theorem firstGang_keeps {s0 s : State} (hk0 : Kept s0 s) (rs : Reserved) (avail : List CoreId) (cs l : List (Nat × Task))
    {g : List (Nat × Task) × State} (h : s.firstGang rs avail cs l = some g) : Kept s0 g.2 := by
  induction l generalizing g with
  | nil => cases h
  | cons t l ih =>
    simp only [State.firstGang] at h
    split at h
    · rename_i u hu
      obtain rfl := Option.some.inj h
      split at hu
      · exact placeGang_keeps hk0 hu
      · cases hu
    · obtain ⟨r, hr, rfl⟩ := Option.map_eq_some_iff.1 h
      exact (ih hr : Kept s0 r.2)
@[simp] theorem dispatchRounds_keeps {s0 s : State} (hk0 : Kept s0 s) (rs : Reserved) (n : Nat) (lost : List DieId) :
    Kept s0 (dispatchRounds rs n lost s) := by
  induction n generalizing s lost with
  | zero => exact hk0
  | succ n ih =>
    have hp {t : State} (ht : Kept s0 t) (l : List (DieId × CoreId × Nat × Bool)) :
        Kept s0 (l.foldl (fun s p => place p.2.1 p.2.2.1 s) t) := kept_foldl (fun u p => place_keeps (.refl _) _ _) ht _
    unfold dispatchRounds
    generalize s.candidates = cs
    cases cs with
    | nil => exact hk0
    | cons top rest =>
      have hs := sendRequest_keeps hk0 top.2
      dsimp only
      generalize sendRequest top.2 s = u at hs ⊢
      split
      · exact ih (firstGang_keeps hs _ _ _ _ ‹_›) _
      · refine kept_ite ?_ (ih (hp hs _) _)
        cases hg : u.firstGang rs _ _ rest with
        | none => exact hs
        | some g => exact ih (firstGang_keeps hs _ _ _ _ hg) _
@[simp] theorem serveRequests_keeps {s0 s : State} (hk0 : Kept s0 s) : Kept s0 (serveRequests s) := by
  simp only [serveRequests]
  repeat' with_reducible first | assumption | exact Kept.refl _ | apply onTeam_keeps | apply overrun_keeps | refine kept_foldl (fun _ _ => ?_) ?_ _ | refine kept_getD (fun _ => ?_) ?_ _ | split | intro _
  all_goals simp (maxDischargeDepth := 100) [*]
@[simp] theorem beginSave_keeps {s0 s : State} (hk0 : Kept s0 s) (c : CoreId) (tid : Nat) (why : Leave) : Kept s0 (beginSave c tid why s) := by
  unfold beginSave
  split
  · exact hk0
  · have h (p : Prop) [Decidable p] (b : Standing) (f : Core → Core) :
        Kept s0 (if p then discardTask c b s else s.onCore c f) :=
      kept_ite (discardTask_keeps hk0 _ _) (onCore_keeps hk0 _ _)
    cases (s.core c).mode
    case drain | save | fault => exact hk0
    all_goals exact h _ _ _
@[simp] theorem stopRunning_keeps {s0 s : State} (hk0 : Kept s0 s) (c : CoreId) (tid : Nat) (why : Leave) :
    Kept s0 (stopRunning c tid why s) := by
  unfold stopRunning
  split
  · exact hk0
  · exact kept_ite (beginSave_keeps hk0 _ _ _) (kept_ite hk0 (discardTask_keeps hk0 _ _))
@[simp] theorem startPreempt_keeps {s0 s : State} (hk0 : Kept s0 s) (d : DieId) (n us waiter : Nat) : Kept s0 (startPreempt d n us waiter s) := by
  simp only [startPreempt]
  repeat' with_reducible first | assumption | exact Kept.refl _ | apply onTeam_keeps | apply journal_keeps | apply refresh_keeps | apply beginSave_keeps | apply stopRunning_keeps | refine kept_foldl (fun _ _ => ?_) ?_ _ | refine kept_getD (fun _ => ?_) ?_ _ | split | intro _
  all_goals simp (maxDischargeDepth := 100) [*]
@[simp] theorem releaseResident_keeps {s0 s : State} (hk0 : Kept s0 s) : Kept s0 (releaseResident s) := by
  unfold releaseResident
  refine kept_foldl (fun t x => ?_) hk0 _
  have h : Kept t (if t.grantable x.2 then startRecall x.2.record.ctx (releaseParked x.1 t) else t) :=
    kept_ite (startRecall_keeps (releaseParked_keeps (.refl _) _) _) (.refl _)
  cases x.2.standing
  case parked n k =>
    by_cases hn : n = 3
    · subst hn; exact h
    · rcases n with _ | _ | _ | _ | n
      case succ.succ.succ.zero => exact absurd rfl hn
      all_goals exact .refl _
  all_goals exact .refl _

/-! ## The operations of Delivery.lean -/

@[simp] theorem putStop_keeps {s0 s : State} (hk0 : Kept s0 s) (d : DieId) (i : Fin 8) (owner : Option CoreId) (w : Nat) : Kept s0 (putStop d i owner w s) := by
  simp only [putStop]
  repeat' with_reducible first | assumption | exact Kept.refl _ | apply onDie_keeps | split | intro _
  all_goals simp (maxDischargeDepth := 100) [*]
@[simp] theorem cutStop_keeps {s0 s : State} (hk0 : Kept s0 s) (c : CoreId) : Kept s0 (cutStop c s) := by
  simp only [cutStop]
  repeat' with_reducible first | assumption | exact Kept.refl _ | apply onCore_keeps | apply resumeStop_keeps | apply putStop_keeps | split | intro _
  all_goals simp (maxDischargeDepth := 100) [*]
@[simp] theorem resumeEnd_keeps {s0 s : State} (hk0 : Kept s0 s) (c : CoreId) : Kept s0 (resumeEnd c s) := by
  simp only [resumeEnd]
  repeat' with_reducible first | assumption | exact Kept.refl _ | apply onCore_keeps | apply onDie_keeps | split | intro _
  all_goals simp (maxDischargeDepth := 100) [*]
@[simp] theorem cutEnd_keeps {s0 s : State} (hk0 : Kept s0 s) (c : CoreId) (h : Nat × Nat × Nat) : Kept s0 (cutEnd c s h) := by
  simp only [cutEnd]
  repeat' with_reducible first | assumption | exact Kept.refl _ | apply onCore_keeps | apply putStop_keeps | apply resumeEnd_keeps | split | intro _
  all_goals simp (maxDischargeDepth := 100) [*]
@[simp] theorem writeFault_keeps {s0 s : State} (hk0 : Kept s0 s) (n rec : Nat) : Kept s0 (writeFault n rec s) := by
  simp only [writeFault]
  repeat' with_reducible first | assumption | exact Kept.refl _ | split | intro _
  all_goals simp (maxDischargeDepth := 100) [*]
@[simp] theorem dropProvisional_keeps {s0 s : State} (hk0 : Kept s0 s) (c : CoreId) (tid : Nat) : Kept s0 (dropProvisional c tid s) := by
  simp only [dropProvisional]
  repeat' with_reducible first | assumption | exact Kept.refl _ | apply onTask_keeps | apply publishCells_keeps | refine kept_foldl (fun _ _ => ?_) ?_ _ | split | intro _
  all_goals simp (maxDischargeDepth := 100) [*]
@[simp] theorem unstage_keeps {s0 s : State} (hk0 : Kept s0 s) (c : CoreId) (tid : Nat) : Kept s0 (unstage c tid s) := by
  simp only [unstage]
  repeat' with_reducible first | assumption | exact Kept.refl _ | apply onCore_keeps | apply onTask_keeps | apply dropLeases_keeps | split | intro _
  all_goals simp (maxDischargeDepth := 100) [*]
@[simp] theorem stopContext_keeps {s0 s : State} (hk0 : Kept s0 s) (n : Nat) : Kept s0 (stopContext n s) := by
  unfold stopContext
  refine refresh_keeps (kept_foldl (fun t x => ?_) (onCtx_keeps hk0 _ _) _) _ _
  cases x.2.standing
  case running c => exact stopRunning_keeps (.refl _) _ _ _
  case staged c => exact kept_ite (unstage_keeps (.refl _) _ _) (.refl _)
  case queued => exact onTask_keeps (.refl _) _ _
  all_goals exact .refl _
@[simp] theorem deliverHere_keeps {s0 s : State} (hk0 : Kept s0 s) (c : CoreId) (tid : Nat) (t : Task) (f : Raised) : Kept s0 (deliverHere c tid t f s) := by
  simp only [deliverHere]
  repeat' with_reducible first | assumption | exact Kept.refl _ | apply onTask_keeps | apply onTeam_keeps | apply countRetired_keeps | apply owe_keeps | apply vacate_keeps | apply unwait_keeps | apply takeShadow_keeps | apply endStop_keeps | apply writeFault_keeps | apply dropProvisional_keeps | apply stopContext_keeps | split | intro _
  all_goals simp (maxDischargeDepth := 100) [*]
@[simp] theorem deliverBeneath_keeps {s0 s : State} (hk0 : Kept s0 s) (c : CoreId) (tid : Nat) (t : Task) (fs : List Raised) : Kept s0 (deliverBeneath c tid t fs s) := by
  simp only [deliverBeneath]
  repeat' with_reducible first | assumption | exact Kept.refl _ | apply onCore_keeps | apply onTeam_keeps | apply dropLeases_keeps | apply countRetired_keeps | apply writeFault_keeps | apply dropProvisional_keeps | apply stopContext_keeps | split | intro _
  all_goals simp (maxDischargeDepth := 100) [*]
@[simp] theorem endStep_keeps {s0 s : State} (hk0 : Kept s0 s) (c : CoreId) (tid : Nat) (t : Task) : Kept s0 (endStep c tid t s) := by
  simp only [endStep]
  repeat' with_reducible first | assumption | exact Kept.refl _ | apply onCore_keeps | apply deliverBeneath_keeps | split | intro _
  all_goals simp (maxDischargeDepth := 100) [*]
@[simp] theorem deliverOwn_keeps {s0 s : State} (hk0 : Kept s0 s) (c : CoreId) : Kept s0 (deliverOwn c s) := by
  simp only [deliverOwn]
  repeat' with_reducible first | assumption | exact Kept.refl _ | apply onCore_keeps | apply deliverHere_keeps | refine kept_getD (fun _ => ?_) ?_ _ | split | intro _
  all_goals simp (maxDischargeDepth := 100) [*]

/-! ## The operations of Pages.lean -/

@[simp] theorem flushPage_keeps {s0 s : State} (hk0 : Kept s0 s) (src size : Nat) : Kept s0 (flushPage src size s) := by
  simp only [flushPage]
  repeat' with_reducible first | assumption | exact Kept.refl _ | apply writeBack_keeps | apply cumulate_keeps | apply acquireAt_keeps | refine kept_foldl (fun _ _ => ?_) ?_ _ | split | intro _
  all_goals simp (maxDischargeDepth := 100) [*]
@[simp] theorem setMig_keeps {s0 s : State} (hk0 : Kept s0 s) (head : Nat) (v : Bool) : Kept s0 (setMig head v s) := by
  simp only [setMig]
  repeat' with_reducible first | assumption | exact Kept.refl _ | split | intro _
  all_goals simp (maxDischargeDepth := 100) [*]
@[simp] theorem popPlan_keeps {s0 s : State} (hk0 : Kept s0 s) (n : Nat) : Kept s0 (popPlan n s) := by
  simp only [popPlan]
  repeat' with_reducible first | assumption | exact Kept.refl _ | apply onCtx_keeps | split | intro _
  all_goals simp (maxDischargeDepth := 100) [*]
@[simp] theorem endRecall_keeps {s0 s : State} (hk0 : Kept s0 s) (n : Nat) : Kept s0 (endRecall n s) := by
  simp only [endRecall]
  repeat' with_reducible first | assumption | exact Kept.refl _ | apply onCtx_keeps | apply settleDemotion_keeps | apply refresh_keeps | split | intro _
  all_goals simp (maxDischargeDepth := 100) [*]
@[simp] theorem noRecall_keeps {s0 s : State} (hk0 : Kept s0 s) (n : Nat) (l : Leaf) : Kept s0 (noRecall n l s) := by
  simp only [noRecall]
  repeat' with_reducible first | assumption | exact Kept.refl _ | apply onCtx_keeps | split | intro _
  all_goals simp (maxDischargeDepth := 100) [*]
@[simp] theorem pageEntry_keeps {s0 s : State} (hk0 : Kept s0 s) (n : Nat) (x : Context) (kind : Nat) (l : Leaf) (va count detail : Nat) : Kept s0 (pageEntry n x kind l va count detail s) := by
  simp only [pageEntry]
  repeat' with_reducible first | assumption | exact Kept.refl _ | apply memEntry_keeps | split | intro _
  all_goals simp (maxDischargeDepth := 100) [*]
theorem beginMove_keeps {s0 s u : State} (hk0 : Kept s0 s) {n : Nat} {x : Context} {l : Leaf} {va kind tier : Nat} {d : DieId}
    (h : beginMove n x l va kind tier d s = some u) : Kept s0 u := by
  simp only [beginMove] at h
  split at h
  · cases h
  · rename_i f t ht
    have ht := takeFrame_of hk0 ht
    split at h <;> obtain rfl := Option.some.inj h
    · apply pageEntry_keeps
      exact kept_of ht rfl rfl rfl
    · have hs := setMig_keeps (flushPage_keeps ht (tierKey l.tier (4096 * l.frame)) l.size) l.head true
      apply tick_keeps
      rw [kept_mk]
      exact hs
@[simp] theorem startPlanned_keeps {s0 s : State} (hk0 : Kept s0 s) (n : Nat) (x : Context) (kind tgt va : Nat) :
    Kept s0 (startPlanned n x kind tgt va s) := by
  have he {t : State} (h : Kept s0 t) : Kept s0 (endRecall n t) := endRecall_keeps h _
  simp only [startPlanned]
  split
  · exact he (popPlan_keeps hk0 _)
  · refine kept_ite hk0 (kept_ite (he (popPlan_keeps hk0 _)) (kept_ite hk0 ?_))
    split
    · exact he (popPlan_keeps (beginMove_keeps hk0 ‹_›) _)
    · have h := popPlan_keeps (pageEntry_keeps hk0 n x 6 ‹Leaf› va 1 (if kind = 4 then 1 else kind)) n
      refine kept_ite (he h) (kept_ite (he (noRecall_keeps h _ _)) ?_)
      split
      · exact he (onCtx_keeps (beginMove_keeps h ‹_›) _ _)
      · exact he (noRecall_keeps h _ _)
@[simp] theorem abandonMove_keeps {s0 s : State} (hk0 : Kept s0 s) (head : Nat) (m : Move) : Kept s0 (abandonMove head m s) := by
  simp only [abandonMove]
  repeat' with_reducible first | assumption | exact Kept.refl _ | apply memEntry_keeps | apply setMig_keeps | refine kept_getD (fun _ => ?_) ?_ _ | split | intro _
  all_goals simp (maxDischargeDepth := 100) [*]
@[simp] theorem carryBad_keeps {s0 s : State} (hk0 : Kept s0 s) (w : Nat) (m : Move) : Kept s0 (carryBad w m s).1 :=
  meetRange_keeps hk0 _ _ _ _ _
@[simp] theorem followMove_keeps {s0 s : State} (hk0 : Kept s0 s) (m : Move) : Kept s0 (followMove m s) := by
  simp only [followMove]
  repeat' with_reducible first | assumption | exact Kept.refl _ | apply acquireAt_keeps | refine kept_foldl (fun _ _ => ?_) ?_ _ | split | intro _
  all_goals simp (maxDischargeDepth := 100) [*]
@[simp] theorem finishMove_keeps {s0 s : State} (hk0 : Kept s0 s) (head : Nat) (m : Move) : Kept s0 (finishMove head m s) := by
  have h := setFrame_keeps (followMove_keeps (copyKeys_keeps (carryBad_keeps hk0 (rdNat s.mem (t1 head) 16) m) m.src m.dst m.size) m) head m.tier m.frame
  simp only [finishMove]
  generalize setFrame head m.tier m.frame (followMove m (copyKeys m.src m.dst m.size (carryBad (rdNat s.mem (t1 head) 16) m s).1)) = t at *
  split
  · rw [kept_mk]
    exact ⟨h.1, h.2.1, memKept_wrNat h.2.2 _ _ _⟩
  · with_reducible apply memEntry_keeps
    rw [kept_mk]
    exact ⟨h.1, h.2.1, memKept_wrNat h.2.2 _ _ _⟩
@[simp] theorem afterMove_keeps {s0 s : State} (hk0 : Kept s0 s) (m : Move) : Kept s0 (afterMove m s) := by
  simp only [afterMove]
  repeat' with_reducible first | assumption | exact Kept.refl _ | apply endRecall_keeps | split | intro _
  all_goals simp (maxDischargeDepth := 100) [*]

/-! ## The operations of Slots.lean -/

@[simp] theorem onMySlot_keeps {s0 s : State} (hk0 : Kept s0 s) (f : QSlot → QSlot) : Kept s0 (onMySlot f s) := by
  simp only [onMySlot]
  repeat' with_reducible first | assumption | exact Kept.refl _ | apply onSlot_keeps | split | intro _
  all_goals simp (maxDischargeDepth := 100) [*]
@[simp] theorem mapQueue_keeps {s0 s : State} (hk0 : Kept s0 s) (d : DieId) (q : Nat) (i : Fin 256) : Kept s0 (mapQueue d q i s) := by
  simp only [mapQueue]
  repeat' with_reducible first | assumption | exact Kept.refl _ | apply tick_keeps | apply schedEntry_keeps | apply journal_keeps | apply qcbUpdate_keeps | apply onSlot_keeps | apply clearPending_keeps | apply takeWidx_keeps | refine kept_getD (fun _ => ?_) ?_ _ | split | intro _
  all_goals simp (maxDischargeDepth := 100) [*]
@[simp] theorem consume_keeps {s0 s : State} (hk0 : Kept s0 s) : Kept s0 (consume s) := by
  simp only [consume]
  repeat' with_reducible first | assumption | exact Kept.refl _ | apply onMySlot_keeps | split | intro _
  all_goals simp (maxDischargeDepth := 100) [*]
@[simp] theorem headPacket_keeps {s0 s : State} (hk0 : Kept s0 s) (ty : Nat) (act : Nat → State → State) (ha : ∀ w, Kept s0 (act w s)) : Kept s0 (headPacket ty act s) := by
  simp only [headPacket]
  repeat' with_reducible first | assumption | exact Kept.refl _ | apply packetError_keeps | apply onMySlot_keeps | apply ha | split | intro _
  all_goals simp (maxDischargeDepth := 100) [*]
@[simp] theorem withCtx_keeps {s0 s : State} (hk0 : Kept s0 s) (w : Nat) (act : Nat → Context → State → State) (ha : ∀ n x, Kept s0 (act n x s)) : Kept s0 (withCtx w act s) := by
  simp only [withCtx]
  repeat' with_reducible first | assumption | exact Kept.refl _ | apply packetError_keeps | apply ha | split | intro _
  all_goals simp (maxDischargeDepth := 100) [*]
@[simp] theorem readSignal_keeps {s0 s : State} (hk0 : Kept s0 s) (l : Leaf) (n va : Nat) : Kept s0 (readSignal l n va s) := by
  simp only [readSignal]
  repeat' with_reducible first | assumption | exact Kept.refl _ | apply markLeaf_keeps | apply reachHome_keeps | split | intro _
  all_goals simp (maxDischargeDepth := 100) [*]
@[simp] theorem blockQueue_keeps {s0 s : State} (hk0 : Kept s0 s) (n va : Nat) : Kept s0 (blockQueue n va s) := by
  simp only [blockQueue]
  repeat' with_reducible first | assumption | exact Kept.refl _ | apply onCtx_keeps | apply beginUnmap_keeps | split | intro _
  all_goals simp (maxDischargeDepth := 100) [*]
@[simp] theorem compareWait_keeps {s0 s : State} (hk0 : Kept s0 s) (w n : Nat) (l : Leaf) : Kept s0 (compareWait w n l s) := by
  simp only [compareWait]
  repeat' with_reducible first | assumption | exact Kept.refl _ | apply unwatch_keeps | apply onMySlot_keeps | apply consume_keeps | apply readSignal_keeps | apply blockQueue_keeps | split | intro _
  all_goals simp (maxDischargeDepth := 100) [*]
@[simp] theorem recheckWait_keeps {s0 s : State} (hk0 : Kept s0 s) (far : Bool) : Kept s0 (recheckWait far s) := by
  simp only [recheckWait]
  repeat' with_reducible first | assumption | exact Kept.refl _ | apply packetError_keeps | apply compareWait_keeps | split | intro _
  all_goals simp (maxDischargeDepth := 100) [*]
@[simp] theorem endOrdwait_keeps {s0 s : State} (hk0 : Kept s0 s) : Kept s0 (endOrdwait s) := by
  simp only [endOrdwait]
  repeat' with_reducible first | assumption | exact Kept.refl _ | split | intro _
  all_goals simp (maxDischargeDepth := 100) [*]
@[simp] theorem makeTeam_keeps {s0 s : State} (hk0 : Kept s0 s) (w : Nat) (rs : List TaskRec) (sc : Scope) : Kept s0 (makeTeam w rs sc s) := by
  simp only [makeTeam]
  repeat' with_reducible first | assumption | exact Kept.refl _ | apply onCtx_keeps | apply refresh_keeps | apply makeTask_keeps | apply onMySlot_keeps | refine kept_foldl (fun _ _ => ?_) ?_ _ | refine kept_getD (fun _ => ?_) ?_ _ | split | intro _
  all_goals simp (maxDischargeDepth := 100) [*]

/-! ## The operations of Helm.lean -/

@[simp] theorem onHelm_keeps {s0 s : State} (hk0 : Kept s0 s) (d : DieId) (i : Fin 3) (f : HelmCore → HelmCore) : Kept s0 (onHelm d i f s) := by
  simp only [onHelm]
  repeat' with_reducible first | assumption | exact Kept.refl _ | apply onDie_keeps | split | intro _
  all_goals simp (maxDischargeDepth := 100) [*]
@[simp] theorem openEntry_keeps {s0 s : State} (hk0 : Kept s0 s) (d : DieId) (kind sub : Nat) (arg0 : Option Nat) : Kept s0 (openEntry d kind sub arg0 s) := by
  simp only [openEntry]
  repeat' with_reducible first | assumption | exact Kept.refl _ | apply tick_keeps | apply schedEntry_keeps | refine kept_getD (fun _ => ?_) ?_ _ | split | intro _
  all_goals simp (maxDischargeDepth := 100) [*]
@[simp] theorem helmDown_keeps {s0 s : State} (hk0 : Kept s0 s) (d : DieId) : Kept s0 (helmDown d s) := by
  simp only [helmDown]
  repeat' with_reducible first | assumption | exact Kept.refl _ | apply onDie_keeps | apply openEntry_keeps | split | intro _
  all_goals simp (maxDischargeDepth := 100) [*]
@[simp] theorem helmFails_keeps {s0 s : State} (hk0 : Kept s0 s) (d : DieId) (i : Fin 3) (bad : Nat) (lost : Bool) : Kept s0 (helmFails d i bad lost s) := by
  simp only [helmFails]
  repeat' with_reducible first | assumption | exact Kept.refl _ | apply onDie_keeps | apply tick_keeps | apply schedEntry_keeps | apply onHelm_keeps | apply helmDown_keeps | split | intro _
  all_goals simp (maxDischargeDepth := 100) [*]
@[simp] theorem replayUpdate_keeps {s0 s : State} (hk0 : Kept s0 s) (d : DieId) (e : Journal) : Kept s0 (replayUpdate d e s) := by
  unfold replayUpdate
  generalize (2 ^ 64 : Nat) = a
  generalize (2 ^ 32 : Nat) = b
  dsimp only
  generalize (Fin.ofNat 256 (e.arg % a)) = i
  split
  · split
    · exact closeUnmap_keeps hk0 _ _
    · rw [kept_mk]
      exact ⟨hk0.1, hk0.2.1, memKept_wrNat (memKept_wrNat hk0.2.2 _ _ _) _ _ _⟩
  · split; · exact hk0
    have hm : Kept s0 (if ((s.die d).slots.get i).state = 0 then mapQueue d e.obj i s else s) := kept_ite (mapQueue_keeps hk0 _ _ _) hk0
    generalize (2 ^ 16 : Nat) = c
    generalize s.slotOf e.obj = o
    generalize e.kind = n
    rcases o with _ | ⟨d', i'⟩ <;> rcases n with _ | _ | _ | _ | n
    case none.zero | none.succ.succ.zero | none.succ.succ.succ.succ | some.zero | some.succ.zero | some.succ.succ.succ.succ => exact hk0
    · exact hm
    · exact qcbUpdate_keeps hk0 _ fun m a => memKept_wrNat (.refl _) _ _ _
    · exact closeUnmap_keeps (openUnmap_keeps (setUnmapping_keeps hk0 _ _ _) _ _) _ _
    · refine kept_ite (closeUnmap_keeps (openUnmap_keeps hk0 _ _) _ _) (qcbUpdate_keeps hk0 _ fun m a => ?_)
      exact memKept_wrNat (memKept_wrNat (memKept_wrNat (.refl _) _ _ _) _ _ _) _ _ _
@[simp] theorem replayEntry_keeps {s0 s : State} (hk0 : Kept s0 s) (d : DieId) (e : Journal) : Kept s0 (replayEntry d e s) := by
  simp only [replayEntry]
  repeat' with_reducible first | assumption | exact Kept.refl _ | apply onCtx_keeps | apply startPreempt_keeps | apply replayUpdate_keeps | split | intro _
  all_goals simp (maxDischargeDepth := 100) [*]
@[simp] theorem replayFrom_keeps {s0 s : State} (hk0 : Kept s0 s) (d : DieId) (n : Nat) : Kept s0 (replayFrom d n s) := by
  simp only [replayFrom]
  repeat' with_reducible first | assumption | exact Kept.refl _ | apply journal_keeps | apply replayEntry_keeps | refine kept_foldl (fun _ _ => ?_) ?_ _ | split | intro _
  all_goals simp (maxDischargeDepth := 100) [*]
@[simp] theorem takeOver_keeps {s0 s : State} (hk0 : Kept s0 s) (d : DieId) (i : Fin 3) : Kept s0 (takeOver d i s) := by
  simp only [takeOver]
  repeat' with_reducible first | assumption | exact Kept.refl _ | apply onDie_keeps | apply schedEntry_keeps | apply predictPark_keeps | apply onHelm_keeps | apply helmDown_keeps | apply replayFrom_keeps | refine kept_foldl (fun _ _ => ?_) ?_ _ | split | intro _
  all_goals simp (maxDischargeDepth := 100) [*]
@[simp] theorem helmCycle_keeps {s0 s : State} (hk0 : Kept s0 s) (d : DieId) : Kept s0 (helmCycle d s) := by
  simp only [helmCycle]
  repeat' with_reducible first | assumption | exact Kept.refl _ | apply onDie_keeps | split | intro _
  all_goals simp (maxDischargeDepth := 100) [*]
@[simp] theorem linkFault_keeps {s0 s : State} (hk0 : Kept s0 s) (perf : Bool) : Kept s0 (linkFault perf s) := by
  simp only [linkFault]
  repeat' with_reducible first | assumption | exact Kept.refl _ | apply raiseOn_keeps | apply raiseFor_keeps | split | intro _
  all_goals simp (maxDischargeDepth := 100) [*]
@[simp] theorem linkLost_keeps {s0 s : State} (hk0 : Kept s0 s) (perf : Bool) : Kept s0 (linkLost perf s) := by
  simp only [linkLost]
  repeat' with_reducible first | assumption | exact Kept.refl _ | apply abandonMove_keeps | apply afterMove_keeps | apply linkFault_keeps | split | intro _
  all_goals simp (maxDischargeDepth := 100) [*]
@[simp] theorem outsideWrite_keeps {s0 s : State} (hk0 : Kept s0 s) (k : Nat) (bs : List Byte) (poison : Bool) : Kept s0 (outsideWrite k bs poison s) := by
  simp only [outsideWrite]
  repeat' with_reducible first | assumption | exact Kept.refl _ | apply writeHome_keeps | split | intro _
  all_goals simp (maxDischargeDepth := 100) [*]
@[simp] theorem outsideRead_keeps {s0 s : State} (hk0 : Kept s0 s) (k n : Nat) : Kept s0 (outsideRead k n s) := by
  simp only [outsideRead]
  repeat' with_reducible first | assumption | exact Kept.refl _ | apply reachHome_keeps | refine kept_foldl (fun _ _ => ?_) ?_ _ | refine kept_getD (fun _ => ?_) ?_ _ | split | intro _
  all_goals simp (maxDischargeDepth := 100) [*]
@[simp] theorem refusedRead_keeps {s0 s : State} (hk0 : Kept s0 s) (n : Nat) : Kept s0 (refusedRead n s) := by
  simp only [refusedRead]
  repeat' with_reducible first | assumption | exact Kept.refl _ | split | intro _
  all_goals simp (maxDischargeDepth := 100) [*]

/-! ## The operations of Device.lean -/

@[simp] theorem bareHome_keeps {s0 s : State} (hk0 : Kept s0 s) : Kept s0 (State.bareHome s) := by
  simp only [State.bareHome]
  repeat' with_reducible first | assumption | exact Kept.refl _ | refine kept_foldl (fun _ _ => ?_) ?_ _ | split | intro _
  all_goals simp (maxDischargeDepth := 100) [*]
@[simp] theorem bootRom_keeps {s0 s : State} (hk0 : Kept s0 s) : Kept s0 (bootRom s) := by
  simp only [bootRom]
  repeat' with_reducible first | assumption | exact Kept.refl _ | split | intro _
  all_goals simp (maxDischargeDepth := 100) [*]
@[simp] theorem startFirmware_keeps {s0 s : State} (hk0 : Kept s0 s) (d : DieId) : Kept s0 (startFirmware d s) := by
  simp only [startFirmware]
  repeat' with_reducible first | assumption | exact Kept.refl _ | apply onDie_keeps | split | intro _
  all_goals simp (maxDischargeDepth := 100) [*]
@[simp] theorem startKey_keeps {s0 s : State} (hk0 : Kept s0 s) (op : Nat) : Kept s0 (startKey op s) := by
  simp only [startKey]
  repeat' with_reducible first | assumption | exact Kept.refl _ | split | intro _
  all_goals simp (maxDischargeDepth := 100) [*]
@[simp] theorem dropBehind_keeps {s0 s : State} (hk0 : Kept s0 s) (kid : Nat) : Kept s0 (dropBehind kid s) := by
  simp only [dropBehind]
  repeat' with_reducible first | assumption | exact Kept.refl _ | apply bareHome_keeps | split | intro _
  all_goals simp (maxDischargeDepth := 100) [*]
@[simp] theorem dropKey_keeps {s0 s : State} (hk0 : Kept s0 s) (kid : Nat) : Kept s0 (dropKey kid s) := by
  simp only [dropKey]
  repeat' with_reducible first | assumption | exact Kept.refl _ | apply memEntry_keeps | apply dropBehind_keeps | split | intro _
  all_goals simp (maxDischargeDepth := 100) [*]
@[simp] theorem writeSched_keeps {s0 s : State} (hk0 : Kept s0 s) (d : DieId) (o v : Nat) : Kept s0 (writeSched d o v s) := by
  simp only [writeSched]
  repeat' with_reducible first | assumption | exact Kept.refl _ | apply onDie_keeps | split | intro _
  all_goals simp (maxDischargeDepth := 100) [*]
@[simp] theorem writeReg_keeps {s0 s : State} (hk0 : Kept s0 s) (d : DieId) (o v : Nat) : Kept s0 (writeReg d o v s) := by
  simp only [writeReg]
  repeat' with_reducible first | assumption | exact Kept.refl _ | apply onDie_keeps | apply onTrace_keeps | apply writeSched_keeps | split | intro _
  all_goals simp (maxDischargeDepth := 100) [*]

/-! ## The operations of Window.lean -/

@[simp] theorem writeContext_keeps {s0 s : State} (hk0 : Kept s0 s) (a v : Nat) : Kept s0 (writeContext a v s) :=
  hk0.trans (by simp only [writeContext]; first | (simp (maxDischargeDepth := 100); done) | ((repeat' split) <;> simp (maxDischargeDepth := 100)))

/-! ## The operations of Binnacle.lean -/

@[simp] theorem finishSample_keeps {s0 s : State} (hk0 : Kept s0 s) (d : DieId) (t : Nat) : Kept s0 (finishSample d t s) := by
  simp only [finishSample]
  repeat' with_reducible first | assumption | exact Kept.refl _ | apply onCore_keeps | apply onDie_keeps | apply onCtx_keeps | apply flushAccounts_keeps | apply place_keeps | refine kept_foldl (fun _ _ => ?_) ?_ _ | split | intro _
  all_goals simp (maxDischargeDepth := 100) [*]
@[simp] theorem onPmc_keeps {s0 s : State} (hk0 : Kept s0 s) (f : Pmc → Pmc) : Kept s0 (onPmc f s) := by
  simp only [onPmc]
  repeat' with_reducible first | assumption | exact Kept.refl _ | apply onMe_keeps | split | intro _
  all_goals simp (maxDischargeDepth := 100) [*]
@[simp] theorem noteDbgcmd_keeps {s0 s : State} (hk0 : Kept s0 s) (op : Nat) : Kept s0 (noteDbgcmd op s) := by
  simp only [noteDbgcmd]
  repeat' with_reducible first | assumption | exact Kept.refl _ | apply onDie_keeps | split | intro _
  all_goals simp (maxDischargeDepth := 100) [*]
@[simp] theorem actBreak_keeps {s0 s : State} (hk0 : Kept s0 s) (c : CoreId) (ctx i : Nat) (b : Dword) : Kept s0 (actBreak c ctx i b s) := by
  simp only [actBreak]
  repeat' with_reducible first | assumption | exact Kept.refl _ | apply onCore_keeps | apply onTrace_keeps | split | intro _
  all_goals simp (maxDischargeDepth := 100) [*]

/-! ## The operations of Issue.lean -/

@[simp] theorem settleHead_keeps {s0 s : State} (hk0 : Kept s0 s) : Kept s0 (settleHead s) := by
  simp only [settleHead]
  repeat' with_reducible first | assumption | exact Kept.refl _ | apply onMe_keeps | apply tick_keeps | split | intro _
  all_goals simp (maxDischargeDepth := 100) [*]
@[simp] theorem issuing_keeps {s0 s : State} (hk0 : Kept s0 s) (i : Instr) (w : Nat) : Kept s0 (State.issuing s i w) := by
  simp only [State.issuing]
  repeat' with_reducible first | assumption | exact Kept.refl _ | split | intro _
  all_goals simp (maxDischargeDepth := 100) [*]
@[simp] theorem chargeSlot_keeps {s0 s : State} (hk0 : Kept s0 s) (pre : Core) (pos : Nat) (ch : Choice) : Kept s0 (chargeSlot pre pos ch s) := by
  simp only [chargeSlot]
  repeat' with_reducible first | assumption | exact Kept.refl _ | apply onMe_keeps | apply charge_keeps | split | intro _
  all_goals simp (maxDischargeDepth := 100) [*]
/-- From `s` to `t` memory stays canonical, D stays within its range and the rollback number does not fall. -/
def Grows (s t : State) : Prop := MemKept s.mem t.mem ∧ (s.gating ≤ 15 → t.gating ≤ 15) ∧ s.rbcnt.toNat ≤ t.rbcnt.toNat
theorem Kept.grows {s t : State} (h : Kept s t) : Grows s t := ⟨h.2.2, fun g => h.1 ▸ g, h.2.1 ▸ Nat.le_refl _⟩
theorem Grows.trans {s t u : State} (h : Grows s t) (g : Grows t u) : Grows s u :=
  ⟨h.1.trans g.1, g.2.1 ∘ h.2.1, Nat.le_trans h.2.2 g.2.2⟩
theorem grows_foldl {α : Type} {f : State → α → State} (hf : ∀ t x, Grows t (f t x)) {s t : State} (h : Grows s t) (l : List α) :
    Grows s (l.foldl f t) := by
  induction l generalizing t with
  | nil => exact h
  | cons x l ih => exact ih (h.trans (hf t x))
theorem grows_ite {s t u : State} {c : Prop} [Decidable c] (h : Grows s t) (g : Grows s u) : Grows s (if c then t else u) := by
  split <;> assumption
/-- What the head of a stream comes to, where every instruction does so. -/
theorem headState_grows (he : ∀ i t u, exec i t = .next u → Grows t u) {s0 s : State} (h : Grows s0 s) (q : Seq) :
    Grows s0 (s.headState q) := by
  refine h.trans ?_
  unfold State.headState
  have h0 : Kept s { s with cur := { s.cur with seq := q } } := ⟨rfl, rfl, id⟩
  generalize ({ s with cur := { s.cur with seq := q } } : State) = u at h0
  dsimp only
  cases u.choice with
  | rest => exact h0.grows
  | flip => exact h0.grows
  | fault => exact (raiseOn_keeps h0 _ _).grows
  | late => exact (lateEffect_keeps (onMe_keeps h0 _) _).grows
  | issue i w n =>
    have hi : Kept s (u.issuing i w) := issuing_keeps h0 i w
    dsimp only
    split
    · exact hi.grows.trans (he _ _ _ ‹_›)
    · exact h0.grows
    · exact h0.grows
@[simp] theorem withPeers_keeps {s0 pre post : State} (hp : Kept s0 pre) (hq : Kept s0 post) (fs : List Raised) :
    Kept s0 (withPeers fs pre post) := by
  cases fs
  · exact hq
  · exact kept_foldl (fun t f => raiseOn_keeps (.refl _) _ _) (kept_ite hq hp) _
theorem expected_grows (he : ∀ i t u, exec i t = .next u → Grows t u) {s0 s : State} (h : Grows s0 s) : Grows s0 s.expected := by
  refine grows_foldl (fun t c => ?_) h _
  split
  · split
    · exact (Kept.refl _).grows
    · exact headState_grows he (show Grows t { t with cur := { t.cur with core := c } } from (Kept.refl _).grows) _
  · exact (Kept.refl _).grows
theorem tryHead_grows (he : ∀ i t u, exec i t = .next u → Grows t u) {s0 s : State} (h : Grows s0 s) (q : Seq) :
    Grows s0 (tryHead s q) := by
  refine h.trans ?_
  unfold tryHead
  lift_lets
  intro p arrives t
  have hp : Grows s p := (onMe_keeps (.refl _) _).grows
  have ht : Grows s t := headState_grows he (grows_ite (expected_grows he hp) hp) q
  clear_value t arrives
  exact grows_ite (Kept.refl _).grows (grows_ite (kept_foldl (fun t f => raiseOn_keeps (.refl _) _ _) (.refl _) _).grows ht)
@[simp] theorem settleHalving_keeps {s0 s : State} (hk0 : Kept s0 s) : Kept s0 (settleHalving s) := by
  simp only [settleHalving]
  repeat' with_reducible first | assumption | exact Kept.refl _ | apply onMe_keeps | apply stall_keeps | apply halveTask_keeps | split | intro _
  all_goals simp (maxDischargeDepth := 100) [*]
theorem halveFirst_grows (he : ∀ i t u, exec i t = .next u → Grows t u) {s0 s : State} (h : Grows s0 s) : Grows s0 (halveFirst s) := by
  unfold halveFirst
  split
  · exact h
  · dsimp only
    split
    · exact headState_grows he h .ctl
    · exact h
theorem headsTurn_grows (he : ∀ i t u, exec i t = .next u → Grows t u) {s0 s : State} (h : Grows s0 s) : Grows s0 (headsTurn s) := by
  have ht : Grows s0 (settleHalving ((s.me.acts (s.cur.a == 2)).foldl tryHead s)) :=
    (grows_foldl (fun t q => tryHead_grows he (Kept.refl _).grows q) h _).trans (settleHalving_keeps (.refl _)).grows
  unfold headsTurn
  split
  · dsimp only
    split
    · exact halveFirst_grows he ht
    · exact ht
  · exact h

/-! ## The operations of Cycle.lean -/

@[simp] theorem tickTask_keeps {s0 s : State} (hk0 : Kept s0 s) (c : CoreId) : Kept s0 (tickTask c s) := by
  simp only [tickTask]
  repeat' with_reducible first | assumption | exact Kept.refl _ | apply onTask_keeps | split | intro _
  all_goals simp (maxDischargeDepth := 100) [*]
@[simp] theorem beginCore_keeps {s0 s : State} (hk0 : Kept s0 s) (c : CoreId) : Kept s0 (beginCore c s) := by
  simp only [beginCore]
  repeat' with_reducible first | assumption | exact Kept.refl _ | apply onCore_keeps | apply fullIdle_keeps | apply tickTask_keeps | split | intro _
  all_goals simp (maxDischargeDepth := 100) [*]
@[simp] theorem evictAll_keeps {s0 s : State} (hk0 : Kept s0 s) : Kept s0 (evictAll s) := by
  simp only [evictAll]
  repeat' with_reducible first | assumption | exact Kept.refl _ | apply evictCore_keeps | apply evictCluster_keeps | apply evictDie_keeps | refine kept_foldl (fun _ _ => ?_) ?_ _ | split | intro _
  all_goals simp (maxDischargeDepth := 100) [*]
@[simp] theorem dropParity_keeps {s0 s : State} (hk0 : Kept s0 s) : Kept s0 (dropParity s) := by
  simp only [dropParity]
  repeat' with_reducible first | assumption | exact Kept.refl _ | apply memEntry_keeps | apply ringCount_keeps | refine kept_foldl (fun _ _ => ?_) ?_ _ | split | intro _
  all_goals simp (maxDischargeDepth := 100) [*]
@[simp] theorem takeDmr_keeps {s0 s : State} (hk0 : Kept s0 s) : Kept s0 (takeDmr s) := by
  simp only [takeDmr]
  repeat' with_reducible first | assumption | exact Kept.refl _ | split | intro _
  all_goals simp (maxDischargeDepth := 100) [*]
@[simp] theorem settleAll_keeps {s0 s : State} (hk0 : Kept s0 s) : Kept s0 (settleAll s) := by
  simp only [settleAll]
  repeat' with_reducible first | assumption | exact Kept.refl _ | apply settleDemotion_keeps | apply refresh_keeps | apply checkFlips_keeps | apply releaseResident_keeps | apply endOrdwait_keeps | apply takeDmr_keeps | refine kept_foldl (fun _ _ => ?_) ?_ _ | split | intro _
  all_goals simp (maxDischargeDepth := 100) [*]
@[simp] theorem nextCycle_keeps {s0 s : State} (hk0 : Kept s0 s) : Kept s0 (nextCycle s) := by
  simp only [nextCycle]
  repeat' with_reducible first | assumption | exact Kept.refl _ | apply traceTick_keeps | apply helmCycle_keeps | apply bootRom_keeps | apply beginCore_keeps | apply evictAll_keeps | apply dropParity_keeps | apply settleAll_keeps | refine kept_foldl (fun _ _ => ?_) ?_ _ | split | intro _
  all_goals simp (maxDischargeDepth := 100) [*]

/-! ## The operations of Load.lean -/

@[simp] theorem loadWord_keeps {s0 s : State} (hk0 : Kept s0 s) (nbits w : Nat) : Kept s0 (loadWord nbits w s) := by
  simp only [loadWord]
  repeat' with_reducible first | assumption | exact Kept.refl _ | apply onCore_keeps | refine kept_getD (fun _ => ?_) ?_ _ | split | intro _
  all_goals simp (maxDischargeDepth := 100) [*]

/-! ## The operations of Step.lean -/

@[simp] theorem takes_keeps {s0 s : State} (hk0 : Kept s0 s) (t : Turn) (rest : List Turn) : Kept s0 (State.takes s t rest) := by
  simp only [State.takes]
  repeat' with_reducible first | assumption | exact Kept.refl _ | split | intro _
  all_goals simp (maxDischargeDepth := 100) [*]
@[simp] theorem withFetchWord_keeps {s0 s : State} (hk0 : Kept s0 s) (nbits w : Nat) : Kept s0 (State.withFetchWord s nbits w) := by
  simp only [State.withFetchWord]
  repeat' with_reducible first | assumption | exact Kept.refl _ | apply loadWord_keeps | split | intro _
  all_goals simp (maxDischargeDepth := 100) [*]

end Sys2Proof.Machine
end

