-- ==== Sys2Proof/Laws/Registers.lean ====
section
/-! SUPPORT. How results land in the registers (R171 to R173), and what posting one, moving on and raising a fault do. -/

namespace Sys2Proof.Machine

/-- A result that lands leaves every other register alone. -/
theorem land_sameAt (k : Core) (d e : Dest) (h : e.same d = false) : SameAt d k (k.land e) := by
  cases d <;> cases e <;> simp only [Dest.same, beq_eq_false_iff_ne, ne_eq] at h <;>
    simp only [SameAt, Core.land] <;> (try rw [vget_set_ne _ _ (fun e => h e.symm)]) <;> (try rfl)
  all_goals split
  all_goals (try rfl)
  all_goals (try simp only [Core.xr, Core.fr])
  all_goals rw [vget_set_ne _ _ (fun e => h e.symm)]

theorem sameAt_refl (d : Dest) (k : Core) : SameAt d k k := by cases d <;> rfl
theorem sameAt_trans {d : Dest} {i j k : Core} (h : SameAt d i j) (g : SameAt d j k) : SameAt d i k := by
  cases d <;> simp_all [SameAt]
theorem sameAt_symm {d : Dest} {i j : Core} (h : SameAt d i j) : SameAt d j i := by
  cases d <;> simp_all [SameAt]

/-- Results that land leave alone a register that none of them writes. -/
theorem landAll_sameAt (now : Nat) (l : List Pending) (bl : List Dest) (k : Core) (d : Dest)
    (h : ∀ p ∈ l, p.dest.same d = false) : SameAt d k (landAll now l bl k).1 := by
  induction l generalizing bl k with
  | nil => exact sameAt_refl _ _
  | cons p t ih =>
    unfold landAll
    split
    · exact sameAt_trans (land_sameAt _ _ _ (h p (by simp))) (ih _ _ (fun q hq => h q (by simp [hq])))
    · exact ih _ _ (fun q hq => h q (by simp [hq]))

/-- The latest of the results in flight lands last, if no earlier one writes its register. -/
theorem landAll_snoc (now : Nat) (l : List Pending) (p : Pending) (bl : List Dest) (k : Core)
    (h : ∀ q ∈ l, q.dest.same p.dest = false) (hb : ∀ e ∈ bl, e.same p.dest = false) (hd : p.due ≤ now) :
    landAll now (l ++ [p]) bl k = ((landAll now l bl k).1.land p.dest, (landAll now l bl k).2) := by
  induction l generalizing bl k with
  | nil =>
    have hb' : (bl.any fun e => e.same p.dest) = false := by simpa using hb
    simp [landAll, hd, hb']
  | cons q t ih =>
    simp only [List.cons_append, landAll]
    split
    · exact ih _ _ (fun r hr => h r (by simp [hr])) hb
    · rw [ih _ _ (fun r hr => h r (by simp [hr]))]
      intro e he
      rcases List.mem_cons.1 he with rfl | he
      · exact h q (by simp)
      · exact hb e he

/-- A result that is not due does not land. -/
theorem landAll_snoc_late (now : Nat) (l : List Pending) (p : Pending) (bl : List Dest) (k : Core) (hd : ¬ p.due ≤ now) :
    (landAll now (l ++ [p]) bl k).1 = (landAll now l bl k).1 := by
  induction l generalizing bl k with
  | nil => simp [landAll, hd]
  | cons q t ih =>
    simp only [List.cons_append, landAll]
    split
    · exact ih _ _
    · simp [ih]

/-- A result that lands is read. -/
theorem holds_land (k : Core) (d : Dest) : (k.land d).Holds d := by
  cases d <;> simp only [Core.Holds, Core.land] <;> (try split) <;> simp_all [Core.xr, Core.fr]

theorem holds_of_sameAt {d : Dest} {j k : Core} (h : j.Holds d) (g : SameAt d j k) : k.Holds d := by
  cases d <;> simp_all [SameAt, Core.Holds]

/-- Landing leaves alone a register with no write in flight. -/
theorem landDue_other (k : Core) (now : Nat) (d : Dest) (h : k.Quiet d) : SameAt d k (k.landDue now) := by
  have h1 := landAll_sameAt now (k.pending.filter (!·.vote)) [] k d (fun p hp => h p (List.mem_filter.1 hp).1)
  have h2 := landAll_sameAt now (k.pending.filter (·.vote)) [] (landAll now (k.pending.filter (!·.vote)) [] k).1 d
    (fun p hp => h p (List.mem_filter.1 hp).1)
  have h3 := sameAt_trans h1 h2
  cases d <;> exact h3


@[simp] theorem Core.land_pending (k : Core) (d : Dest) : (k.land d).pending = k.pending := by
  cases d <;> simp only [Core.land] <;> (try split) <;> rfl

@[simp] theorem Core.land_seqs (k : Core) (d : Dest) : (k.land d).seqs = k.seqs := by
  cases d <;> simp only [Core.land] <;> (try split) <;> rfl

/-- Landing changes nothing but the five register files. -/
theorem Core.land_only (k : Core) (d : Dest) :
    k.land d = { k with x := (k.land d).x, f := (k.land d).f, b := (k.land d).b, h := (k.land d).h, slots := (k.land d).slots } := by
  cases d <;> simp only [Core.land] <;> (try split) <;> rfl

/-- Posting a result changes nothing but the five register files and the results in flight. -/
theorem Core.post_only (k : Core) (now : Nat) (d : Dest) (lat : Nat) :
    k.post now d lat = { k with
      x := (k.post now d lat).x, f := (k.post now d lat).f, b := (k.post now d lat).b
      h := (k.post now d lat).h, slots := (k.post now d lat).slots, pending := (k.post now d lat).pending } := by
  unfold Core.post
  split
  · rw [k.land_only d]
  · rfl

@[simp] theorem me_post (s : State) (d : Dest) (lat : Nat) : (post d lat s).me = s.me.post s.cycle d lat := by
  simp [post]

@[simp] theorem me_advance (s : State) : (advance s).me = s.me.onSeq s.cur.seq (·.past 1) := by
  simp [advance, advanceBy]

@[simp] theorem cur_advance (s : State) : (advance s).cur = s.cur := rfl
@[simp] theorem cur_post (s : State) (d : Dest) (lat : Nat) : (post d lat s).cur = s.cur := rfl

/-- An instruction that posts a result and moves on changes only its own core. -/
theorem advance_post_only (s : State) (d : Dest) (lat : Nat) : OnlyMyCore s (advance (post d lat s)) := by
  refine ⟨?_, ?_, fun _ => rfl⟩
  · rfl
  · intro c hc
    show ((s.onMe fun k => k.post s.cycle d lat).onMe fun k => k.onSeq s.cur.seq (·.past 1)).core c = s.core c
    rw [State.core_onMe_ne _ _ (by exact hc), State.core_onMe_ne _ _ hc]

@[simp] theorem me_postLater (s : State) (d : Dest) (least : Nat) : (postLater d least s).me =
    { s.me with pending := s.me.pending ++ [⟨d, s.cycle + least + Config.latency s.free, true, false⟩] } := by
  simp [postLater]

/-- An instruction that leaves an interlocked result and moves on changes nothing else. -/
theorem advance_postLater_only (s : State) (d : Dest) (least : Nat) :
    OnlyMyCoreTicks s (advance (postLater d least s))
      ∧ (advance (postLater d least s)).me = { s.me with
          pending := (advance (postLater d least s)).me.pending, seqs := (advance (postLater d least s)).me.seqs }
      ∧ Awaits s (advance (postLater d least s)) least d := by
  refine ⟨⟨rfl, ?_, fun _ => rfl⟩, ?_, ⟨⟨s.cycle + least + Config.latency s.free, by omega, ?_⟩, ?_, ?_⟩⟩
  · intro c hc
    show ((postLater d least s).onMe _).core c = s.core c
    rw [State.core_onMe_ne _ _ (by exact hc)]
    show ((s.onMe _).tick).core c = _
    rw [State.core_tick, State.core_onMe_ne _ _ hc]
  · rw [me_advance, me_postLater]; rfl
  · rw [me_advance, me_postLater]; rfl
  · rw [me_advance, me_postLater]
    exact Core.seq_onSeq_self _ _ _
  · intro r hr
    rw [me_advance, me_postLater]
    exact Core.seq_onSeq_ne _ _ hr

/-- An access within the scratchpad passes the checks of the meanings. -/
theorem Core.SpadAccess.passes {k : Core} {addr : Int} {n off : Nat} (h : k.SpadAccess addr n off) :
    (addr < 0) = False ∧ addr.toNat = off ∧ k.inSpad off n = true := by
  obtain ⟨h1, h2⟩ := h
  exact ⟨eq_false (by omega), by omega, by simp [Core.inSpad, h2]⟩

/-- Raising a fault, said once: the acting core stops in this cycle with one more fault and keeps everything else. -/
theorem me_raise (s : State) (cause i0 i1 : Nat) (ht : s.me.task.isNone = false)
    (hf : (s.me.faultAt.isSome && s.me.faultAt != some s.cycle) = false) :
    (raise cause i0 i1 s).me = { s.me with
      faults := s.me.faults ++ [⟨cause, s.cur.seq, 15, s.pos, 0, i0 % 2 ^ 64, i1 % 2 ^ 64, false⟩]
      faultAt := some s.cycle, mode := .fault } := by
  have ht' : (s.core s.cur.core).task.isNone = false := ht
  have hf' : ((s.core s.cur.core).faultAt.isSome && (s.core s.cur.core).faultAt != some s.cycle) = false := hf
  unfold raise raiseOn
  simp only [ht', hf', Bool.false_eq_true, if_false]
  exact State.core_putCore_self _ _ _

end Sys2Proof.Machine
end

