-- ==== Sys2Proof/Laws/Requests.lean ====
section
/-! SUPPORT. The checks of a memory request (R380): when they pass, and the keys of the bytes of a request that stays in one
page. -/

namespace Sys2Proof.Machine

/-- Without a UCIe link that is down every die reaches every die (R417). -/
theorem ringPath_up {s : State} (h : s.uciDown = []) (a b : DieId) : s.ringPath a b = true := by
  simp [State.ringPath, h]

/-- The checks of a page pass: its leaf allows the access and its key is there. The leaf has the entry's interleave code. -/
theorem checkPage_ok {s : State} {x : Context} {d : DieId} {b : Buffer} {i0 va mask : Nat} {l : Leaf}
    (hwalk : s.walk x va = .ok l) (hup : s.uciDown = []) (hmask : bitAt l.mask mask = true)
    (hworld : l.world = true → x.world = true) (hkey : l.keyid = b.keyid)
    (hheld : ((s.keys[l.keyid]?).bind id).isNone = false) (hdev : l.keyid = 0 → l.world = true)
    (hlink : s.linkFail d (Leaf.keyOf { l with ilv := b.ilv } va) = none) :
    s.checkPage x d b i0 va mask = .ok { l with ilv := b.ilv } := by
  have h1 : (l.world && !x.world) = false := by
    cases hl : l.world <;> simp_all
  have h2 : (l.keyid != b.keyid || ((s.keys[l.keyid]?).bind id).isNone || (decide (l.keyid = 0) && !l.world)) = false := by
    rw [hheld, ← hkey]
    by_cases h0 : l.keyid = 0
    · simp [hdev h0]
    · simp [h0]
  simp only [State.checkPage, hwalk, ringPath_up hup, hmask, h1, h2, hlink]
  simp

/-- The bytes that follow the first one of a page are translated by the same leaf. -/
theorem translate_rest {s : State} {x : Context} {d : DieId} {b : Buffer} {i0 mask : Nat} {still : Bool} {l : Leaf}
    (n va : Nat) (ks : List Nat) (ls : List Leaf) (h0 : 0 < va % 4096) (hn : va % 4096 + n ≤ 4096) :
    s.translate x d b i0 mask still n va (some l) ks ls
      = .ok (ks.reverse ++ (List.range n).map fun j => l.keyOf (va + j)) b.keyid b.integ ls := by
  induction n generalizing va ks with
  | zero => simp [State.translate]
  | succ n ih =>
    have hne : (va % 4096 != 0) = true := by simp; omega
    rw [State.translate]
    simp only [Option.filter, hne, if_true]
    cases n with
    | zero => simp [State.translate]
    | succ n =>
      rw [ih (va + 1) _ (by omega) (by omega)]
      simp only [List.reverse_cons, List.append_assoc, List.range_succ_eq_map (n := n + 1), List.map_cons, List.map_map,
        List.singleton_append, Nat.add_zero]
      have h : (fun j => l.keyOf (va + 1 + j)) = (fun j => l.keyOf (va + j)) ∘ Nat.succ := by
        funext j; simp [Nat.add_assoc, Nat.add_comm 1]
      rw [h]

/-- A request that stays in one page and passes its checks has the bytes of that page's leaf (R380). -/
theorem check_ok {s : State} {d : DieId} {t : Task} {x : Context} {b : Buffer} {l : Leaf} {buf n mask : Nat} {off : Int}
    {a : Acts} (hctx : mget t.record.ctx s.contexts = some x)
    (hentry : s.checkEntry x t.record.ctx buf off n (some (a, false)) = .ok b)
    (hlease : leased t.grants buf off.toNat n = true)
    (hpage : s.checkPage x d b (reqInfo buf off.toNat) (b.vbase + off.toNat) mask = .ok l)
    (hmig : l.mig = false) (hn : 0 < n) (hin : (b.vbase + off.toNat) % 4096 + n ≤ 4096) :
    s.check d t buf off n a mask false
      = .ok ((List.range n).map fun j => l.keyOf (b.vbase + off.toNat + j)) b.keyid b.integ [l] := by
  obtain ⟨m, rfl⟩ : ∃ m, n = m + 1 := ⟨n - 1, by omega⟩
  simp only [State.check, hctx, hentry, hlease, Bool.not_false, Bool.not_true, Bool.and_false, if_neg, Bool.false_eq_true,
    not_false_eq_true]
  rw [State.translate]
  simp only [Option.filter, hpage, hmig, Bool.false_and, Bool.false_eq_true, if_false, List.nil_append]
  cases m with
  | zero => simp [State.translate]
  | succ m =>
    rw [translate_rest (m + 1) _ _ _ (by omega) (by omega)]
    simp only [List.reverse_cons, List.reverse_nil, List.nil_append, List.range_succ_eq_map (n := m + 1), List.map_cons,
      List.map_map, List.singleton_append, Nat.add_zero]
    have h : (fun j => l.keyOf (b.vbase + off.toNat + 1 + j)) = (fun j => l.keyOf (b.vbase + off.toNat + j)) ∘ Nat.succ := by
      funext j; simp [Nat.add_assoc, Nat.add_comm 1]
    rw [h]

end Sys2Proof.Machine
end

