-- ==== Sys2Proof/Tests/Slice0.lean ====
section
/-! SUPPORT. Tests of the model against the spec's own words and numbers, and for every statement a state and operands that
meet its hypotheses. -/

namespace Sys2Proof.Tests

open Sys2Proof Sys2Proof.Machine

set_option maxRecDepth 40000
set_option Elab.async false

/-! ## Well-formedness: for each check a term that it refuses and one that it admits (R151 to R165, R219, R243, R276) -/

/-- Two-source, unary and matrix words with a format or fields of the test's choice. -/
def v2 (f : Fmt) : Vec2 := ⟨f, none, none, .file 1, .file 2, .file 3⟩
def v1 (f : Fmt) : Vec1 := ⟨f, none, none, .file 1, .file 2⟩
def mat0 : Mat := ⟨none, 0, 0, 0, 0, 0, 0, 0, 0, 0, 0, .ovw, false, false, false⟩
def xf : Xfer := ⟨none, none, 1, 0, 2, 0, 0⟩

theorem test_wf_register_pairs : (Instr.acasD ⟨63, 1, 2, .rlx, .core⟩).wf = false ∧ (Instr.acasD ⟨62, 1, 2, .rlx, .core⟩).wf = true
    ∧ (Instr.chrd 63 1 2).wf = false ∧ (Instr.chrd 62 1 2).wf = true := by decide +kernel
theorem test_wf_copyc_stochastic : (Instr.copyc xf .sto false).wf = false ∧ (Instr.copyc xf .rtz true).wf = true := by decide +kernel
theorem test_wf_float_classes : (Instr.vadd (v2 .s32)).wf = false ∧ (Instr.vadd (v2 .bf16)).wf = true
    ∧ (Instr.vexp (v1 .f64)).wf = false ∧ (Instr.vexp (v1 .f32)).wf = true ∧ (Instr.vsqrt (v1 .e4m3)).wf = false := by decide +kernel
theorem test_wf_integer_classes : (Instr.viadd (v2 .f32)).wf = false ∧ (Instr.viadd (v2 .n8)).wf = true
    ∧ (Instr.vpopc (v1 .s4)).wf = false ∧ (Instr.vand (v2 .n32)).wf = false ∧ (Instr.vand (v2 .b1)).wf = true
    ∧ (Instr.vclmul (v2 .s64)).wf = false ∧ (Instr.vbswap (v1 .n8)).wf = false ∧ (Instr.vbswap (v1 .n16)).wf = true := by decide +kernel
theorem test_wf_stream_destination : (Instr.vadd { v2 .f32 with d := .stream 1 0 }).wf = false
    ∧ (Instr.vmov { v1 .b1 with d := .stream 1 0 }).wf = false ∧ (Instr.viota .n8 none none (.stream 1 0) 0).wf = false
    ∧ (Instr.viota .n8 none none .latch 0).wf = true := by decide +kernel
theorem test_wf_compares_and_conversions : (Instr.vcmp .n32 none none 1 .uno .latch .latch).wf = false
    ∧ (Instr.vcmp .f32 none none 1 .uno .latch .latch).wf = true ∧ (Instr.vcmp .f16 none none 1 .eq .latch .latch).wf = false
    ∧ (Instr.vcvt (v1 .b1) .f32 .rne false).wf = false ∧ (Instr.vcvt (v1 .f16) .bf16 .sto false).wf = false
    ∧ (Instr.vcvt (v1 .f16) .f32 .sto false).wf = true := by decide +kernel
theorem test_wf_packing_and_permutes : (Instr.vpack (v2 .n32)).wf = false ∧ (Instr.vunpack (v1 .n16) 2).wf = false
    ∧ (Instr.vunpack (v1 .n16) 1).wf = true ∧ (Instr.vperm (v2 .n4)).wf = false ∧ (Instr.vbcast (v1 .f32) 64).wf = false
    ∧ (Instr.vbcast (v1 .f32) 63).wf = true ∧ (Instr.vsel (v2 .b1)).wf = false
    ∧ (Instr.vsel { v2 .b1 with pred := some 0 }).wf = true ∧ (Instr.vradd (v1 .f64)).wf = false := by decide +kernel
theorem test_wf_vsetn : (Instr.vsetn 0).wf = false ∧ (Instr.vsetn 65).wf = false ∧ (Instr.vsetn 1).wf = true
    ∧ (Instr.vsetn 64).wf = true := by decide +kernel
theorem test_wf_matrix_products : (Instr.mma mat0).wf = false ∧ (Instr.mma { mat0 with k := 2047 }).wf = true
    ∧ (Instr.mma { mat0 with k := 1, sh := 1 }).wf = false ∧ (Instr.mma { mat0 with k := 1, bat := true }).wf = false
    ∧ (Instr.mmab { mat0 with k := 1, bat := true }).wf = false
    ∧ (Instr.mmab { mat0 with k := 1, bat := true, m := 16, n := 1 }).wf = true
    ∧ (Instr.mmab { mat0 with k := 1, bat := true, m := 17, n := 1 }).wf = false
    ∧ (Instr.mmag { mat0 with k := 1, zh := 3 }).wf = true := by decide +kernel
theorem test_wf_matrix_tiles : (Instr.mzero { mat0 with ah := 1 }).wf = false ∧ (Instr.mzero mat0).wf = true
    ∧ (Instr.mld { mat0 with acc := .add }).wf = false ∧ (Instr.mld { mat0 with boff := 1 }).wf = false
    ∧ (Instr.mst { mat0 with k := 1 }).wf = false ∧ (Instr.mst { mat0 with sh := 6 }).wf = true
    ∧ (Instr.mstat { mat0 with m := 1 }).wf = false ∧ (Instr.mstat { mat0 with ta := true }).wf = false := by decide +kernel

/-! ## Decoding: words written out from the encodings chapter, bit by bit (R151 to R165) -/

theorem test_decode_control : decodeTableWord 32 0xD5410200 = some (.chrd 20 1 4)
    ∧ decodeTableWord 32 0xB1828000 = some (.park 10) ∧ decodeTableWord 32 0xB2014000 = some (.wake 5)
    ∧ decodeTableWord 32 0x9C004000 = some (.fqw 1) ∧ decodeTableWord 32 0xA050C000 = some (.allocS 5 3 0)
    ∧ decodeTableWord 32 0x90520080 = some (.hadv 5 8) ∧ decodeTableWord 32 0x78880000 = some (.br 1 1)
    ∧ decodeTableWord 32 0x64440B95 = some (.astD ⟨4, 8, 5, .rel, .sys⟩) := by decide +kernel
theorem test_decode_transfers : decodeTableWord 96 0x010001000000100002000000 = some (.copy ⟨none, none, 1, 0, 2, 64, 0⟩)
    ∧ decodeWord .st 0x010003000040080000000000 = .ok (.copy ⟨none, none, 3, 64, 1, 0, 0⟩)
    ∧ decodeTableWord 96 0x0A000000000000000000000C = some (.radv none 3) := by decide +kernel
theorem test_decode_vectors : decodeTableWord 96 0x116000000030000002000000 = some (.voteCnt none none 1)
    ∧ decodeTableWord 96 0xFC0000000000000004000000 = some (.loopsCmp 4) := by decide +kernel
theorem test_decode_matrix : decodeTableWord 192 (0x060140000000000000020001 * 2 ^ 96 + 0x31C110000000000000000002)
    = some (.mst ⟨none, 5, 0, 0, 0, 16, 0, 6, 7, 1, 4, .ovw, false, false, false⟩) := by decide +kernel
/-- A word of zeros is no instruction of any stream; a reserved bit is named (R152, R362). -/
theorem test_decode_refuses : decodeTableWord 32 0 = none ∧ decodeTableWord 96 0 = none
    ∧ decodeWord .ctl 0xB0800001 = .reserved 0 := by decide +kernel
/-- The encoder writes the same words. -/
theorem test_encode : encode (.divn 3 1 2) = some (.ctl, 0x0430420F) ∧ encode (.ldW 4 2 6 2) = some (.ctl, 0x48410C02)
    ∧ encode (.gather ⟨none, none, 5, 0, 2, 0, 2⟩ 3) = some (.ld, 0x04000500000010000000C008)
    ∧ encode (.voteAny none none 3 2) = some (.vec, 0x116000000003000004000000) := by decide +kernel
def words_integer : List (Nat × Instr) :=
  [(0x0695B500, .add 41 22 53), (0x0695B501, .sub 41 22 53), (0x0695B502, .and 41 22 53), (0x0695B503, .or 41 22 53),
   (0x0695B504, .xor 41 22 53), (0x0695B505, .andn 41 22 53), (0x0695B506, .sll 41 22 53), (0x0695B507, .srl 41 22 53),
   (0x0695B508, .sra 41 22 53), (0x0695B509, .rol 41 22 53), (0x0695B50A, .ror 41 22 53), (0x0695B50B, .mul 41 22 53),
   (0x0695B50C, .mulh 41 22 53), (0x0695B50D, .mulhn 41 22 53), (0x0695B50E, .div 41 22 53),
   (0x0695B50F, .divn 41 22 53), (0x0695B510, .rem 41 22 53), (0x0695B511, .remn 41 22 53),
   (0x0695B512, .min 41 22 53), (0x0695B513, .max 41 22 53), (0x0695B514, .minn 41 22 53),
   (0x0695B515, .maxn 41 22 53), (0x06958016, .clz 41 22), (0x06958017, .ctz 41 22), (0x06958018, .popc 41 22),
   (0x06958019, .sextB 41 22), (0x0695801A, .sextH 41 22), (0x0695801B, .sextW 41 22), (0x0695801C, .zextB 41 22),
   (0x0695801D, .zextH 41 22), (0x0695801E, .zextW 41 22), (0x0695801F, .bswap 41 22)]

theorem test_words_integer : words_integer.all (fun p => decodeWord .ctl p.1 == .ok p.2) = true := by decide +kernel

theorem test_encode_integer : words_integer.all (fun p => (encode p.2).map (·.2) == some p.1) = true := by decide +kernel

def words_immediate_and_flag : List (Nat × Instr) :=
  [(0x0A95BFFD, .addi 41 22 (-3)), (0x0E95BFFD, .andi 41 22 (-3)), (0x1295BFFD, .ori 41 22 (-3)),
   (0x1695BFFD, .xori 41 22 (-3)), (0x1A958025, .slli 41 22 37), (0x1E958025, .srli 41 22 37),
   (0x22958025, .srai 41 22 37), (0x26958025, .rori 41 22 37), (0x2A95A000, .muli 41 22 (-8192)),
   (0x32980001, .li 41 0x80001), (0x369ABCDE, .lhi 41 0xABCDE), (0x3895B500, .cmpEq 9 22 53),
   (0x3895B501, .cmpNe 9 22 53), (0x3895B502, .cmpLt 9 22 53), (0x3895B503, .cmpGe 9 22 53),
   (0x3895B504, .cmpLtn 9 22 53), (0x3895B505, .cmpGen 9 22 53), (0x3895B506, .cmpLe 9 22 53),
   (0x3895B507, .cmpGt 9 22 53), (0x3895B508, .cmpLen 9 22 53), (0x3895B509, .cmpGtn 9 22 53),
   (0x3890CC10, .fand 9 3 12), (0x3890CC11, .forF 9 3 12), (0x3890CC12, .fxor 9 3 12), (0x3890CC13, .fandn 9 3 12),
   (0x3890C014, .fnot 9 3), (0x3C958200, .cmpiEq 9 22 (-512)), (0x3C958600, .cmpiNe 9 22 (-512)),
   (0x3C958A00, .cmpiLt 9 22 (-512)), (0x3C958E00, .cmpiGe 9 22 (-512)), (0x3C959200, .cmpiLtn 9 22 (-512)),
   (0x3C959600, .cmpiGen 9 22 (-512)), (0x3C959A00, .cmpiLe 9 22 (-512)), (0x3C959E00, .cmpiGt 9 22 (-512)),
   (0x3C95A200, .cmpiLen 9 22 (-512)), (0x3C95A600, .cmpiGtn 9 22 (-512))]

theorem test_words_immediate_and_flag : words_immediate_and_flag.all (fun p => decodeWord .ctl p.1 == .ok p.2) = true := by decide +kernel

theorem test_encode_immediate_and_flag : words_immediate_and_flag.all (fun p => (encode p.2).map (·.2) == some p.1) = true := by decide +kernel

def words_memory : List (Nat × Instr) :=
  [(0x4299AD00, .ldB 41 19 22 (-256)), (0x5299ACFF, .stB 41 19 22 255), (0x82902DFF, .ldsB 41 22 (-1)),
   (0x86902C07, .stsB 41 22 7), (0x4699AD00, .ldH 41 19 22 (-256)), (0x5699ACFF, .stH 41 19 22 255),
   (0x8290ADFF, .ldsH 41 22 (-1)), (0x8690AC07, .stsH 41 22 7), (0x4A99AD00, .ldW 41 19 22 (-256)),
   (0x5A99ACFF, .stW 41 19 22 255), (0x82912DFF, .ldsW 41 22 (-1)), (0x86912C07, .stsW 41 22 7),
   (0x4E99AD00, .ldD 41 19 22 (-256)), (0x5E99ACFF, .stD 41 19 22 255), (0x8291ADFF, .ldsD 41 22 (-1)),
   (0x8691AC07, .stsD 41 22 7), (0x89D02C05, .hld 29 22 5), (0x8DD02DFB, .hst 29 22 (-5)),
   (0x6299AC00, .aaddW ⟨41, 19, 22, .rlx, .core⟩), (0x6699AC00, .aaddD ⟨41, 19, 22, .rlx, .core⟩),
   (0x6299AC29, .aminW ⟨41, 19, 22, .acq, .cl⟩), (0x6699AC29, .aminD ⟨41, 19, 22, .acq, .cl⟩),
   (0x6299AC52, .amaxW ⟨41, 19, 22, .rel, .die⟩), (0x6699AC52, .amaxD ⟨41, 19, 22, .rel, .die⟩),
   (0x6299AC7B, .aminnW ⟨41, 19, 22, .ar, .pkg⟩), (0x6699AC7B, .aminnD ⟨41, 19, 22, .ar, .pkg⟩),
   (0x6299AC84, .amaxnW ⟨41, 19, 22, .rlx, .pod⟩), (0x6699AC84, .amaxnD ⟨41, 19, 22, .rlx, .pod⟩),
   (0x6299ACAD, .aandW ⟨41, 19, 22, .acq, .sys⟩), (0x6699ACAD, .aandD ⟨41, 19, 22, .acq, .sys⟩),
   (0x6299ACD0, .aorW ⟨41, 19, 22, .rel, .core⟩), (0x6699ACD0, .aorD ⟨41, 19, 22, .rel, .core⟩),
   (0x6299ACF9, .axorW ⟨41, 19, 22, .ar, .cl⟩), (0x6699ACF9, .axorD ⟨41, 19, 22, .ar, .cl⟩),
   (0x6299AD02, .aswpW ⟨41, 19, 22, .rlx, .die⟩), (0x6699AD02, .aswpD ⟨41, 19, 22, .rlx, .die⟩),
   (0x6299AD2B, .acasW ⟨41, 19, 22, .acq, .pkg⟩), (0x6699AD2B, .acasD ⟨41, 19, 22, .acq, .pkg⟩),
   (0x6299AD54, .afaddW ⟨41, 19, 22, .rel, .pod⟩), (0x6699AD54, .afaddD ⟨41, 19, 22, .rel, .pod⟩),
   (0x6299AD7D, .aldW ⟨41, 19, 22, .ar, .sys⟩), (0x6699AD7D, .aldD ⟨41, 19, 22, .ar, .sys⟩),
   (0x6299AD80, .astW ⟨41, 19, 22, .rlx, .core⟩), (0x6699AD80, .astD ⟨41, 19, 22, .rlx, .core⟩)]

theorem test_words_memory : words_memory.all (fun p => decodeWord .ctl p.1 == .ok p.2) = true := by decide +kernel

theorem test_encode_memory : words_memory.all (fun p => (encode p.2).map (·.2) == some p.1) = true := by decide +kernel

def words_control_and_system : List (Nat × Instr) :=
  [(0x72FFFFFE, .pt 5 (-2)), (0x7400004D, .j 77), (0x7AD80000, .br 5 11), (0x7ADC0000, .brNot 5 11),
   (0x7E858000, .ptr 5 22), (0x7E900000, .call 5), (0x7C200000, .ret), (0x7EB58000, .loop 5 22),
   (0x91D58003, .hsetf 29 22 .hint), (0x92901D4D, .hgetf 41 29 .glay), (0x91D58080, .hadv 29 22),
   (0x9400000D, .tsig 13), (0x9400010D, .twait 13), (0x9690020D, .tcnt 41 13), (0x9B2C0000, .gset 6 11),
   (0x9B440000, .gseti 6 true), (0x9B400000, .gseti 6 false), (0x9C058000, .fqw 22), (0xA295BFFF, .allocS 41 22 (-1)),
   (0xA6958003, .allocV 41 22 3), (0xA8300000, .fenceAcq .pod), (0xA84C0000, .fenceRel .pkg),
   (0xA8740000, .fenceAr .sys), (0xA88A6B00, .flush .die 19 22), (0xA9066B00, .inv .cl 19 22),
   (0xA98C0000, .phase .pkg), (0xAA000000, .commit), (0xAC6D6003, .binit 27 22 .pkg), (0xACED6980, .bslot 27 19 22),
   (0xAD6D6000, .bexpect 27 22), (0xADEC0000, .barrive 27), (0xAE6C0000, .bwait 27), (0xAEEC0058, .btest 11 27),
   (0xB0058000, .spawn 22), (0xB0800000, .endT), (0xB1000000, .yield), (0xB1858000, .park 22), (0xB2058000, .wake 22),
   (0xB2858000, .dmrw 22), (0xB405B500, .snapoRd 22 53), (0xB485B500, .snapoWr 22 53), (0xB5058000, .snapc 22),
   (0xB5858000, .repart 22), (0xC290000B, .srd 41 .timeus), (0xC2900015, .srd 41 .dhi2), (0xC4058005, .swr .sp 22),
   (0xC800BEEF, .trap 0xBEEF), (0xC9000000, .rte), (0xCA00BEEF, .brk 0xBEEF), (0xCC000000, .nop), (0xCD000000, .wfe),
   (0xCE000000, .sev), (0xD0058000, .csw 22), (0xD2058000, .cswReg 22), (0xD695A600, .chrd 41 19 22)]

theorem test_words_control_and_system : words_control_and_system.all (fun p => decodeWord .ctl p.1 == .ok p.2) = true := by decide +kernel

theorem test_encode_control_and_system : words_control_and_system.all (fun p => (encode p.2).map (·.2) == some p.1) = true := by decide +kernel

def words_load_stream : List (Nat × Instr) :=
  [(0x01DE55FFFFF75096B4382EE4, .copy ⟨some ⟨5, true⟩, some 18, 21, -9, 10, 1234567, 3001⟩),
   (0x02DE55FFFFF75096B4382EE4, .copyt ⟨some ⟨5, true⟩, some 18, 21, -9, 10, 1234567, 3001⟩),
   (0x03DE55FFFFF75096B43AAEE4, .copyc ⟨some ⟨5, true⟩, some 18, 21, -9, 10, 1234567, 3001⟩ .rpi true),
   (0x04DE55FFFFF75096B43C6EE4, .gather ⟨some ⟨5, true⟩, some 18, 21, -9, 10, 1234567, 3001⟩ 17),
   (0x06DE55FFFFF75096B4382EE4, .fill ⟨some ⟨5, true⟩, some 18, 21, -9, 10, 1234567, 3001⟩),
   (0x08D00000000057FFFFF8001C, .pref (some ⟨5, false⟩) 10 (-1) 7),
   (0x09DE55FFFFF75096B4382EE4, .bcopy ⟨some ⟨5, true⟩, some 18, 21, -9, 10, 1234567, 3001⟩),
   (0x0AF000000000000000000034, .radv (some ⟨7, false⟩) 13), (0xF00000000000FEDCBA000000, .loops 0xFEDCBA),
   (0xF10000000000000000000000, .loope), (0xF20000000000FFFFFE000000, .jump (-2)),
   (0xF30000000000000000000034, .tsigLdSt 13), (0xF40000000000000000000034, .twaitLdSt 13),
   (0xF50000000000000000000000, .stop)]

theorem test_words_load_stream : words_load_stream.all (fun p => decodeWord .ld p.1 == .ok p.2) = true := by decide +kernel

theorem test_encode_load_stream : words_load_stream.all (fun p => (encode p.2).map (·.2) == some p.1) = true := by decide +kernel

def words_store_stream : List (Nat × Instr) :=
  [(0x01DE55FFFFF75096B4382EE4, .copy ⟨some ⟨5, true⟩, some 18, 21, -9, 10, 1234567, 3001⟩),
   (0x02DE55FFFFF75096B4382EE4, .copyt ⟨some ⟨5, true⟩, some 18, 21, -9, 10, 1234567, 3001⟩),
   (0x03DE55FFFFF75096B4386EE4, .copyc ⟨some ⟨5, true⟩, some 18, 21, -9, 10, 1234567, 3001⟩ .rtz false),
   (0x05DE55FFFFF75096B43C6EE4, .scatter ⟨some ⟨5, true⟩, some 18, 21, -9, 10, 1234567, 3001⟩ 17),
   (0x06DE55FFFFF75096B4382EE4, .fill ⟨some ⟨5, true⟩, some 18, 21, -9, 10, 1234567, 3001⟩),
   (0x07DE55FFFFF75096B4382EE4, .redadd ⟨some ⟨5, true⟩, some 18, 21, -9, 10, 1234567, 3001⟩),
   (0x0A0000000000000000000034, .radv none 13), (0xF50000000000000000000000, .stop)]

theorem test_words_store_stream : words_store_stream.all (fun p => decodeWord .st p.1 == .ok p.2) = true := by decide +kernel

theorem test_encode_store_stream : words_store_stream.all (fun p => (encode p.2).map (·.2) == some p.1) = true := by decide +kernel

def words_vector_arithmetic : List (Nat × Instr) :=
  [(0x0044EB4003E840001BFBFFE4, .vadd ⟨.bf16, some 6, some ⟨3, false⟩, .main 1000, .file 13, .stream 30 (-7)⟩),
   (0x0082EB4003E840001BFBFFE4, .vsub ⟨.f32, some 6, some ⟨3, false⟩, .main 1000, .file 13, .stream 30 (-7)⟩),
   (0x00C4EB4003E840001BFBFFE4, .vmul ⟨.bf16, some 6, some ⟨3, false⟩, .main 1000, .file 13, .stream 30 (-7)⟩),
   (0x0102EB4003E840001BFBFFE4, .vfma ⟨.f32, some 6, some ⟨3, false⟩, .main 1000, .file 13, .stream 30 (-7)⟩),
   (0x0144EB4003E840001BFBFFE4, .vfms ⟨.bf16, some 6, some ⟨3, false⟩, .main 1000, .file 13, .stream 30 (-7)⟩),
   (0x0182EB4003E840001BFBFFE4, .vfnma ⟨.f32, some 6, some ⟨3, false⟩, .main 1000, .file 13, .stream 30 (-7)⟩),
   (0x01C4EB4003E840001BFBFFE4, .vfnms ⟨.bf16, some 6, some ⟨3, false⟩, .main 1000, .file 13, .stream 30 (-7)⟩),
   (0x0202EB4003E840001BFBFFE4, .vdiv ⟨.f32, some 6, some ⟨3, false⟩, .main 1000, .file 13, .stream 30 (-7)⟩),
   (0x0244EB20000F800402000000, .vsqrt ⟨.bf16, some 6, some ⟨3, false⟩, .file 15, .main 513⟩),
   (0x0282EB20000F800402000000, .vrsqrt ⟨.f32, some 6, some ⟨3, false⟩, .file 15, .main 513⟩),
   (0x02C4EB20000F800402000000, .vrcp ⟨.bf16, some 6, some ⟨3, false⟩, .file 15, .main 513⟩),
   (0x0302EB20000F800402000000, .vexp2 ⟨.f32, some 6, some ⟨3, false⟩, .file 15, .main 513⟩),
   (0x0344EB20000F800402000000, .vlog2 ⟨.bf16, some 6, some ⟨3, false⟩, .file 15, .main 513⟩),
   (0x0382EB20000F800402000000, .vexp ⟨.f32, some 6, some ⟨3, false⟩, .file 15, .main 513⟩),
   (0x03C4EB20000F800402000000, .vtanh ⟨.bf16, some 6, some ⟨3, false⟩, .file 15, .main 513⟩),
   (0x0402EB4003E840001BFBFFE4, .vmin ⟨.f32, some 6, some ⟨3, false⟩, .main 1000, .file 13, .stream 30 (-7)⟩),
   (0x0444EB4003E840001BFBFFE4, .vmax ⟨.bf16, some 6, some ⟨3, false⟩, .main 1000, .file 13, .stream 30 (-7)⟩),
   (0x0482EB20000F800402000000, .vabs ⟨.f32, some 6, some ⟨3, false⟩, .file 15, .main 513⟩),
   (0x04C4EB20000F800402000000, .vneg ⟨.bf16, some 6, some ⟨3, false⟩, .file 15, .main 513⟩),
   (0x0502EB4003E840001BFBFFE4, .vclamp ⟨.f32, some 6, some ⟨3, false⟩, .main 1000, .file 13, .stream 30 (-7)⟩),
   (0x0810EB4003E840001BFBFFE4, .viadd ⟨.s64, some 6, some ⟨3, false⟩, .main 1000, .file 13, .stream 30 (-7)⟩),
   (0x0850EB4003E840001BFBFFE4, .visub ⟨.s64, some 6, some ⟨3, false⟩, .main 1000, .file 13, .stream 30 (-7)⟩),
   (0x0890EB4003E840001BFBFFE4, .vimul ⟨.s64, some 6, some ⟨3, false⟩, .main 1000, .file 13, .stream 30 (-7)⟩),
   (0x08D0EB4003E840001BFBFFE4, .vimulh ⟨.s64, some 6, some ⟨3, false⟩, .main 1000, .file 13, .stream 30 (-7)⟩),
   (0x0920EB4003E840001BFBFFE4, .vand ⟨.b1, some 6, some ⟨3, false⟩, .main 1000, .file 13, .stream 30 (-7)⟩),
   (0x0960EB4003E840001BFBFFE4, .vor ⟨.b1, some 6, some ⟨3, false⟩, .main 1000, .file 13, .stream 30 (-7)⟩),
   (0x09A0EB4003E840001BFBFFE4, .vxor ⟨.b1, some 6, some ⟨3, false⟩, .main 1000, .file 13, .stream 30 (-7)⟩),
   (0x09E0EB4003E840001BFBFFE4, .vandn ⟨.b1, some 6, some ⟨3, false⟩, .main 1000, .file 13, .stream 30 (-7)⟩),
   (0x0A10EB4003E840001BFBFFE4, .vsll ⟨.s64, some 6, some ⟨3, false⟩, .main 1000, .file 13, .stream 30 (-7)⟩),
   (0x0A50EB4003E840001BFBFFE4, .vsrl ⟨.s64, some 6, some ⟨3, false⟩, .main 1000, .file 13, .stream 30 (-7)⟩),
   (0x0A90EB4003E840001BFBFFE4, .vsra ⟨.s64, some 6, some ⟨3, false⟩, .main 1000, .file 13, .stream 30 (-7)⟩),
   (0x0AD0EB4003E840001BFBFFE4, .vrol ⟨.s64, some 6, some ⟨3, false⟩, .main 1000, .file 13, .stream 30 (-7)⟩),
   (0x0B1AEB20000F800402000000, .vpopc ⟨.n16, some 6, some ⟨3, false⟩, .file 15, .main 513⟩),
   (0x0B5AEB20000F800402000000, .vclz ⟨.n16, some 6, some ⟨3, false⟩, .file 15, .main 513⟩),
   (0x0C18EB4003E840001BFBFFE4, .vclmul ⟨.n64, some 6, some ⟨3, false⟩, .main 1000, .file 13, .stream 30 (-7)⟩),
   (0x0C58EB4003E840001BFBFFE4, .vclmulh ⟨.n64, some 6, some ⟨3, false⟩, .main 1000, .file 13, .stream 30 (-7)⟩),
   (0x0C92EB20000F800402000000, .vbswap ⟨.s16, some 6, some ⟨3, false⟩, .file 15, .main 513⟩),
   (0x0CDBEB20000F800402000000, .vbrev ⟨.n8, some 6, some ⟨3, false⟩, .file 15, .main 513⟩)]

theorem test_words_vector_arithmetic : words_vector_arithmetic.all (fun p => decodeWord .vec p.1 == .ok p.2) = true := by decide +kernel

theorem test_encode_vector_arithmetic : words_vector_arithmetic.all (fun p => (encode p.2).map (·.2) == some p.1) = true := by decide +kernel

def words_vector_other : List (Nat × Instr) :=
  [(0x1010EB00002C000000800008, .vcmp .s64 (some 6) (some ⟨3, false⟩) 4 .ge .latch (.file 2)),
   (0x10600B800007000004000014, .vpand (some ⟨3, true⟩) 7 2 5),
   (0x10A00B800007000004000014, .vpor (some ⟨3, true⟩) 7 2 5),
   (0x10E00B800007000004000014, .vpxor (some ⟨3, true⟩) 7 2 5), (0x112000000007000004000000, .vpnot none 7 2),
   (0x1160E000000B00000A000000, .voteAny (some 6) none 11 5),
   (0x1160E000001B00000A000000, .voteAll (some 6) none 11 5),
   (0x1160E000002B00000A000000, .voteNone (some 6) none 11 5),
   (0x1160EB00003000000A000000, .voteCnt (some 6) (some ⟨3, false⟩) 5),
   (0x1403EB20000F800402000C08, .vcvt ⟨.f16, some 6, some ⟨3, false⟩, .file 15, .main 513⟩ .f32 .sto true),
   (0x145CEB4003E840001BFBFFE4, .vpack ⟨.n4, some 6, some ⟨3, false⟩, .main 1000, .file 13, .stream 30 (-7)⟩),
   (0x149CEB20000F80040200001C, .vunpack ⟨.n4, some 6, some ⟨3, false⟩, .file 15, .main 513⟩ 7),
   (0x1802EB20000F800402000000, .vradd ⟨.f32, some 6, some ⟨3, false⟩, .file 15, .main 513⟩),
   (0x1842EB20000F800402000000, .vrmax ⟨.f32, some 6, some ⟨3, false⟩, .file 15, .main 513⟩),
   (0x1882EB20000F800402000000, .vrmin ⟨.f32, some 6, some ⟨3, false⟩, .file 15, .main 513⟩),
   (0x18C2EB20000F800402000000, .vargmax ⟨.f32, some 6, some ⟨3, false⟩, .file 15, .main 513⟩),
   (0x1902EB20000F800402000000, .vtopk8 ⟨.f32, some 6, some ⟨3, false⟩, .file 15, .main 513⟩),
   (0x1C13EB4003E840001BFBFFE4, .vperm ⟨.s8, some 6, some ⟨3, false⟩, .main 1000, .file 13, .stream 30 (-7)⟩),
   (0x1C5BEB20000F8004020003FC, .vbcast ⟨.n8, some 6, some ⟨3, false⟩, .file 15, .main 513⟩ 255),
   (0x1CA0EB4003E840001BFBFFE4, .vsel ⟨.b1, some 6, some ⟨3, false⟩, .main 1000, .file 13, .stream 30 (-7)⟩),
   (0x1CDAEB40000901FFE6000000, .viota .n16 (some 6) (some ⟨3, false⟩) (.main 9) 0xFFF3),
   (0x1D19EB20000F800402000000, .vscan ⟨.n32, some 6, some ⟨3, false⟩, .file 15, .main 513⟩),
   (0x1D60EB20000F800402000000, .vmov ⟨.b1, some 6, some ⟨3, false⟩, .file 15, .main 513⟩),
   (0x1DA000000000000080000000, .vsetn 64), (0xFC0000000000FEDCBA000000, .loopsCmp 0xFEDCBA),
   (0xFC4000000000000000000000, .loopeCmp), (0xFC8000000000FFFFFE000000, .jumpCmp (-2)),
   (0xFCC000000000000000000034, .tsigCmp 13), (0xFD0000000000000000000034, .twaitCmp 13),
   (0xFD4000000000000000000000, .stopCmp)]

theorem test_words_vector_other : words_vector_other.all (fun p => decodeWord .vec p.1 == .ok p.2) = true := by decide +kernel

theorem test_encode_vector_other : words_vector_other.all (fun p => (encode p.2).map (·.2) == some p.1) = true := by decide +kernel

def words_matrix : List (Nat × Instr) :=
  [
   (0x01CC7FFFFF74002469579FFD003F86800000000000000002, .mma ⟨some ⟨4, true⟩, 17, -3, 26, 4660, 0xABC, 2047, 0, 0, 63, 33, .neg, true, false, false⟩),
   (0x02CC7FFFFF74002469579FFD001025600000000000000002, .mmab ⟨some ⟨4, true⟩, 17, -3, 26, 4660, 0xABC, 2047, 0, 0, 16, 9, .add, false, true, true⟩),
   (0x03CC7FFFFF740024695780155DBF84000000000000000002, .mmag ⟨some ⟨4, true⟩, 17, -3, 26, 4660, 0xABC, 5, 11, 22, 63, 33, .ovw, false, false, false⟩),
   (0x04C800000000000001578001000720000000000000000002, .mzero ⟨some ⟨4, true⟩, 0, 0, 0, 0, 0xABC, 0, 0, 0, 7, 8, .ovw, false, false, false⟩),
   (0x05CC7FFFFF40000001578001000720800000000000000002, .mld ⟨some ⟨4, true⟩, 17, -3, 0, 0, 0xABC, 0, 0, 0, 7, 8, .ovw, true, false, false⟩),
   (0x06CC7FFFFF400000015780015D8720000000000000000002, .mst ⟨some ⟨4, true⟩, 17, -3, 0, 0, 0xABC, 0, 11, 22, 7, 8, .ovw, false, false, false⟩),
   (0x07CC7FFFFF40000001578001000000000000000000000002, .mstat ⟨some ⟨4, true⟩, 17, -3, 0, 0, 0xABC, 0, 0, 0, 0, 0, .ovw, false, false, false⟩),
   (0x08C800000000000001578001000000000000000000000002, .mclr)]

theorem test_words_matrix : words_matrix.all (fun p => decodeWord .mat p.1 == .ok p.2) = true := by decide +kernel

theorem test_encode_matrix : words_matrix.all (fun p => (p.2 == .mclr || (encode p.2).map (·.2) == some p.1)) = true := by decide +kernel

/-! ## Small states for the witnesses: core 0 runs task 1 of context 1, whose buffer 1 is one page of T1 -/

/-- A handle of buffer 1, and one of the scratchpad, of four N32 elements each. -/
def hMem : Handle := { Handle.zero with buf := 1, fmt := 0x19, n0 := 4 }
def hSpad : Handle := { Handle.zero with spc := true, fmt := 0x19, n0 := 4 }
/-- A core that runs task 1, with one granule for each region, and x1 = 8. -/
def core0 : Core := { Core.reset with
  task := some 1, mode := .run, bnda := 1, bndb := 2, bndc := 3, spb := 0x100, sp := 0x80
  x := (Vector.replicate 64 0).set 1 8, h := ((Vector.replicate 32 Handle.zero).set 1 hMem).set 2 hSpad }
/-- Chart entries: a table in frame `n`, and a leaf of 4 KiB in T1 with every MASK bit under key 1. -/
def tableAt (n : Nat) : Nat := 1 + n * 2 ^ 32
def leafAt (frame : Nat) : Nat := 3 + 2 ^ 5 + 0xFF * 2 ^ 8 + 2 ^ 16 + frame * 2 ^ 32
/-- A four-level Chart at 0x1000 that maps page 0 to frame 0x10, and a buffer table at 0x8000 whose entry 1 is that page. -/
def memOf (leaf : Nat) : Memory :=
  wrNat (wrNat (wrNat (wrNat (wrNat [] (t1 0x1000) 16 (tableAt 2)) (t1 0x2000) 16 (tableAt 3)) (t1 0x3000) 16 (tableAt 4))
    (t1 0x4000) 16 leaf) (t1 0x8020) 32 (4096 * 2 ^ 64 + 7 * 2 ^ 112 + 2 ^ 148)
def ctx1 : Context := { Context.blank with
  state := 1, keyid := 1, chroot := 0x1000, btbase := 0x8000, btlen := 2, savea := 0x20000, savel := 64, fqb := 0x10000 }
def task1 : Task := { Task.blank { TaskRec.blank 1 1 with awr := 4, areg := 1, aspd := 1 } 0 with grants := [(1, 0, 1)] }
/-- The package around a core: sequencer `q` of core 0 issues. -/
def world (k : Core) (q : Seq) : State := { State.reset.putCore 0 k with
  agenda := [], cur := Turn.issueOf 0 q, boot := 3, mem := memOf (leafAt 0x10), keys := State.reset.keys.set 1 (some 5)
  contexts := [(1, ctx1)], teams := [(1, Team.blank 1)], tasks := [(1, task1)], nextTask := 2, nextTeam := 2 }
def s0 : State := world core0 .ctl
theorem s0_runs : s0.Runs 1 task1 := ⟨by decide, by decide⟩
/-- No SRAM structure of these states has an error (R391): the premise of the statements that read a core's own memory. -/
theorem world_flaws (k : Core) (q : Seq) : (world k q).flaws = [] := rfl

/-- An outcome that is well is that outcome. -/
def okIs {ε α : Type} [DecidableEq α] (o : Except ε α) (x : α) : Bool :=
  match o with
  | .ok y => decide (y = x)
  | .error _ => false
theorem ok_of {ε α : Type} [DecidableEq α] {o : Except ε α} {x : α} (h : okIs o x = true) : o = .ok x := by
  cases o <;> simp_all [okIs]
/-- The leaf of the page, and a request of the page's bytes that passes every check (R380). -/
def leaf1 : Leaf := ⟨leafAt 0x10, 0x4000, 0x4000, 0, 0⟩
theorem s0_check {s : State} {t : Task} {off n mask : Nat} {a : Acts} {addr : Int}
    (hq : addr = (off : Int)) (hk : s.keys = s0.keys)
    (hu : s.uciDown = []) (hd : s.cur.core = 0) (hx : mget t.record.ctx s.contexts = some ctx1)
    (he : okIs (s.checkEntry ctx1 t.record.ctx 1 off n (some (a, false))) (s0.buffer ctx1 1) = true)
    (hl : leased t.grants 1 (off : Int).toNat n = true) (hm : mask < 8) (hn : 0 < n) (hin : off + n ≤ 4096)
    (hw : okIs (s.walk ctx1 off) leaf1 = true) (hf : s.linkFail 0 (leaf1.keyOf off) = none) :
    s.ask t ⟨1, addr, n, a, mask⟩
      = .ok ((List.range n).map fun j => leaf1.keyOf (off + j)) 1 0 [leaf1] := by
  have hb : (s0.buffer ctx1 1).vbase = 0 ∧ (s0.buffer ctx1 1).keyid = 1 ∧ (s0.buffer ctx1 1).integ = 0
      ∧ ({ leaf1 with ilv := (s0.buffer ctx1 1).ilv } : Leaf) = leaf1 := by decide +kernel
  have hz : (s0.buffer ctx1 1).vbase + (off : Int).toNat = off := by omega
  subst hq
  rw [State.ask, hd, check_ok (x := ctx1) (b := s0.buffer ctx1 1) (l := leaf1) hx (ok_of he) hl ?_ (by decide) hn (by omega), hz, hb.2.1, hb.2.2.1]
  · rw [hz, ← hb.2.2.2]
    refine checkPage_ok (ok_of hw) hu ?_ (by decide) (by decide) (by rw [hk]; decide) (by decide) (by rw [hb.2.2.2]; exact hf)
    have : ∀ m : Fin 8, bitAt leaf1.mask m.val = true := by decide +kernel
    exact this ⟨mask, hm⟩

/-! ## Witnesses: for each statement a state and operands that meet its hypotheses -/

theorem witness_ScalarResults : (arithRule s0.me (.mulh 3 1 1)).isSome = true ∧ (unaryRule s0.me (.clz 3 1)).isSome = true
    ∧ (immRule s0.me (.lhi 1 7)).isSome = true ∧ (flagRule s0.me (.cmpiLtn 1 1 (-1))).isSome = true := by decide +kernel
theorem witness_DivisionResults : (divRule s0.me (.rem 3 1 0)).isSome = true ∧ (divRule s0.me (.div 3 1 1)).isSome = true := by
  decide +kernel
theorem witness_LatencyAndOrder : core0.Quiet (.x 5 7) ∧ (Dest.x 5 7).same (.x 5 9) = true ∧ (0 < 1 ∧ 0 < 10 ∧ 0 < 3 ∧ 1 < 3)
    ∧ s0.me.Quiet (.x 5 7) := ⟨nofun, rfl, by decide, by rw [show s0.me = core0 by rfl]; nofun⟩
theorem witness_RegisterFrame : resultRule s0.me (.divn 3 1 0) = some (.x 3 (BitVec.ofNat 64 (2 ^ 64 - 1)), 10) := by decide +kernel
/-- An access that ends with the region's last byte, and one of the region's first bytes. -/
theorem witness_Handles : s0.me.SpadAccess ((s0.me.xr 0).toNat + (0 : BitVec 9).toInt * 32) 32 0
    ∧ s0.me.poisoned (s0.me.spadBase + 0) 32 = false ∧ s0.me.pool.wf = true
    ∧ s0.me.SpadAccess 65504 32 65504 := by
  refine ⟨⟨?_, ?_⟩, ?_, ?_, ?_, ?_⟩ <;> decide +kernel
theorem witness_SpecialRegisters : s0.myTask = some task1 := by decide +kernel
theorem witness_Branches : (transferRule s0 (.j (-1))).isSome = true ∧ (transferRule s0 (.brNot 1 3)).isSome = true
    ∧ s0.me.Quiet (.b 2 0) ∧ s0.me.Quiet (.x 1 0) ∧ s0.me.xr 1 ≠ 1 ∧ s0.me.xr 0 ≠ 1 := by
  refine ⟨by decide, by decide, ?_, ?_, by decide, by decide⟩ <;> (rw [show s0.me = core0 by rfl]; nofun)
/-- A position beyond the control section, and one within it. -/
theorem witness_Branches_wild : s0.me.plane.ctl.length < (s0.me.xr 1).toNat ∧ ¬ s0.me.plane.ctl.length < (s0.me.xr 0).toNat
    ∧ s0.me.Quiet (.b 1 (BitVec.ofNat 64 ((s0.me.xr 1).toNat % 2 ^ 23))) := by
  refine ⟨by decide, by decide, ?_⟩
  rw [show s0.me = core0 by rfl]; nofun
/-- A counter at its last pass, and the stream control of LD with no loop open, one open, and four. -/
theorem witness_Branches_last : (world { core0 with x := core0.x.set 1 1 } .ctl).me.xr 1 = 1 := by decide +kernel
def loops (n : Nat) : State := world (core0.onSeq .ld fun q => { q with loops := List.replicate n ⟨1, 0, 2⟩, pos := 3 }) .ld
theorem witness_Branches_streams : opensLoop (.loops 0) = some 0 ∧ ((loops 0).me.seq .ld).delay = none
    ∧ ((loops 3).me.seq .ld).loops.length < 4 ∧ 4 ≤ ((loops 4).me.seq .ld).loops.length ∧ ((loops 0).me.seq .ld).loops = []
    ∧ ((loops 2).me.seq .ld).loops = ⟨1, 0, 2⟩ :: [⟨1, 0, 2⟩] ∧ jumpsBy (.jump (-2)) = some (-2) := by decide +kernel
theorem witness_CallsAndReturns : s0.me.sp.toNat = 0x78 + 8 ∧ s0.me.StackRange 0x78 ∧ 0x78 + 8 ≤ s0.me.spadSize
    ∧ s0.me.pool.wf = true ∧ s0.me.StackRange (s0.me.sp.toNat + 8 : Nat) ∧ s0.me.sp.toNat + 8 ≤ s0.me.spadSize := by
  refine ⟨by decide, ⟨?_, ?_⟩, by decide, by decide, ⟨?_, ?_⟩, by decide⟩ <;> decide +kernel
/-- The stack pointer at SPB, which a TRAP fills down to 16 below it. -/
theorem witness_Traps : s0.me.sp.toNat = 0x70 + 16 ∧ s0.me.StackRange (0x70 : Nat) ∧ s0.me.StackRange (0x70 + 16 : Nat)
    ∧ 0x70 + 16 ≤ s0.me.spadSize ∧ s0.me.pool.wf = true ∧ s0.me.tdep < 255 ∧ s0.pos + 1 < 2 ^ 64
    ∧ (∀ p ∈ s0.me.pending, p.interlocked = true) := by
  refine ⟨by decide, ⟨?_, ?_⟩, ⟨?_, ?_⟩, by decide, by decide, by decide, by decide, by decide⟩ <;> decide +kernel
theorem witness_Traps_waits : ∃ p ∈ (world { core0 with pending := [⟨.x 3 0, 3, false, false⟩] } .ctl).me.pending,
    p.interlocked = false := by decide +kernel
/-- A trapped core with a write of f3 in flight and none of f4. -/
def trapped : Core := { core0 with tdep := 1, sp := 0xF0, pending := [⟨.f 3 true, 3, true, false⟩] }
theorem witness_Traps_return : let s := world trapped .ctl
    0 < s.me.tdep ∧ s.me.StackRange (s.me.sp.toNat + 16 : Nat) ∧ s.me.sp.toNat + 16 ≤ s.me.spadSize
    ∧ (∃ p ∈ trapped.pending, p.vote = false ∧ p.dest.same (.f 3 false) = true)
    ∧ ∀ p ∈ trapped.pending, p.dest.same (.f 4 false) = false := by
  refine ⟨by decide, ⟨?_, ?_⟩, by decide, by decide, by decide⟩ <;> decide +kernel
/-- A fault is taken by a core with a task. -/
theorem witness_ControlFaults : s0.me.task.isSome = true ∧ s0.me.faultAt = none := by decide +kernel
theorem witness_ControlFaults_stack : ¬ (world { core0 with sp := 7 } .ctl).me.StackRange (((world { core0 with sp := 7 } .ctl).me.sp.toNat : Int) - 8)
    ∧ ¬ (world { core0 with sp := 0x100 } .ctl).me.StackRange ((world { core0 with sp := 0x100 } .ctl).me.sp.toNat + 8 : Nat)
    ∧ (world { core0 with tdep := 255 } .ctl).me.tdep = 255 ∧ s0.me.tdep ≠ 255
    ∧ ¬ (world { core0 with sp := 15 } .ctl).me.StackRange (((world { core0 with sp := 15 } .ctl).me.sp.toNat : Int) - 16)
    ∧ (∀ p ∈ s0.me.pending, p.interlocked = true) ∧ s0.me.tdep = 0 := by
  refine ⟨?_, ?_, by decide, by decide, ?_, by decide, by decide⟩ <;> (unfold Core.StackRange; decide)
/-- The last byte of an access lies one beyond the region; an offset is negative; a byte of the access is poisoned. -/
theorem witness_ControlFaults_scratchpad : spadLoad s0.me (.ldsD 5 0 (-1)) = some (8, -8, 5)
    ∧ s0.me.SpadMiss (-8) 8 ∧ spadStore (world { core0 with x := core0.x.set 1 65529 } .ctl).me (.stsD 5 1 0) = some (8, 65529, 5)
    ∧ s0.me.SpadMiss 65529 8 := by
  refine ⟨by decide, ?_, by decide, ?_⟩ <;> (unfold Core.SpadMiss; decide)
theorem witness_ControlFaults_poison : let s := world { core0 with poison := [1024] } .ctl
    spadLoad s.me (.ldB 5 2 1 0) = some (1, 8, 5) ∧ s.me.SpadAccess 8 1 8 ∧ s.me.poisoned (s.me.spadBase + 8) 1 = true := by
  refine ⟨by decide, ⟨?_, ?_⟩, ?_⟩ <;> decide +kernel
/-- The pool's line 1,024, with which the scratchpad begins, has an uncorrectable error. -/
theorem witness_ControlFaults_pool : let s : State := { s0 with flaws := [⟨.pool 0, 1024, 1⟩] }
    spadLoad s.me (.ldB 5 2 1 0) = some (1, 8, 5) ∧ s.me.SpadAccess 8 1 8
      ∧ s.poolFlaw s.cur.core (keysFrom (s.me.spadBase + 8) 1) = some 65544 := by
  refine ⟨by decide, ⟨?_, ?_⟩, ?_⟩ <;> decide +kernel
/-- Loads and stores at the region's last byte, by LDS, STS and through a handle of the scratchpad. -/
theorem witness_ScratchpadAccess : let s := world { core0 with x := core0.x.set 1 65528 } .ctl
    spadLoad s.me (.ldsD 5 1 0) = some (8, 65528, 5) ∧ spadStore s.me (.stD 5 2 1 0) = some (8, 65528, 5)
    ∧ s.me.SpadAccess 65528 8 65528 ∧ s.me.poisoned (s.me.spadBase + 65528) 8 = false ∧ s.me.pool.wf = true := by
  refine ⟨by decide, by decide, ⟨?_, ?_⟩, ?_, ?_⟩ <;> decide +kernel
/-- Queue 3 is bound to a ring of two slots, queue 4 unbound at its limit, queue 5 empty. -/
def tokens : State := world { core0 with tok := ((core0.tok.set 3 ⟨true, .ctl, .ctl, true, 2, 2, 1, 1, 0, true, 1, 1, 0, true, 0⟩).set 4
  ⟨true, .ctl, .ctl, false, 0, 0, 63, 63, 0, false, 0, 0, 0, false, 0⟩).set 5 ⟨true, .ctl, .ctl, false, 0, 0, 62, 0, 0, false, 0, 0, 0, false, 0⟩ } .ctl
theorem witness_Tokens : givesTo (.tsig 5) = some 5 ∧ takesFrom (.twait 3) = some 3
    ∧ (tokens.me.tok.get 5).used = true ∧ (tokens.me.tok.get 5).prod = tokens.cur.seq ∧ (tokens.me.tok.get 5).wasRadvs = 0
    ∧ (tokens.me.tok.get 5).was < (tokens.me.tok.get 5).limit ∧ tokens.mayTsig = true
    ∧ (tokens.me.tok.get 4).limit ≤ (tokens.me.tok.get 4).was ∧ (tokens.me.tok.get 3).limit ≤ (tokens.me.tok.get 3).was
    ∧ 0 < (tokens.me.tok.get 3).was ∧ (tokens.me.tok.get 3).bound = true ∧ (tokens.me.tok.get 3).held = true
    ∧ 0 < (tokens.me.tok.get 4).was ∧ (tokens.me.tok.get 4).bound = false
    ∧ (tokens.me.tok.get 5).was = 0 ∧ (tokens.me.tok.get 5).cons = tokens.cur.seq ∧ (tokens.me.tok.get 6).used = false := by decide +kernel
theorem witness_QueuesOfTheControlStream : (s0.me.guards.get 3).length < 8
    ∧ 8 ≤ ((world { core0 with guards := core0.guards.set 3 (List.replicate 8 true) } .ctl).me.guards.get 3).length
    ∧ s0.me.fq.length < 16 ∧ 16 ≤ (world { core0 with fq := List.replicate 16 0 } .ctl).me.fq.length
    ∧ (s0.me.seq .cmp).stopped = false := by decide +kernel
theorem witness_QueuesOfTheControlStream_full :
    let s := world { core0.onSeq .cmp (fun q => { q with stopped := true }) with fq := List.replicate 16 0 } .ctl
    16 ≤ s.me.fq.length ∧ (s.me.seq .cmp).stopped = true
      ∧ ∀ m ∈ (s.me.engine .matrix).cmds, isTile m.instr = true → m.started = true := by decide +kernel
theorem witness_Allocation : s0.Runs 1 task1 ∧ s0.me.allocS + s0.me.request 0 1 ≤ s0.me.limitS task1
    ∧ s0.me.allocV + s0.me.request 0 1 ≤ s0.me.limitV task1 ∧ s0.me.limitS task1 < s0.me.allocS + s0.me.request 0 2
    ∧ s0.me.limitV task1 < s0.me.allocV + s0.me.request 0 2 := ⟨s0_runs, by decide⟩
/-- The three refusals: a pinned task, a task of depth 16, and one without an axis to halve. -/
theorem witness_Allocation_refused : (let s := { s0 with tasks := [(1, { task1 with pinned := true })] }
      s.Runs 1 { task1 with pinned := true } ∧ s.me.limitS task1 < s.me.allocS + s.me.request 0 2)
    ∧ (let t := { task1 with record := { task1.record with depth := 16 } }
      ({ s0 with tasks := [(1, t)] } : State).Runs 1 t ∧ t.pinned = false ∧ t.record.depth = 16)
    ∧ task1.pinned = false ∧ task1.record.depth ≠ 16 ∧ splitAxis task1.record [0, 1, 2] [] = none := by
  refine ⟨⟨⟨?_, ?_⟩, ?_⟩, ⟨⟨?_, ?_⟩, ?_, ?_⟩, ?_, ?_, ?_⟩ <;> decide +kernel
/-- The event flag set and clear, an unpinned and a pinned task, a parked task of the same context. -/
theorem witness_Events : ({ s0 with tasks := [(1, { task1 with event := true })] } : State).Runs 1 { task1 with event := true }
    ∧ s0.Runs 1 task1 ∧ task1.event = false ∧ task1.pinned = false := ⟨⟨by decide, by decide⟩, s0_runs, by decide, by decide⟩
def parked1 : Task := { task1 with standing := .parked 1 0 }
theorem witness_Events_pinned : let s : State := { s0 with tasks := [(1, { task1 with pinned := true }), (2, parked1)]
                                                           contexts := [(1, { ctx1 with state := 3 })] }
    s.Runs 1 { task1 with pinned := true } ∧ risingFrom 0 s.tasks = true ∧ mget 2 s.tasks = some parked1
      ∧ ((world { core0 with x := core0.x.set 1 1 } .ctl).me.xr 1).toNat % 2 ^ 16 ≠ 0
      ∧ mget 1 s.contexts = some { ctx1 with state := 3 } ∧ ctx1.fault = false ∧ ctx1.world = false := by
  refine ⟨⟨?_, ?_⟩, ?_, ?_, ?_, ?_, ?_, ?_⟩ <;> decide +kernel
/-- The record of a one-axis domain of four points, written at scratchpad offset 0, with one more bit set. -/
def record1 : Nat := 2 ^ 50 + 4 * 2 ^ 224 + 2 ^ 192 * 2 ^ 192
def spawner (more : Nat) : State := world { core0 with pool := wrNat [] 65536 128 (record1 + more) } .ctl
theorem witness_SpawnAndEnd : (spawner 0).Runs 1 task1 ∧ (spawner 0).cur.seq = .ctl
    ∧ 0 = ((spawner 0).me.xr 1).toNat / 128 * 128 ∧ 0 + 128 ≤ (spawner 0).me.spadSize ∧ 1 < (spawner 0).nextTask
    ∧ recordBit ((spawner 0).me.spadRd 0 128) ((spawner 0).me.spadRd 0 128) = none
    ∧ recordBit ((spawner (2 ^ 58)).me.spadRd 0 128) ((spawner (2 ^ 58)).me.spadRd 0 128) = some 58 := by
  refine ⟨⟨?_, ?_⟩, ?_⟩ <;> decide +kernel
theorem witness_SpawnAndEnd_domains : s0.Runs 1 task1 ∧ task1.phased = false ∧ s0.debugOn (dieOf s0.cur.core) s0.myCtxN = false
    ∧ (let t := { task1 with phased := true }
       ({ s0 with tasks := [(1, t)] } : State).Runs 1 t ∧ t.phased = true) :=
  ⟨s0_runs, by decide, by decide, ⟨by decide, by decide⟩, by decide⟩
/-- DBGBM names a bitmap whose bit of context 1 is 1. -/
def debugged (s : State) : State := { s.onDie 0 fun x => { x with dbgbm := 0x40000 } with mem := wrNat s.mem (t1 0x40000) 1 2 }
theorem witness_SpawnAndEnd_debug : (debugged s0).debugOn (dieOf (debugged s0).cur.core) (debugged s0).myCtxN = true
    ∧ ∀ p ∈ (debugged s0).me.pending, p.interlocked = true := by decide +kernel

def isOk : Req → Bool
  | .ok _ _ _ _ => true
  | _ => false
/-- A word at the last four bytes of the buffer that passes every check. -/
def ask1 : Ask := ⟨1, 4092, 4, .read, 0⟩
theorem s0_ask : s0.ask task1 ask1 = .ok ((List.range 4).map fun j => leaf1.keyOf (4092 + j)) 1 0 [leaf1] :=
  s0_check (by decide) rfl rfl rfl rfl (by decide) (by decide) (by decide) (by decide) (by decide) (by decide) (by decide)
theorem witness_RequestChecks : s0.myTask = some task1 ∧ mget task1.record.ctx s0.contexts = some ctx1
    ∧ askOf (world { core0 with x := core0.x.set 1 4092 } .ctl).me (.ldW 5 1 1 0) = some ask1
    ∧ s0.ask task1 ask1 = .ok ((List.range 4).map fun j => leaf1.keyOf (4092 + j)) 1 0 [leaf1] :=
  ⟨by decide, by decide, rfl, s0_ask⟩
/-- Each of the first five checks fails alone: no entry, beyond the end, no right, another owner, no lease. -/
theorem witness_RequestChecks_faults : let b := s0.buffer ctx1 1
    let r (w : Nat) : Buffer := ({ s0 with mem := wrNat s0.mem (t1 0x8020) 32 w } : State).buffer ctx1 1
    ctx1.btlen ≤ 2 ∧ (s0.buffer ctx1 0).len = 0 ∧ ¬ (ctx1.btlen ≤ 1 ∨ b.len = 0 ∨ b.reserved = true ∨ 4 ≤ b.ilv ∨ 2 ≤ b.integ)
    ∧ (b.len : Int) < 4093 + 4 ∧ ¬ (b.len : Int) < 4092 + 4 ∧ (r (4096 * 2 ^ 64)).rd = false
    ∧ (r (4096 * 2 ^ 64 + 7 * 2 ^ 112 + 9 * 2 ^ 128)).owner = 9 ∧ task1.record.ctx = 1 ∧ b.owner = 0
    ∧ leased task1.grants 1 4092 4 = true ∧ leased [] 1 4092 4 = false := by decide +kernel
/-- A page in motion makes a request wait, and a page without a Chart entry makes it fail. -/
theorem witness_RequestChecks_pages : (∃ l, ({ s0 with mem := memOf (leafAt 0x10 + 2 ^ 25) } : State).walk ctx1 0 = .ok l
      ∧ l.mig = true) ∧ ({ s0 with mem := memOf 0 } : State).ask task1 ask1
        = .bad 0x25 (1 + 4092 * 2 ^ 20) (0x400 * 2 ^ 16) := ⟨⟨_, rfl, by decide⟩, rfl⟩

theorem witness_LoadsAndStores : (loadOf (.ldW 5 1 1 (-1))) = some (4, 1, 1, -4, 5) ∧ storeOf (.stD 5 1 1 0) = some (8, 1, 1, 0, 5)
    ∧ askOf s0.me (.ldW 5 1 1 (-1)) = some ⟨1, 4, 4, .read, 0⟩ ∧ askOf s0.me (.stD 5 1 1 0) = some ⟨1, 8, 8, .write, 1⟩
    ∧ s0.ask task1 ⟨1, 4, 4, .read, 0⟩ = .ok ((List.range 4).map fun j => leaf1.keyOf (4 + j)) 1 0 [leaf1]
    ∧ s0.ask task1 ⟨1, 8, 8, .write, 1⟩ = .ok ((List.range 8).map fun j => leaf1.keyOf (8 + j)) 1 0 [leaf1] :=
  ⟨rfl, rfl, rfl, rfl, s0_check (by decide) rfl rfl rfl rfl (by decide) (by decide) (by decide) (by decide) (by decide) (by decide) (by decide),
    s0_check (by decide) rfl rfl rfl rfl (by decide) (by decide) (by decide) (by decide) (by decide) (by decide) (by decide)⟩
theorem witness_LoadsAndStores_sound : s0.Sound task1 [leaf1] ((List.range 4).map fun j => leaf1.keyOf (4 + j)) ∧ s0.mem.wf = true
    ∧ ((List.range 8).map fun j => leaf1.keyOf (8 + j)).any isAperture = false
    ∧ ((List.range 8).map fun j => leaf1.keyOf (8 + j)).Nodup
    ∧ (task1.store ((((List.range 8).map fun j => leaf1.keyOf (8 + j)).map (tagKey [leaf1])).zip
      (leBytes 8 (s0.me.xr 5).toNat))).footLines.length ≤ task1.record.awr := by
  unfold State.Sound State.Clean
  decide +kernel
/-- The task's own store of a byte, and a byte whose line no level of its path holds. -/
theorem witness_LoadsAndStores_bytes : let k := tagKey [leaf1] (t1 0x10004)
    bufferByte (task1.store [(k, 7)]).epochs k = some 7 ∧ bufferByte task1.epochs k = none
    ∧ levelByte [⟨[(k, 3)], []⟩, Copies.none] k = some 3 ∧ (∀ e ∈ s0.snaps, e.key ≠ k)
    ∧ (∀ m ∈ s0.ownLevels s0.cur.core task1 ++ s0.outerLevels s0.cur.core (t1 0x10004),
      m.holds (tagLine [leaf1] (t1 0x10004 / 64)) = false)
    ∧ ∀ l ∈ [leaf1], l.head ∉ s0.moved := by decide +kernel
/-- An AADD.d.ar of x5 at offset 8, with no older store command. -/
theorem witness_Atomics : atomOf (.aaddD ⟨5, 1, 1, .ar, .sys⟩) = some (0, 8, ⟨5, 1, 1, .ar, .sys⟩)
    ∧ askOf s0.me (.aaddD ⟨5, 1, 1, .ar, .sys⟩) = some ⟨1, 8, 8, .atomic, 1⟩
    ∧ s0.ask task1 ⟨1, 8, 8, .atomic, 1⟩ = .ok ((List.range 8).map fun j => leaf1.keyOf (8 + j)) 1 0 [leaf1]
    ∧ (List.range 8).map (fun j => leaf1.keyOf (8 + j)) = keysFrom (t1 0x10008) 8 ∧ s0.Runs 1 task1 ∧ s0.Issuing :=
  ⟨rfl, rfl, s0_check (by decide) rfl rfl rfl rfl (by decide) (by decide) (by decide) (by decide) (by decide) (by decide) (by decide), by decide, s0_runs, rfl⟩
theorem s0_pathEmpty : s0.PathEmpty s0.cur.core := by unfold State.PathEmpty; decide +kernel
theorem s0_pathClean : s0.PathClean task1 := ⟨by decide, by decide, s0_pathEmpty⟩
theorem s0_clean : s0.Clean := by unfold State.Clean; decide
theorem witness_Atomics_clean : isAperture (t1 0x10008) = false ∧ s0.Sound task1 [leaf1] (keysFrom (t1 0x10008) 8) ∧ s0.PathClean task1
    ∧ s0.Unhidden [leaf1] (keysFrom (t1 0x10008) 8)
    ∧ (keysFrom (t1 0x10008) 8).map (tagKey [leaf1]) = keysFrom (tagKey [leaf1] (t1 0x10008)) 8
    ∧ s0.storesBefore s0.cycle = false ∧ s0.cur.seq = .ctl ∧ s0.mem.wf = true
    ∧ (∀ j, j < 8 → OffLeaves [leaf1] (t1 0x10008 + j)) := by
  refine ⟨by decide, ⟨s0_clean, by decide +kernel⟩, s0_pathClean, ?_, by decide +kernel, by decide, by decide, by decide, ?_⟩
  · unfold State.Unhidden; decide +kernel
  intro j _ l hl
  cases List.mem_singleton.mp hl
  right
  show t1 0x4000 + 16 ≤ t1 0x10008 + j
  simp only [t1]; omega
/-- An older store command of the task makes an atomic with release wait. -/
def cmd (i : Instr) (q : Seq) (word : Nat) (hs : List (HReg × Handle × Int)) (vl : Nat) : Cmd :=
  ⟨i, word, 0, 1, q, 0, 0, hs, vl, [], [], 0, none, none, none, true, false, 0, 0, [], [], [], [], [], 0, [], [],
    false, none⟩
def storing : State := { world (core0.onEngine .store fun e => { e with cmds := [cmd (.fill xf) .st 0 [] 1] }) .ctl with cycle := 5 }
theorem witness_Atomics_waits : storing.storesBefore storing.cycle = true := by decide +kernel
theorem witness_Atomics_stops : (s0.me.h.get 2).spc = true
    ∧ ({ s0 with poisoned := [t1 0x10008 / 64] } : State).homeAt [leaf1] (keysFrom (t1 0x10008) 8) = some 0x10000
    ∧ s0.homeAt [leaf1] (keysFrom (t1 0x10008) 8) = none := by decide +kernel
theorem witness_Fences : s0.Runs 1 task1 ∧ s0.Issuing ∧ s0.cur.seq = .ctl ∧ task1.pinned = false
    ∧ s0.storesBefore s0.cycle = false ∧ (s0.me.h.get 2).spc = true ∧ (s0.me.h.get 1).spc = false
    ∧ (task1.store [(0, 1)]).epochs = [] ++ [⟨none, [(0, 1)], [], []⟩] :=
  ⟨s0_runs, rfl, by decide, by decide, by decide, by decide, by decide, by decide⟩
/-- A pinned task with one open epoch, whose bytes have a free way home. -/
def cells1 : Cells := [(t1 0x10000, 7), (t1 0x10001, 0)]
def taskE : Task := { task1 with epochs := [⟨none, cells1, [], []⟩] }
def taskP : Task := { taskE with pinned := true }
theorem freeWay (ts : List (Nat × Task)) : ({ s0 with tasks := ts } : State).FreeWay s0.cur.core cells1 := by
  refine ⟨s0_clean, s0_pathEmpty, ?_, ?_, by decide, show s0.mem.wf = true by decide⟩
  · intro x _; rfl
  · unfold OneTag; decide +kernel
theorem witness_Fences_pinned : let s : State := { s0 with tasks := [(1, taskP)] }
    s.Runs 1 taskP ∧ s.Issuing ∧ s.cur.seq = .ctl ∧ taskP.pinned = true ∧ taskP.epochs = [⟨none, cells1, [], []⟩]
      ∧ s.storesBefore s.cycle = false ∧ s.me.dirty = Copies.none ∧ s.policy = [] ∧ s.FreeWay s.cur.core cells1
      ∧ 3 ≤ Scope.pkg.code ∧ Scope.cl.code = 1 :=
  ⟨⟨by decide, by decide⟩, rfl, by decide, by decide, by decide, by decide +kernel, by decide, by decide, freeWay _, by decide,
    by decide⟩
/-- A range of x1 = 8 bytes, and one of register 0, which reaches to the end of the buffer. -/
theorem witness_Fences_range : (8 : Nat) = (if s0.me.xr 1 = 0 then (s0.buffer ctx1 (s0.me.h.get 1).buf.toNat).len
        - (s0.me.h.get 1).off.toNat else (s0.me.xr 1).toNat)
    ∧ (4096 : Nat) = (if s0.me.xr 0 = 0 then (s0.buffer ctx1 (s0.me.h.get 1).buf.toNat).len - (s0.me.h.get 1).off.toNat
        else (s0.me.xr 0).toNat)
    ∧ okIs (s0.checkEntry ctx1 task1.record.ctx (s0.me.h.get 1).buf.toNat (s0.me.h.get 1).off.toNat 4096 none)
        (s0.buffer ctx1 1) = true := by decide +kernel
/-- A task with one open epoch, and the same task in a gang's team whose cluster level is enabled, with another member. -/
theorem witness_CommitAndPhases : let s : State := { s0 with tasks := [(1, taskE)] }
    s.Runs 1 taskE ∧ s.Issuing ∧ s.cur.seq = .ctl ∧ s.storesBefore s.cycle = false ∧ taskE.epochs = [⟨none, cells1, [], []⟩]
      ∧ taskE.held = [] ∧ s.FreeWay s.cur.core cells1 ∧ s0.PathClean task1 :=
  ⟨⟨by decide, by decide⟩, rfl, by decide, by decide +kernel, by decide, by decide, freeWay _, s0_pathClean⟩
def ganged : Task := { task1 with record := { task1.record with gang := true }, dmr := BitVec.ofNat 64 (1 + 3 * 2 ^ 8) }
theorem witness_CommitAndPhases_domains : task1.standing = .running s0.cur.core ∧ (domainOf .cl task1.dmr).isNone = true
    ∧ (domainOf .cl ganged.dmr).isSome = true
    ∧ ({ s0 with teams := [(1, { Team.blank 1 with gang := true })] } : State).gangTeam ganged.record = true
    ∧ s0.gangTeam task1.record = false ∧ s0.PathClean ganged
    ∧ ganged.standing = .running s0.cur.core ∧ sameDomain .cl ganged { ganged with standing := .running 1 } = true
    ∧ ({ ganged with standing := .running 1 } : Task).arrived = none
    ∧ risingFrom 0 ({ s0 with tasks := [(1, ganged), (2, { ganged with standing := .running 1 })] } : State).tasks = true := by
  unfold State.PathClean State.PathEmpty
  decide +kernel
/-- An EXPECT that fills PEND to the last value of its field, one that goes beyond, and a flip. -/
theorem witness_BarrierObjects : barMoves 0 (.expect 8388607) = some (8388607, true, 0, 8388607)
    ∧ BarInRange (.expect 8388607) 8388607 0 ∧ ¬ BarInRange (.expect 8388608) 8388608 0
    ∧ barMoves (barUpdate 0 (.expect 16)).1 (.complete 16) = some (0, true, 0, 16)
    ∧ barTgt (barUpdate 0 (.expect 16)).1 ≤ 0 ∧ barMoves (barUpdate 0 (.expect 16)).1 (.complete 17) = some (-1, true, 0, 17)
    ∧ barMoves 0 (.complete 3) = some (-3, false, 0, 3) ∧ 0 < 2 ^ 16 ∧ 0 < 8 := by
  refine ⟨by decide, ⟨by decide, by decide, by decide, by rintro n ⟨⟩; decide⟩, ?_, by decide, by decide, by decide, by decide,
    by decide, by decide⟩
  rintro ⟨_, h, _⟩
  exact absurd h (by decide)
/-- Slot 4 names an object of the scratchpad at offset 64, slot 5 one of memory; slot 6 is unbound. -/
def barred (w : Nat) : State := world { core0 with
  slots := (core0.slots.set 4 ⟨true, true, 64, false⟩).set 5 ⟨true, false, 4080, false⟩
  pool := wrNat [] (65536 + 64) 16 w } .ctl
theorem witness_BarrierObjects_slots : barOpOf (barred 0).me (.bexpect 4 1) = some (4, .expect 8)
    ∧ barOpOf (barred 0).me (.binit 4 1 .core) = some (4, .init 8 0) ∧ (barred 0).Runs 1 task1 ∧ (barred 0).me.faultAt = none
    ∧ ((barred 0).me.slots.get 4).bound = true ∧ ((barred 0).me.slots.get 4).spad = true ∧ (barred 0).me.pool.wf = true
    ∧ ((barred 0).me.slots.get 5).bound = true ∧ ((barred 0).me.slots.get 5).spad = false
    ∧ ((barred 0).me.slots.get 6).bound = false ∧ task1.pinned = false ∧ (barred 0).flaws = [] := by
  refine ⟨by decide, by decide, ⟨by decide, by decide⟩, ?_⟩
  decide +kernel
theorem witness_BarrierObjects_scope : (.binit 4 1 .cl : Instr) ≠ .binit 4 1 .core := by decide
/-- PH = 1, which differs from slot 4's bit, and PH = 0, which equals it. -/
theorem witness_BarrierWaits : bitAt ((barred (2 ^ 25)).me.spadRd ((barred (2 ^ 25)).me.slots.get 4).addr 16) 25
      ≠ ((barred (2 ^ 25)).me.slots.get 4).phase
    ∧ bitAt ((barred 0).me.spadRd ((barred 0).me.slots.get 4).addr 16) 25 = ((barred 0).me.slots.get 4).phase
    ∧ barSpare ((barred 0).slotRef 4) ((barred 0).barRead ((barred 0).slotRef 4)) = none
    ∧ (markBar 0 ((barred 0).slotRef 4) false (barred 0)).barRead ((barred 0).slotRef 4) = (barred 0).barRead ((barred 0).slotRef 4)
    ∧ (barred 0).flaws = [] ∧ (barred 0).me.pool.wf = true ∧ (barred 0).cur.seq = .ctl ∧ (s0.me.h.get 2).spc = true := by
  decide +kernel
theorem witness_BarrierWaits_bslot :
    s0.me.SpadAccess (((s0.me.h.get 2).off.toNat + (s0.me.xr 1).toNat : Nat) / 16 * 16 : Nat) 16 0 := by
  refine ⟨?_, ?_⟩ <;> decide +kernel
/-- Slot 5's object in memory, with PH as the slot's bit, and the same object with a reserved bit set. -/
theorem witness_BarrierWaits_memory : (let r := (barred 0).slotRef 5
      let s' := markBar (barred 0).cur.core r false (barred 0)
      s'.barKey r = some (t1 0x10FF0) ∧ (barred 0).barLink (barred 0).cur.core r = none
        ∧ barSpare r ((barred 0).barRead r) = none ∧ s'.barRead r = (barred 0).barRead r
        ∧ bitAt ((barred 0).barRead r) 25 = ((barred 0).me.slots.get 5).phase ∧ isAperture (t1 0x10FF0) = false
        ∧ t1 0x10FF0 + 16 ≤ 2 ^ 54 ∧ ∀ j ∈ s'.barKeys r, (barred 0).hidden (j / 64) = none)
    ∧ (barred 0).Clean ∧ (barred 0).mem.wf = true
    ∧ (let s := { barred 0 with mem := wrByte (barred 0).mem (t1 0x10FF3) 4 }
       s.barLink s.cur.core (s.slotRef 5) = none ∧ barSpare (s.slotRef 5) (s.barRead (s.slotRef 5)) = some 26) := by
  unfold State.Clean
  decide +kernel
/-- Slot 5's object lies on port 1 of the CXL links, which is down. -/
def farBar : State := { barred 0 with mem := memOf (leafAt 1 + 2 ^ 5), cxlDown := [1] }
theorem witness_BarrierWaits_link : ((farBar.barLink farBar.cur.core (farBar.slotRef 5)).isSome = true) := by decide +kernel

/-- A PARK with reason 3, one with reason 4 and one with bit 36 set; an exposed write in flight. -/
def parking (w : Nat) (ps : List Pending) : State := world { core0 with x := core0.x.set 1 (BitVec.ofNat 64 w), pending := ps } .ctl
theorem witness_Leaving : (parking (3 * 2 ^ 32) []).Runs 1 task1 ∧ mget task1.record.ctx s0.contexts = some ctx1
    ∧ (parking (3 * 2 ^ 32) []).Issuing ∧ 3 < fld ((parking (4 * 2 ^ 32) []).me.xr 1).toNat 32 4
    ∧ fld ((parking 0 []).me.xr 1).toNat 32 4 = 0
    ∧ fld ((parking (3 * 2 ^ 32) []).me.xr 1).toNat 32 4 = 3 ∧ ((parking (3 * 2 ^ 32) []).me.xr 1).toNat < 2 ^ 36
    ∧ 2 ^ 36 ≤ ((parking (2 ^ 36 + 3 * 2 ^ 32) []).me.xr 1).toNat ∧ ctx1.wpend = false ∧ ctx1.world = false
    ∧ ¬ ∀ p ∈ (parking 0 [⟨.x 3 0, 1, false, false⟩]).me.pending, p.interlocked = true := by
  refine ⟨⟨by decide, by decide⟩, by decide, rfl, ?_⟩
  decide +kernel
/-- A PARK in a context with WPEND set, and one whose task still has a store command in flight. -/
theorem witness_Leaving_pending : ({ ctx1 with wpend := true } : Context).wpend = true ∧ (parking (3 * 2 ^ 32) []).cur.seq = .ctl
    ∧ (parking (3 * 2 ^ 32) []).storesBefore (parking (3 * 2 ^ 32) []).cycle = false ∧ (parking (3 * 2 ^ 32) []).PathClean task1
    ∧ storing.storesBefore storing.cycle = true := by
  unfold State.PathClean State.PathEmpty
  decide +kernel
/-- A secure task that names the queued task 2, whose record resumes a run at block 16. -/
def secure : State := { parking (1 + 0x10 * 2 ^ 16) [] with
  contexts := [(1, { ctx1 with world := true })]
  tasks := [(1, task1), (2, { task1 with standing := .queued, record := { task1.record with resume := true, rimg := 4096 * 16 } })] }
theorem witness_Leaving_csw : let w := (secure.me.xr 1).toNat
    w < 2 ^ 48 ∧ w % 2 ^ 16 ≠ 0 ∧ ((mget (w % 2 ^ 16) secure.contexts).map (·.state)).getD 0 ≠ 0
    ∧ secure.savedTask (w % 2 ^ 16) (w / 2 ^ 16) = some 2 ∧ (2 : Nat) ≠ 1 ∧ 2 ∈ secure.tasks.map (·.1)
    ∧ secure.savedTask 1 5 = none ∧ (mget 2 secure.tasks).map secure.grantable = some true
    ∧ (mget 2 secure.tasks).map secure.cowPages = some []
    ∧ (mget 2 { secure with mem := memOf (leafAt 0x10 + 2 ^ 25) }.tasks).map
      ({ secure with mem := memOf (leafAt 0x10 + 2 ^ 25) } : State).grantable = some false := by decide +kernel
/-- A partition of one granule each, an illegal one, and one that a running command keeps waiting. -/
theorem witness_Repartition : partOk (2 + 4 * 2 ^ 8 + 6 * 2 ^ 16) = true ∧ partOk (2 + 1 * 2 ^ 8) = false
    ∧ s0.me.touchesChange 2 4 6 = false ∧ s0.me.pool.wf = true ∧ s0.me.bndc < 6 ∧ s0.me.missing = false
    ∧ (∀ e ∈ task1.epochs, e.cells = []) ∧ s0.policy = []
    ∧ (∃ e ∈ taskE.epochs, e.cells ≠ [])
    ∧ (world { core0 with pending := [⟨.x 3 0, 3, true, false⟩] } .ctl).me.missing = true
    ∧ (core0.onEngine .load fun e => { e with cmds := [{ cmd (.fill xf) .ld 0 [] 1 with ranges := [⟨65536, 65600, true⟩] }] }).touchesChange
      2 4 6 = true := by decide +kernel
/-- Object 7 has version 3 with one binding; entry 1 is no pool entry, and the second state makes it one. -/
def pooled (entry : Nat) : State := { world { core0 with x := core0.x.set 2 7 |>.set 3 1 } .ctl with
  mem := wrNat (memOf (leafAt 0x10)) (t1 0x8020) 32 (4096 * 2 ^ 64 + 7 * 2 ^ 112 + 2 ^ 148 + entry)
  objects := [(7, ⟨3, none, [(3, (1, []))], 0⟩)], tasks := [(1, { task1 with grants := [] })] }
theorem witness_PoolObjectsAndChart : (let s := pooled 0
    s.Runs 1 { task1 with grants := [] } ∧ mget 1 s.contexts = some ctx1 ∧ s.cur.seq = .ctl ∧ 1 < ctx1.btlen ∧ ctx1.btlen ≤ 7
      ∧ (s.me.xr 3).toNat % 2 ^ 20 = 1 ∧ (s.me.xr 2).toNat % 2 ^ 32 = 7 ∧ s.entryLeased 1 1 = false
      ∧ (s.buffer ctx1 1).pool = false ∧ mget 7 s.objects = some ⟨3, none, [(3, (1, []))], 0⟩ ∧ mget 8 s.objects = none)
    ∧ let s := pooled (2 ^ 160 + 3 * 2 ^ 192 + 7 * 2 ^ 224)
      (s.buffer ctx1 1).pool = true ∧ (s.buffer ctx1 1).pwr = false ∧ (s.buffer ctx1 1).ver = 3 ∧ (s.buffer ctx1 1).obj = 7
        ∧ s.entryLeased 1 1 = false ∧ s.Issuing := by
  refine ⟨⟨⟨by decide, by decide⟩, ?_⟩, by decide, by decide, by decide, by decide, by decide, rfl⟩
  decide +kernel
theorem witness_PoolObjectsAndChart_walk : (s0.me.h.get 1).spc = false ∧ (s0.me.h.get 2).spc = true
    ∧ 8 = (s0.me.h.get 1).off.toNat + (s0.me.xr 1).toNat
    ∧ okIs (s0.checkEntry ctx1 task1.record.ctx (s0.me.h.get 1).buf.toNat 8 1 none) (s0.buffer ctx1 1) = true
    ∧ okIs (s0.walk ctx1 8) leaf1 = true ∧ leaf1.bits < 2 ^ 128
    ∧ okIs (({ s0 with mem := memOf 0 } : State).walk ctx1 8) leaf1 = false
    ∧ s0.chartPoison 8 (s0.walk ctx1 8) = none
    ∧ (let s : State := { s0 with poisoned := [t1 0x4000 / 64] }; s.chartPoison 8 (s.walk ctx1 8) = some 0x4000)
    ∧ (∀ d, s0.ringPath (dieOf s0.cur.core) d = true)
    ∧ ∃ d, ({ s0 with uciDown := [0, 3] } : State).ringPath (dieOf s0.cur.core) d = false := by decide +kernel
/-- Entry 1 rewritten, and the page's leaf mapped at frame 5. -/
theorem witness_PoolObjectsAndChart_entry : 3 < 2 ^ 32 ∧ 7 < 2 ^ 32 ∧ (∀ v ∈ some 0, v < 2 ^ 56) ∧ s0.mem.wf = true
    ∧ (s0.buffer ctx1 1).reserved = false ∧ okIs (s0.walk ctx1 (0 + 4096 * 0)) leaf1 = true
    ∧ okIs (s0.walk ctx1 (0 + 4096 * 9)) leaf1 = false := by decide +kernel
/-- Entry 1 is a writer's binding of version 4 of object 7. -/
theorem witness_PoolObjectsAndChart_writer : let s := { pooled (2 ^ 160 + 2 ^ 161 + 4 * 2 ^ 192 + 7 * 2 ^ 224) with
      objects := [(7, ⟨3, some 4, [(3, (0, [])), (4, (1, []))], 0⟩)] }
    (s.buffer ctx1 1).pool = true ∧ (s.buffer ctx1 1).pwr = true ∧ (s.buffer ctx1 1).ver = 4 ∧ (s.buffer ctx1 1).obj = 7
      ∧ s.poolCut (dieOf s.cur.core) (s.buffer ctx1 1) = none ∧ s.storesBefore s.cycle = false
      ∧ s.PathClean { task1 with grants := [] } ∧ risingFrom 0 [(3, (0, ([] : List (Nat × Nat)))), (4, (1, []))] = true := by
  unfold State.PathClean State.PathEmpty
  decide +kernel
/-- A version whose page's frame lies on port 0, which is down. -/
theorem witness_PoolObjectsAndChart_cut : let s := { pooled (2 ^ 160 + 2 ^ 161 + 4 * 2 ^ 192 + 7 * 2 ^ 224) with
      objects := [(7, ⟨3, some 4, [(3, (0, [])), (4, (1, [(0, 2)]))], 0⟩)], cxlDown := [0] }
    (s.poolCut (dieOf s.cur.core) (s.buffer ctx1 1)).isSome = true := by decide +kernel
/-! The engines: a command in its queue, and the turn that performs it. -/

def doing (k : Core) (e : Engine) (m : Cmd) : State :=
  { world (k.onEngine e fun q => { q with cmds := [m] }) .ctl with
    cur := { Turn.blank with kind := .perform, eng := e, a := 1, num := 0, instr := m.instr, seq := feeder e } }
/-- A turn in which sequencer `q` issues instruction `i`. -/
def issues (k : Core) (q : Seq) (i : Instr) : State := { world k q with cur := { Turn.issueOf 0 q with instr := i } }
def full (k : Core) (e : Engine) : Core := k.onEngine e fun q => { q with cmds := List.replicate 16 (cmd .nop .ld 0 [] 1) }
theorem witness_CommandIssue : entersQueue (issues core0 .st (.copy xf)).cur.seq (.copy xf) = some (.store, 1)
    ∧ (issues core0 .st (.copy xf)).Issuing ∧ (issues core0 .st (.copy xf)).cur.instr = .copy xf
    ∧ ((issues core0 .st (.copy xf)).me.engine .store).cmds.length < 16
    ∧ 16 ≤ ((issues (full core0 .store) .st (.copy xf)).me.engine .store).cmds.length
    ∧ entersQueue (issues core0 .cmp (.mma mat0)).cur.seq (.mma mat0) = some (.matrix, 2)
    ∧ (issues core0 .ld (.bcopy xf)).Runs 1 task1 ∧ ((issues core0 .ld (.bcopy xf)).me.engine .load).cmds.length < 16
    ∧ ((issues core0 .ld (.bcopy xf)).me.seq .ld).delay = none
    ∧ 16 ≤ ((issues (full core0 .load) .ld (.bcopy xf)).me.engine .load).cmds.length := by
  refine ⟨rfl, rfl, rfl, by decide, by decide, rfl, ⟨by decide, by decide⟩, by decide, by decide, by decide⟩
/-- Queue 3 is bound and has a free slot, queue 4 is bound and has none, queue 5 is not bound. -/
def ring (n : Nat) : Token := ⟨true, .ld, .ctl, true, 2, 2, n, n, 0, true, 1, 1, 0, true, 0⟩
def ringed (k : Core) : Core := { k with tok := (core0.tok.set 3 (ring 0)).set 4 (ring 1) }
theorem witness_CommandIssue_radv : let s := issues (ringed core0) .ld (.radv none 3)
    s.Issuing ∧ s.cur.instr = .radv none 3 ∧ (s.me.tok.get 3).used = true ∧ (s.me.tok.get 3).bound = true
      ∧ (s.me.tok.get 3).prod = s.cur.seq ∧ (s.me.tok.get 3).was + (s.me.tok.get 3).wasRadvs + b2n (s.me.tok.get 3).wasHeld < (s.me.tok.get 3).depth
      ∧ (s.me.tok.get 4).depth ≤ (s.me.tok.get 4).was + (s.me.tok.get 4).wasRadvs + b2n (s.me.tok.get 4).wasHeld
      ∧ (s.me.tok.get 5).used = false ∧ (s.me.engine .load).cmds.length < 16
      ∧ 16 ≤ ((issues (ringed (full core0 .load)) .ld (.radv none 3)).me.engine .load).cmds.length := by
  refine ⟨rfl, rfl, ?_⟩
  decide +kernel

/-- The last element of the scratchpad, and one that begins at its end. -/
def opdSpad : Opd := ⟨2, hSpad, 0⟩
theorem witness_Operands : opdSpad.hd.spc = true ∧ s0.flaws = [] ∧ s0.me.spadHas (8 * 65532) 32 ∧ ¬ s0.me.spadHas (8 * 65536) 32
    ∧ ¬ s0.me.spadHas (-8) 32 := by
  unfold Core.spadHas
  decide +kernel
/-- A VADD of L and a stream of the scratchpad, performed; one whose stream leaves the region, and one of two entries at o15. -/
def vaddS : Vec2 := ⟨.f32, none, none, .file 1, .latch, .stream 2 0⟩
def vectored (w : Vec2) (vl : Nat) : State := doing core0 .vector (cmd (.vadd w) .cmp 0 [(2, hSpad, 0)] vl)
theorem performs_of {s : State} {e : Engine} {m : Cmd} (h : s.cur.kind = .perform ∧ s.cur.eng = e
    ∧ s.me.cmdOf e s.cur.a s.cur.num = some m ∧ mget m.task s.tasks = some task1
    ∧ s.me.under.find? (·.task == s.cur.a) = none) : s.Performs e m task1 :=
  ⟨h.1, h.2.1, h.2.2.1, h.2.2.2.1, h.2.2.2.2⟩
theorem witness_Operands_vector : (vectored vaddS 1).Performs .vector (cmd (.vadd vaddS) .cmp 0 [(2, hSpad, 0)] 1) task1
    ∧ (floatRule 1 (.vadd vaddS)).isSome = true
    ∧ fileBad (.file 15) 2 (vectored vaddS 2).me = some (0x09, 16, 16) ∧ opdSpad.reservedButFmt = none
    ∧ (∀ o ∈ [(Operand.latch, 32), (Operand.stream 2 0, 32)], o.2 ∈ [1, 4, 8, 16, 32, 64])
    ∧ (vectored vaddS 1).me.spadHas (streamAt (cmd (.vadd vaddS) .cmp 0 [(2, hSpad, 0)] 1) 2 0 32 0 63) 32 := by
  refine ⟨performs_of (by decide), by decide, by decide, by decide, by decide, ?_⟩
  unfold Core.spadHas
  decide +kernel
def stopsAt (o : Except (Option (Nat × Nat × Nat)) (List VSrc)) (f : Nat × Nat × Nat) : Bool :=
  match o with
  | .error (some g) => decide (g = f)
  | _ => false
theorem witness_Operands_stopped : stopsAt (vecLocate (vectored vaddS 1) (cmd (.vadd vaddS) .cmp 0
    [(2, { hSpad with off := 65408 }, 0)] 1) task1 1 [(.stream 2 0, 32)]) (0x09, 65536, 65536) = true := by decide +kernel
/-- A COPY of one element between two places of the scratchpad. -/
def copySS : Xfer := ⟨none, none, 2, 8, 2, 0, 1⟩
def mCopy : Cmd := cmd (.copy copySS) .st 0 [(2, hSpad, 0)] 1
def copying : State := doing core0 .store mCopy
def rCopy : MoveRule := (moveRule mCopy (.copy copySS)).getD ⟨opdSpad, opdSpad, [], [], fun x => x, false⟩
theorem witness_Transfers : copying.Performs copying.cur.eng mCopy task1 ∧ mCopy.instr = .copy copySS
    ∧ moveRule mCopy (.copy copySS) = some rCopy ∧ xferBad mCopy rCopy.dst rCopy.src rCopy.formats = none
    ∧ copying.me.pool.wf = true ∧ copying.mem.wf = true
    ∧ copying.Moves mCopy task1 rCopy [⟨[65536, 65537, 65538, 65539], 0⟩] [⟨[65568, 65569, 65570, 65571], 0⟩] [] [] :=
  ⟨performs_of (by decide), rfl, rfl, by decide, by decide, by decide,
    ⟨s0_clean, ⟨0, 0, by decide, by decide⟩, ⟨0, 0, by decide⟩, by decide, List.pairwise_singleton _ _⟩⟩
/-- A COPY of memory by the load engine, one of a reserved format, and the element of memory that it reads. -/
def copyMS : Xfer := ⟨none, none, 2, 0, 1, 0, 1⟩
def loading : State := doing core0 .load (cmd (.copy copyMS) .ld 0 [(1, hMem, 0), (2, hSpad, 0)] 1)
theorem locate_mem {s : State} {t : Task} {a : Acts} {mask : Nat} (hl : leased t.grants 1 0 4 = true) (hk : s.keys = s0.keys)
    (hu : s.uciDown = []) (hd : s.cur.core = 0) (hx : mget t.record.ctx s.contexts = some ctx1)
    (he : okIs (s.checkEntry ctx1 t.record.ctx 1 0 4 (some (a, false))) (s0.buffer ctx1 1) = true) (hm : mask < 8)
    (hw : okIs (s.walk ctx1 0) leaf1 = true) (hf : s.linkFail 0 (leaf1.keyOf 0) = none) :
    s.locate t ⟨1, hMem, 0⟩ 32 [0] a mask
      = .ok [⟨(List.range 4).map fun j => leaf1.keyOf (0 + j), 0⟩] 1 0 [leaf1] := by
  have h := s0_check (s := s) (t := t) (off := 0) (n := 4) (mask := mask) (a := a) (addr := 0) (by decide) hk hu hd hx he
    hl hm (by decide) (by decide) hw hf
  have h' : s.check (dieOf s.cur.core) t 1 (byteLo 0) (byteHi 0 32 - byteLo 0).toNat a mask false = _ := h
  show locateMem s (dieOf s.cur.core) t 1 32 a mask [0] = _
  simp only [locateMem, h']
  rfl
theorem witness_Transfers_memory : loading.locate task1 ⟨1, hMem, 0⟩ 32 [0] .read 2
      = .ok [⟨(List.range 4).map fun j => leaf1.keyOf (0 + j), 0⟩] 1 0 [leaf1]
    ∧ (xferBad (cmd (.copy copyMS) .ld 0 [(1, { hMem with fmt := 0 }, 0), (2, hSpad, 0)] 1) opdSpad ⟨1, { hMem with fmt := 0 }, 0⟩
        true).isSome = true :=
  ⟨locate_mem (by decide) rfl rfl rfl (by decide) (by decide) (by decide) (by decide) (by decide), by decide⟩
/-- A GATHER of one row of one element, whose index is element 0 of an N16 list. -/
def hOne : Handle := { hSpad with n0 := 1 }
def hIdx : Handle := { hSpad with fmt := 0x1A, n0 := 1 }
def rowW : Xfer := ⟨none, none, 2, 8, 2, 0, 1⟩
def mRow : Cmd := cmd (.gather rowW 3) .ld 0 [(2, hOne, 0), (3, hIdx, 0)] 1
def gathering : State := doing core0 .load mRow
theorem witness_Transfers_rows : gathering.Performs gathering.cur.eng mRow task1 ∧ mRow.instr = .gather rowW 3
    ∧ xferBad mRow (mRow.opd 2) (mRow.opd 2) true = none ∧ (mRow.opd 3).reserved = none ∧ Fmt.isIndex (mRow.opd 3).fmt = true
    ∧ Fmt.isIndex opdSpad.fmt = true ∧ Fmt.isIndex (Opd.fmt ⟨2, { hSpad with fmt := 0x1B }, 0⟩) = false
    ∧ gathering.locate task1 (mRow.opd 3) 16 (rowIndices mRow rowW 3 true) .read 2 = .ok [⟨[65536, 65537], 0⟩] 0 0 []
    ∧ gathering.me.pool.wf = true ∧ gathering.mem.wf = true
    ∧ gathering.Clean
    ∧ gathering.Moves mRow task1 (rowRule mRow rowW true fun _ => 0) [⟨[65536, 65537, 65538, 65539], 0⟩]
        [⟨[65568, 65569, 65570, 65571], 0⟩] [] [] :=
  ⟨performs_of (by decide), rfl, by decide, by decide, by decide, by decide, by decide, by decide, by decide, by decide,
    s0_clean, ⟨s0_clean, ⟨0, 0, by decide, by decide⟩, ⟨0, 0, by decide⟩, by decide, List.pairwise_singleton _ _⟩⟩

/-- A REDADD of one N32 element from the scratchpad into memory, by an unpinned and by a pinned task. -/
def redW : Xfer := ⟨none, none, 1, 0, 2, 0, 1⟩
def mRed : Cmd := cmd (.redadd redW) .st 0 [(1, hMem, 0), (2, hSpad, 0)] 1
def pinned1 : Task := { task1 with pinned := true }
def adding (t : Task) : State := { doing core0 .store mRed with tasks := [(1, t)] }
theorem witness_Reductions : (adding task1).Performs .store mRed task1 ∧ mRed.instr = .redadd redW ∧ mRed.barBad = none
    ∧ (mRed.opd 1).reserved = none ∧ (mRed.opd 2).reserved = none ∧ (mRed.opd 1).hd.spc = false ∧ (mRed.opd 2).hd.spc = true
    ∧ (mRed.opd 1).fmt = (mRed.opd 2).fmt ∧ Fmt.isRedadd (mRed.opd 1).fmt = true
    ∧ indices (countShape redW.cnt (mRed.opd 1)) = [(0, 0, 0)] ∧ (adding task1).me.spadHas 0 32
    ∧ (adding task1).locate task1 (mRed.opd 2) 32 [0] .read 2 = .ok [⟨[65536, 65537, 65538, 65539], 0⟩] 0 0 []
    ∧ (adding task1).locate task1 ⟨1, hMem, 0⟩ 32 [0] .redadd 3
      = .ok [⟨(List.range 4).map fun j => leaf1.keyOf (0 + j), 0⟩] 1 0 [leaf1] := by
  refine ⟨performs_of (by decide), rfl, by decide, by decide, by decide, by decide, by decide, by decide, by decide,
    by decide, ?_, by decide, locate_mem (by decide) rfl rfl rfl (by decide) (by decide) (by decide) (by decide) (by decide)⟩
  unfold Core.spadHas
  decide +kernel
theorem witness_Reductions_effect : let qs : List Place := [⟨keysFrom (t1 0x10000) 4, 0⟩]
    qs = [⟨(List.range 4).map fun j => leaf1.keyOf (0 + j), 0⟩]
    ∧ (adding task1).Clean ∧ redPoison (adding task1) task1 0 (mRed.opd 1) [leaf1] [0] qs = none ∧ (adding task1).mem.wf = true
    ∧ (∀ v ∈ (fetchElems 0 1 task1 (mRed.opd 2) 32 [] [⟨[65536, 65537, 65538, 65539], 0⟩] (adding task1)).1, v.2 = false)
    ∧ task1.pinned = false
    ∧ ({ task1 with held := [.redadd (keysFrom (tagKey [leaf1] (t1 0x10000)) 4) 0x19 0 0 .st 0 0 0 false] } : Task).footLines.length
      ≤ task1.record.awr
    ∧ pinned1.pinned = true ∧ (adding pinned1).PathClean pinned1 ∧ isAperture (t1 0x10000) = false
    ∧ (keysFrom (t1 0x10000) 4).map (tagKey [leaf1]) = keysFrom (tagKey [leaf1] (t1 0x10000)) 4
    ∧ (adding pinned1).Unhidden [leaf1] (keysFrom (t1 0x10000) 4)
    ∧ ∀ j, j < 4 → OffLeaves [leaf1] (t1 0x10000 + j) := by
  refine ⟨by decide, s0_clean, by decide +kernel, by decide, by decide, by decide, by decide +kernel, by decide,
    ⟨by decide, by decide, by unfold State.PathEmpty; decide +kernel⟩, by decide, by decide +kernel,
    by unfold State.Unhidden; decide +kernel, ?_⟩
  intro j _ l hl
  cases List.mem_singleton.mp hl
  right
  show t1 0x4000 + 16 ≤ t1 0x10000 + j
  simp only [t1]; omega

/-- A BCOPY of 64 bytes between two lines of the buffer, and an older store command that it waits for. -/
def h64 : Handle := { hMem with n0 := 16 }
def bulkW : Xfer := ⟨none, none, 3, 16, 3, 0, 0⟩
def mBulk : Cmd := { cmd (.bcopy bulkW) .ld 0 [(3, h64, 0)] 1 with issued := 3 }
def bulk : State := doing core0 .load mBulk
theorem witness_PrefetchBulkAndAdvance : bulk.Performs .load mBulk task1 ∧ mBulk.barBad = none ∧ (mBulk.opd 3).reserved = none
    ∧ (mBulk.opd 3).hd.spc = false ∧ (mBulk.opd 3).bit bulkW.soff.toInt 0 0 0 % 512 = 0
    ∧ (mBulk.opd 3).bit bulkW.doff.toInt 0 0 0 % 512 = 0 ∧ bulk.mem.wf = true
    ∧ (∀ e ∈ (bulk.me.engine .store).cmds, mBulk.issued ≤ e.issued)
    ∧ (∃ e ∈ ((doing (core0.onEngine .store fun q => { q with cmds := [mRed] }) .load mBulk).me.engine .store).cmds,
        e.issued < mBulk.issued)
    ∧ bulk.freeBte (dieOf bulk.cur.core) = some 0
    ∧ bulkLoc bulk task1 (mBulk.opd 3) 0 64 .read 5 = .ok ((List.range 64).map fun j => leaf1.keyOf (0 + j)) 1 0 [leaf1]
    ∧ bulkLoc bulk task1 (mBulk.opd 3) 64 64 .write 6 = .ok ((List.range 64).map fun j => leaf1.keyOf (64 + j)) 1 0 [leaf1] :=
  ⟨performs_of (by decide), by decide, by decide, by decide, by decide, by decide, by decide, by decide, by decide, by decide,
    s0_check (s := bulk) (t := task1) (off := 0) (n := 64) (addr := 0) (by decide) rfl rfl rfl rfl (by decide) (by decide)
      (by decide) (by decide) (by decide) (by decide) (by decide),
    s0_check (s := bulk) (t := task1) (off := 64) (n := 64) (addr := 64) (by decide) rfl rfl rfl rfl (by decide) (by decide)
      (by decide) (by decide) (by decide) (by decide) (by decide)⟩
/-- A page without a Chart entry: both runs fail, the source's first element first (R424). -/
theorem witness_PrefetchBulkAndAdvance_first : let s : State := { bulk with mem := memOf 0 }
    (match bulkLoc s task1 (mBulk.opd 3) 0 64 .read 5 with
      | .ok _ _ _ _ => false
      | _ => true) = true
    ∧ (match bulkFirst s task1 (mBulk.opd 3) (mBulk.opd 3) 0 64 64 with
      | some (.bad a i _) => a == 0x25 && i == 1
      | _ => false) = true := by decide +kernel
def bulkJob (till : Nat) : Bulk := ⟨1, 0, 0, keysFrom (t1 0x10000) 64, keysFrom (t1 0x10040) 64, none, 64, till, false, 1, 0, 0, 0⟩
def mVote : Cmd := cmd (.voteAny (some 2) none 3 4) .cmp 0 [] 1
def mRadv : Cmd := { cmd (.radv none 3) .ld 0 [] 1 with num := 0 }
def older : Cmd := { cmd (.copy copyMS) .ld 0 [] 1 with num := 65535 }
theorem witness_PrefetchBulkAndAdvance_radv : (doing core0 .load mRadv).Performs (doing core0 .load mRadv).cur.eng mRadv task1
    ∧ (doing core0 .load mRadv).me.task = some mRadv.task
    ∧ ((doing core0 .load mRadv).me.engine .load).cmds = mRadv :: []
    ∧ ((doing (core0.onEngine .load fun q => { q with cmds := [older] }) .vector mVote).me.engine .load).cmds = older :: []
    ∧ (older.task ≠ mRadv.task ∨ older.num ≠ mRadv.num) :=
  ⟨performs_of (by decide), by decide, by decide, by decide, by decide⟩
def allBtes : State := { s0 with bulks := (List.range 24).map fun i => (i, { bulkJob 0 with bte := i }) }
/-- Every BTE of die 0 is taken. -/
theorem witness_PrefetchBulkAndAdvance_btes : (∀ i < 24, ∃ p ∈ allBtes.bulks, mget p.1 allBtes.bulks = some p.2
      ∧ dieOf p.2.core = dieOf s0.cur.core ∧ p.2.bte = i) := by decide +kernel

/-- A VADD of L and a stream passes its checks; a VTOPK8 and a VCVT of file entries too. -/
def got {ε α : Type} (o : Except ε (List α)) : List α :=
  match o with
  | .ok r => r
  | .error _ => []
def isGot {ε α : Type} (o : Except ε (List α)) : Bool :=
  match o with
  | .ok _ => true
  | .error _ => false
theorem got_of {ε α : Type} {o : Except ε (List α)} (h : isGot o = true) : o = .ok (got o) := by
  cases o <;> simp_all [isGot, got]
def mAdd : Cmd := cmd (.vadd vaddS) .cmp 0 [(2, hSpad, 0)] 1
def rAdd : VecRule := .two vaddS 1 fun a b => rne .f32 (addNum .rne (decodeF .f32 a) (decodeF .f32 b))
theorem witness_VectorArithmetic : floatRule mAdd.vl (.vadd vaddS) = some rAdd ∧ (vectored vaddS 1).me.pool.wf = true
    ∧ (vectored vaddS 1).Fetches mAdd task1 rAdd 1 (got (vecLocate (vectored vaddS 1) mAdd task1 1 rAdd.srcs))
    ∧ (vectored vaddS 1).AtOnce rAdd.srcs 1 (got (vecLocate (vectored vaddS 1) mAdd task1 1 rAdd.srcs)) :=
  ⟨rfl, by decide, ⟨rfl, by decide, ⟨rfl, by decide, by decide⟩, got_of (by decide),
    s0_clean, Option.isNone_iff_eq_none.mp (by decide), by decide⟩, Or.inr ⟨rfl, by decide +kernel⟩⟩
/-- A VADD of two vectors with a stream of the scratchpad reads on; and one that takes its first or its second vector. -/
def mAdd2 : Cmd := { mAdd with vl := 2 }
def rAdd2 : VecRule := .two vaddS 2 fun a b => rne .f32 (addNum .rne (decodeF .f32 a) (decodeF .f32 b))
def adding2 : State := doing core0 .vector mAdd2
theorem witness_VectorArithmetic_readsOn : adding2.Performs .vector mAdd2 task1 ∧ floatRule mAdd2.vl (.vadd vaddS) = some rAdd2
    ∧ adding2.Fetches mAdd2 task1 rAdd2 2 (got (vecLocate adding2 mAdd2 task1 2 rAdd2.srcs))
    ∧ ¬ adding2.AtOnce rAdd2.srcs 2 (got (vecLocate adding2 mAdd2 task1 2 rAdd2.srcs)) :=
  ⟨performs_of (by decide), rfl, ⟨rfl, by decide, ⟨rfl, by decide, by decide⟩, got_of (by decide +kernel),
    s0_clean, Option.isNone_iff_eq_none.mp (by decide +kernel), by decide⟩, by unfold State.AtOnce; decide +kernel⟩
def mOn (rest : List Nat) : Cmd :=
  { mAdd2 with started := true, reads := 0 :: rest, got := [[noLanes, noLanes], [noLanes, noLanes]] }
theorem readsNext_of {rest : List Nat} (hr : rest.length < 2)
    (hs : ∀ i, i < 64 → core0.spadHas (streamAt mAdd2 2 0 32 (1 - rest.length) i) 32) :
    (doing core0 .vector (mOn rest)).ReadsNext (mOn rest) rAdd2.srcs 2 0 rest :=
  ⟨rfl, Nat.zero_le _, ⟨rfl, rfl, rfl, by simp [mOn]⟩, s0_clean, hr, by decide, fun o ho h off hsp i hi => by
    simp only [rAdd2, VecRule.two, vaddS, List.mem_cons, List.not_mem_nil, or_false] at ho
    obtain rfl | rfl := ho
    · exact absurd hsp.1 (by simp)
    · obtain ⟨hh, -⟩ := hsp
      cases hh
      exact hs i hi⟩
theorem witness_VectorArithmetic_takes : (doing core0 .vector (mOn [])).Performs .vector (mOn []) task1
    ∧ (doing core0 .vector (mOn [5])).Performs .vector (mOn [5]) task1 ∧ rAdd2.dst.isDest = true
    ∧ fileBad rAdd2.dst rAdd2.dn (doing core0 .vector (mOn [])).me = none
    ∧ (doing core0 .vector (mOn [])).me.pool.wf = true ∧ ([5] : List Nat) ≠ []
    ∧ (doing core0 .vector (mOn [])).ReadsNext (mOn []) rAdd2.srcs 2 0 []
    ∧ (doing core0 .vector (mOn [5])).ReadsNext (mOn [5]) rAdd2.srcs 2 0 [5] :=
  ⟨performs_of (by decide), performs_of (by decide), rfl, by decide, by decide, by decide,
    readsNext_of (by decide) (by unfold Core.spadHas; decide +kernel),
    readsNext_of (by decide) (by unfold Core.spadHas; decide +kernel)⟩
def v64 : Vec1 := ⟨.n32, some 1, none, .file 1, .main 0⟩
def mTop : Cmd := cmd (.vtopk8 v64) .cmp 0 [] 64
def ranking : State := doing core0 .vector mTop
theorem witness_VectorArithmetic_reductions : ranking.Performs .vector mTop task1 ∧ (redRule 64 (.vtopk8 v64)).isSome = true
    ∧ (64 ≤ 64) ∧ fileBad (.main 0) 64 ranking.me = none ∧ fileBad (.file 1) 1 ranking.me = none
    ∧ (shiftRule 1 none (.vcvt v64 .f32 .rne false)).isSome = true ∧ (bitsRule 1 (.vclz v64)).isSome = true :=
  ⟨performs_of (by decide), by decide, by decide, by decide, by decide, by decide, by decide⟩
theorem witness_VectorArithmetic_located : ranking.Fetches mTop task1 (.red v64 fun _ _ _ => 0) 64 [.held (.main 0) 32]
    ∧ ranking.AtOnce (VecRule.red v64 fun _ _ _ => 0).srcs 64 [.held (.main 0) 32] :=
  ⟨⟨rfl, by decide, ⟨rfl, by decide, by decide⟩, rfl, s0_clean, Option.isNone_iff_eq_none.mp (by decide), by decide⟩, Or.inl (by decide)⟩

/-- A VOTE of a sound predicate, and one of a poisoned predicate; a VCMP of L and an entry of the operand file. -/
theorem witness_Predicates : (doing core0 .vector mVote).Performs .vector mVote task1
    ∧ ¬ (predUnit 4 ∈ (doing core0 .vector mVote).me.poison ∨ ∃ p, some (2 : PReg) = some p ∧ predUnit p.val ∈ (doing core0 .vector mVote).me.poison)
    ∧ (doing core0 .vector mVote).me.task = some mVote.task
    ∧ predUnit 4 ∈ (doing { core0 with poison := [predUnit 4] } .vector mVote).me.poison :=
  ⟨performs_of (by decide), by rintro (h | ⟨p, _, h⟩) <;> exact absurd h List.not_mem_nil, by decide, by decide⟩
theorem witness_Predicates_compare : streamsOf [(Operand.latch, 32), (Operand.file 15, 32)] = []
    ∧ fileBad .latch 1 s0.me = none ∧ fileBad (.file 15) 1 s0.me = none
    ∧ vecLocate s0 mVote task1 1 [(.latch, 32), (.file 15, 32)] = .ok [.held .latch 32, .held (.file 15) 32]
    ∧ (vecFetchAll 0 1 task1 1 [.held .latch 32, .held (.file 15) 32] s0).2.2.1 = none ∧ mVote.reads = []
    ∧ s0.AtOnce [(Operand.latch, 32), (Operand.file 15, 32)] 1 [.held .latch 32, .held (.file 15) 32] :=
  ⟨by decide, by decide, by decide, rfl, rfl, rfl, Or.inl (by decide)⟩
/-- A VCMP of a main-file entry that an earlier command has yet to land and a stream of the scratchpad reads on, and then takes its
vector. -/
def cmpS : Instr := .vcmp .f32 none none 3 .lt (.main 0) (.stream 2 0)
def srcsCmp : List (Operand × Nat) := [(.main 0, 32), (.stream 2 0, 32)]
def mCmp : Cmd := cmd cmpS .cmp 0 [(2, hSpad, 0)] 1
def comparing (m : Cmd) : State :=
  { doing core0 .vector m with
    cores := s0.cores.set 0 (core0.onEngine .vector fun q =>
      { q with cmds := [m, { mVote with num := 7, started := true, lands := [(0, 9)] }] }) (by decide) }
def mCmpOn : Cmd := { mCmp with started := true, reads := [0], got := [[noLanes], [noLanes]] }
theorem witness_Predicates_readsOn : (comparing mCmp).Performs .vector mCmp task1 ∧ mCmp.reads = []
    ∧ (∀ h ∈ streamsOf srcsCmp, (mCmp.opd h).reservedButFmt = none) ∧ (∀ o ∈ srcsCmp, fileBad o.1 1 (comparing mCmp).me = none)
    ∧ vecLocate (comparing mCmp) mCmp task1 1 srcsCmp = .ok (got (vecLocate (comparing mCmp) mCmp task1 1 srcsCmp))
    ∧ (vecFetchAll 0 1 task1 1 (got (vecLocate (comparing mCmp) mCmp task1 1 srcsCmp)) (comparing mCmp)).2.2.1 = none
    ∧ ¬ (comparing mCmp).AtOnce srcsCmp 1 (got (vecLocate (comparing mCmp) mCmp task1 1 srcsCmp)) ∧ (comparing mCmp).Clean
    ∧ (comparing mCmpOn).Performs .vector mCmpOn task1 ∧ (comparing mCmpOn).ReadsNext mCmpOn srcsCmp 1 0 [] :=
  ⟨performs_of (by decide), rfl, by decide, by decide, got_of (by decide +kernel), Option.isNone_iff_eq_none.mp (by decide +kernel),
    by unfold State.AtOnce; decide +kernel, s0_clean, performs_of (by decide),
    ⟨rfl, Nat.zero_le _, ⟨rfl, rfl, rfl, by decide⟩, s0_clean, by decide, by decide, fun o ho h off hsp i hi => by
      simp only [srcsCmp, List.mem_cons, List.not_mem_nil, or_false] at ho
      obtain rfl | rfl := ho
      · exact absurd hsp.1 (by simp)
      · obtain ⟨hh, -⟩ := hsp
        cases hh
        exact (by unfold Core.spadHas; decide +kernel :
          ∀ i, i < 64 → (comparing mCmpOn).me.spadHas (streamAt mCmpOn 2 0 32 0 i) 32) i hi⟩⟩
/-- Matrix words of one element on a core with two granules of accumulators; N8 by N8 into S32, and S32 moved. -/
def core2 : Core := { core0 with bndc := 4, h := core0.h.set 4 { Handle.zero with spc := true, fmt := 0x1B, gsz := 0 } }
def matW : Mat := { mat0 with m := 1, n := 1 }
def mMat (i : Instr) (word : Nat) : Cmd :=
  { cmd i .cmp 0 [(0, Handle.zero, 0), (2, hSpad, 0), (4, core2.h.get 4, 0)] 1 with fmtWord := some (BitVec.ofNat 64 word) }
def fmtMma : Nat := 0x1B + 0x1B * 2 ^ 8 + 0x11 * 2 ^ 16
def fmtMov : Nat := 0x11 + 0x11 * 2 ^ 16
def fmtSt : Nat := 0x11 * 2 ^ 16 + 0x02 * 2 ^ 32
def wMma : Mat := { matW with ah := 4, bh := 4, k := 2, acc := .add }
def wMld : Mat := { matW with ah := 2 }
theorem witness_MatrixTiles : (doing core2 .matrix (mMat (.mzero matW) fmtMov)).Performs .matrix (mMat (.mzero matW) fmtMov) task1
    ∧ core2.pool.wf = true ∧ matBadWord core2 (mMat (.mzero matW) fmtMov) .mzero matW = none
    ∧ matBadWord core2 (mMat (.mld wMld) fmtMov) .mld wMld = none ∧ matBadWord core2 (mMat (.mst wMld) fmtSt) .mst wMld = none
    ∧ matBadWord core2 (mMat (.mstat { mat0 with ah := 2 }) 0) .mstat { mat0 with ah := 2 } = none
    ∧ matBadWord core2 (mMat .mclr 0) .mclr (matOf 0) = none ∧ matElems wMld = [(0, 0, 0)]
    ∧ matBadWord core2 (mMat (.mld { wMld with ct := 16 }) fmtMov) .mld { wMld with ct := 16 } = some (0x09, 16, 32)
    ∧ (matFields (.mld wMld) 0).isSome = true ∧ matBadWord core2 (mMat (.mzero matW) (2 ^ 6)) .mzero matW = some (0x02, 2 ^ 6, 6) :=
  ⟨performs_of (by decide), by decide, by decide, by decide, by decide, by decide, by decide, by decide, by decide, by decide,
    by decide⟩
theorem witness_MatrixTiles_operands : (doing core2 .matrix (mMat (.mld wMld) fmtMov)).me.spadHas
      (((mMat (.mld wMld) fmtMov).opd 2).bitM 32 wMld.aoff.toInt (partner wMld (0, 0, 0))) 32
    ∧ (matElems wMld).Pairwise (fun d e => (partner wMld d).1 + 32 ≤ (partner wMld e).1 ∨ (partner wMld e).1 + 32 ≤ (partner wMld d).1)
    ∧ (wMld.bat = true → matCount wMld.m ≤ 16 ∧ matCount wMld.n ≤ 16)
    ∧ (let b := { wMld with bat := true, m := 16, n := 16 }
       b.bat = true ∧ matCount b.m ≤ 16 ∧ matCount b.n ≤ 16) := by
  unfold Core.spadHas
  decide +kernel
theorem witness_MatrixProducts : (doing core2 .matrix (mMat (.mma wMma) fmtMma)).Performs .matrix (mMat (.mma wMma) fmtMma) task1
    ∧ matBadWord core2 (mMat (.mma wMma) fmtMma) .mma wMma = none ∧ (mMat (.mma wMma) fmtMma).format.a = some .n8
    ∧ pairRule .n8 .n8 = some (.s32, .wrap) ∧ (mMat (.mma wMma) fmtMma).format.wc = 4
    ∧ ∀ e ∈ matElems wMma, ∀ k, k < wMma.k.toNat →
        0 ≤ byteLo (((mMat (.mma wMma) fmtMma).opd 4).bitM 8 0 (k, e.2.1, e.1))
          ∧ byteHi (((mMat (.mma wMma) fmtMma).opd 4).bitM 8 0 (k, e.2.1, e.1)) 8 ≤ (doing core2 .matrix (mMat (.mma wMma) fmtMma)).me.spadSize :=
  ⟨performs_of (by decide), by decide, by decide, by decide, by decide, by decide⟩
/-- MMAG: A of N8 in groups of 32, B of F16, with the scales of handle 5. -/
def hScale : Handle := { Handle.zero with spc := true, fmt := 0x03, gsz := 1 }
def wMmag : Mat := { matW with ah := 4, bh := 5, sh := 5, k := 2 }
def mMmag : Cmd := { mMat (.mmag wMmag) (0x1B + 0x03 * 2 ^ 8 + 0x02 * 2 ^ 16 + 1 * 2 ^ 22) with
  handles := [(4, { core2.h.get 4 with gsz := 1 }, 0), (5, hScale, 0)] }
theorem witness_MatrixProducts_groups : matBadWord core2 mMmag .mmag wMmag = none ∧ mMmag.format.group = 32
    ∧ mMmag.format.groupedA = true ∧ mMmag.format.shifted .mmag = false
    ∧ ∀ g j : Fin 1, 0 ≤ byteLo ((mMmag.opd 5).bitM 16 0 (j.val, g.val, 0))
        ∧ byteHi ((mMmag.opd 5).bitM 16 0 (j.val, g.val, 0)) 16 ≤ core2.spadSize := by decide +kernel

/-- The head of a queue: admitted and free to start, not admitted with and without a guard, a tile command without its word. -/
def starting (k : Core) (e : Engine) (m : Cmd) : State := { doing k e m with
  cycle := 5, cur := { Turn.blank with kind := .act, instr := .commandStart, eng := e } }
def fresh (m : Cmd) : Cmd := { m with guarded := false }
theorem witness_CommandStart : let s := starting core0 .vector mVote
    (s.me.engine s.cur.eng).cmds.find? (fun x => !x.started) = some mVote ∧ s.me.cmdOf s.cur.eng mVote.task mVote.num = some mVote
      ∧ s.me.mayStart mVote s.cycle = true ∧ mVote.guarded = true ∧ mVote.slots = [] ∧ s.me.engineFree .vector mVote s.cycle = true
      ∧ s.me.gateOpen .vector s.gating = true ∧ ¬ s.me.Clashes .vector mVote
      ∧ (starting { core0 with mode := .fault } .vector mVote).me.mayStart mVote 9 = false
      ∧ ∀ x ∈ (s.me.engine s.cur.eng).cmds, ∀ f rest, x.reads = f :: rest → s.cycle < f := by
  refine ⟨by decide, by decide, by decide, by decide, by decide, by decide, by decide, ?_, by decide, fun x hx f rest h => ?_⟩
  rotate_left
  · have hm : x = mVote := List.mem_singleton.mp hx
    subst hm
    exact absurd h (by simp [mVote, cmd])
  rintro ⟨x, hx, y, hy, -⟩
  have h : ∀ z, z ≠ Engine.vector → ((starting core0 .vector mVote).me.engine z).cmds = [] := by
    intro z hz
    cases z <;> first | rfl | exact absurd rfl hz
  rw [h x hx] at hy
  cases hy
theorem witness_CommandStart_readsOn : let s := starting core0 .vector (mOn [5])
    mOn [5] ∈ (s.me.engine s.cur.eng).cmds ∧ (mOn [5]).reads = 0 :: [5] ∧ 0 ≤ s.cycle
      ∧ ∀ x ∈ (s.me.engine s.cur.eng).cmds, x ≠ mOn [5] → x.reads = [] :=
  ⟨List.mem_singleton.mpr rfl, rfl, Nat.zero_le _, fun _ hx hn => absurd (List.mem_singleton.mp hx) hn⟩
theorem witness_CommandStart_guards : let s := starting { core0 with guards := core0.guards.set 5 [false, true] } .load (fresh mBulk)
    let g : Cmd := { fresh mBulk with word := 2 ^ 87 + 5 * 2 ^ 84 }
    (fresh mBulk).guarded = false ∧ isTile (fresh mBulk).instr = false ∧ guardIn .load (fresh mBulk).word = none
      ∧ guardIn .load g.word = some ⟨5, false⟩ ∧ s.me.guards.get 5 = [false, true] ∧ s0.me.guards.get 5 = []
      ∧ isRadv g.instr = false ∧ isRadv (fresh mRadv).instr = true ∧ s.me.mayStart g s.cycle = true := by decide +kernel
theorem witness_CommandStart_tiles : let m := { fresh (mMat (.mma wMma) 0) with fmtWord := none }
    let s := starting { core2 with fq := [7] } .matrix m
    isTile m.instr = true ∧ m.fmtWord = none ∧ s.cur.eng = .matrix ∧ s.me.fq = [7] ∧ guardIn .matrix m.word = none
      ∧ s.me.mayStart m s.cycle = true ∧ (starting core2 .matrix m).me.fq = [] ∧ (starting core2 .matrix m).me.ended = false
      ∧ (starting { core2 with ended := true } .matrix m).me.ended = true ∧ s.me.task = some m.task := by decide +kernel

/-- A store command with bytes to write, one that counts in an object of the scratchpad, and one that runs on. -/
def ending (m : Cmd) : State := { doing { core0 with pool := wrNat [] (65536 + 64) 16 0 } .store m with cycle := 9 }
def mDone : Cmd := { mRed with started := true, till := 9 }
def mWrites : Cmd := { mDone with writes := cells1 }
def mCounts : Cmd := { mCopy with started := true, till := 9, bar := some ⟨true, 0, 1, 64⟩, counted := 4 }
theorem witness_CommandsEnd : ((ending mDone).me.engine (ending mDone).cur.eng).cmds = [mDone]
    ∧ mget mDone.task (ending mDone).tasks = some task1 ∧ (ending mDone).me.under.find? (·.task == mDone.task) = none
    ∧ mDone.puts = [] ∧ mDone.lines = [] ∧ { mDone with puts := [⟨10, 8, []⟩] }.puts ≠ []
    ∧ mDone.started = true ∧ mDone.till ≤ (ending mDone).cycle ∧ mDone.bar = none ∧ mDone.writes = []
    ∧ (ending { mDone with till := 10 }).cycle < 10 ∧ mWrites.writes ≠ [] ∧ risingFrom 0 mWrites.writes = true
    ∧ (∀ w ∈ mWrites.writes, isAperture w.1 = false) ∧ (task1.storeEngine mWrites.writes mWrites.poison).footLines.length ≤ task1.record.awr
    ∧ mCounts.bar = some ⟨true, 0, 1, 64⟩ ∧ (ending mCounts).me.pool.wf = true
    ∧ mCounts.toMemory = false
    ∧ (ending mDone).me.task = some mDone.task ∧ (ending mDone).me.faultAt = none ∧ (ending mDone).flaws = []
    ∧ mCounts.lines = [] ∧ mCounts.puts = [] ∧ task1.pinned = false
    ∧ { mCounts with bar := some ⟨false, 0, 1, 4080⟩ }.bar = some ⟨false, 0, 1, 4080⟩
    ∧ (⟨false, 0, 1, 4080⟩ : BarRef).spad = false := by decide +kernel
def landing (due : Nat) : State := { world { core0 with pending := [⟨.x 3 7, due, true, false⟩] } .ctl with cycle := 9 }
theorem witness_CommandsEnd_results : (landing 9).me.pending = [⟨.x 3 7, 9, true, false⟩] ∧ 9 ≤ (landing 9).cycle
    ∧ (landing 10).cycle < 10 := by decide +kernel
def copied (till : Nat) : State := { s0 with bulks := [(65536, bulkJob till)], cur := { s0.cur with a := 65536 }, cycle := 9 }
theorem witness_CommandsEnd_bulk : mget (copied 9).cur.a (copied 9).bulks = some (bulkJob 9) ∧ mget (bulkJob 9).task (copied 9).tasks = some task1
    ∧ (bulkJob 9).till ≤ (copied 9).cycle ∧ (bulkJob 9).bar = none ∧ risingFrom 0 (copied 9).bulks = true ∧ (copied 9).mem.wf = true
    ∧ (bulkJob 9).dst.Nodup ∧ (bulkJob 9).src.length = (bulkJob 9).dst.length
    ∧ (copied 9).Clean ∧ OneTag ((bulkJob 9).dst.map fun y => (y, 0)) ∧ (copied 9).PathEmpty (bulkJob 9).core
    ∧ (∀ x ∈ (bulkJob 9).src, isAperture x = false ∧ (copied 9).isPoisoned (x / 64) = false ∧ (copied 9).hidden (x / 64) = none)
    ∧ (∀ y ∈ (bulkJob 9).dst, isAperture y = false ∧ (copied 9).hidden (y / 64) = none)
    ∧ (copied 10).cycle < (bulkJob 10).till ∧ mget 5 (copied 9).bulks = none := by
  unfold State.Clean OneTag State.PathEmpty
  decide +kernel
/-- A task that has issued END on streams that have all stopped. -/
def halted : Sequencer := { Sequencer.fresh with stopped := true }
def coreEnd : Core := { core0 with ended := true, seqs := Vector.replicate 4 halted }
theorem witness_TasksEnd : (world coreEnd .ctl).Runs 1 task1 ∧ (world coreEnd .ctl).me.shadow = none
    ∧ (∀ x ∈ (world coreEnd .ctl).tasks, x.2.standing ≠ .staged (world coreEnd .ctl).cur.core)
    ∧ (world coreEnd .ctl).me.SwapReady 1 ∧ ¬ s0.me.SwapReady 1 := by
  refine ⟨⟨by decide, by decide⟩, by decide, by decide, ⟨by decide, by decide, by decide, by decide, by decide, ?_, ?_, ?_⟩, fun h => ?_⟩
  · rintro e -
    cases e <;> rfl
  · intro e m h
    exact absurd h (by rw [show ((world coreEnd .ctl).me.engine e).cmds = [] by cases e <;> rfl]; exact List.not_mem_nil)
  · intro m h
    exact absurd h (by rw [show ((world coreEnd .ctl).me.engine .matrix).cmds = [] by rfl]; exact List.not_mem_nil)
  · exact absurd h.ended (by decide)
def overT : Task := { task1 with standing := .ending 0 }
def retiring (m : Team) : State := { world { core0 with task := none, mode := .idle } .ctl with
  tasks := [(1, overT)], teams := [(1, m)], cur := { s0.cur with a := 1 } }
theorem witness_TasksEnd_retirement : let s := retiring { Team.blank 1 with live := 2 }
    mget s.cur.a s.tasks = some overT ∧ mget overT.record.team s.teams = some { Team.blank 1 with live := 2 }
      ∧ overT.standing = .ending s.cur.core ∧ overT.bcopies = 0 ∧ (∀ f ∈ s.me.endFaults, f.1 ≠ s.cur.a) ∧ s.PathClean overT
      ∧ overT.leased = [] ∧ risingFrom 0 s.tasks = true ∧ risingFrom 0 s.teams = true ∧ mget 0 s.tasks = none
      ∧ s.tasksOf overT.record.ctx = [(1, overT)] ∧ (Team.blank 1).live = 1 ∧ (Team.blank 1).queue = none ∧ (Team.blank 1).csig = 0
      ∧ ∀ p ∈ s.preempts, p.team ≠ overT.record.team := by
  unfold State.PathClean State.PathEmpty
  decide +kernel
theorem witness_TasksEnd_quiet : ∀ e, ∀ x ∈ ((retiring (Team.blank 1)).me.engine e).cmds, x.task ≠ 1 := by
  intro e x h
  rw [show ((retiring (Team.blank 1)).me.engine e).cmds = [] by cases e <;> rfl] at h
  cases h
/-- The team's signal lies at virtual address 64 of its context. -/
theorem witness_TasksEnd_signal : okIs (s0.walk ctx1 64) leaf1 = true ∧ leaf1.keyOf 64 = t1 0x10040 ∧ s0.mem.wf = true
    ∧ s0.Clean ∧ t1 0x10040 + 8 ≤ 2 ^ 54
    ∧ (∀ j, j < 8 → s0.hidden (tagged leaf1.tag (t1 0x10040 + j) / 64) = none
      ∧ s0.isPoisoned (tagged leaf1.tag (t1 0x10040 + j) / 64) = false)
    ∧ ∀ j, j < 8 → OffLeaves [leaf1] (t1 0x10040 + j) := by
  unfold OffLeaves
  refine ⟨by decide +kernel, by decide +kernel, by decide +kernel, s0_clean, by decide, by decide +kernel, ?_⟩
  intro j _ l hl
  cases List.mem_singleton.mp hl
  right
  show t1 0x4000 + 16 ≤ t1 0x10040 + j
  simp only [t1]; omega
/-- The allowance is used up, by a task of a domain of four points, by one of depth 16, by a pinned one, by one of one point. -/
def spent (r : TaskRec) : Task := { task1 with record := r, tleft := 0 }
def four : TaskRec := { task1.record with hi := #v[4, 0, 0] }
theorem witness_TasksEnd_allowance : ({ s0 with tasks := [(1, spent four)] } : State).Runs 1 (spent four) ∧ (spent four).tleft = 0
    ∧ s0.me.mode ≠ .fault ∧ (spent four).pinned = false ∧ four.depth ≠ 16 ∧ splitAxis four [0, 1, 2] [] = some 0
    ∧ mget four.team s0.teams = some (Team.blank 1) ∧ 1 < s0.nextTask
    ∧ risingFrom 0 ({ s0 with tasks := [(1, spent four)] } : State).tasks = true
    ∧ ({ s0 with tasks := [(1, spent four)] } : State).awaitsHeads 0 = false
    ∧ ({ s0 with cur := { s0.cur with kind := .act }, agenda := [{ s0.cur with kind := .heads }] } : State).awaitsHeads 0 = true
    ∧ ({ four with depth := 16 } : TaskRec).depth = 16 ∧ splitAxis task1.record [0, 1, 2] [] = none ∧ task1.tleft ≠ 0 := by
  refine ⟨⟨by decide, by decide⟩, ?_⟩
  decide +kernel

/-- Lines failed at its core in the cycle in which the allowance is used up. -/
theorem witness_TasksEnd_failed : let s : State := { world { core0 with
        mode := .fault, faultAt := some 0, faults := [⟨0x29, .ctl, 15, 0, 0, 0, 0, false⟩] } .ctl with
      tasks := [(1, spent four)] }
    s.Runs 1 (spent four) ∧ s.me.mode = .fault ∧ s.me.faultAt = some s.cycle ∧ (∀ f ∈ s.me.faults, f.cause = 0x29)
      ∧ s.awaitsHeads s.cur.core = false := by
  refine ⟨⟨by decide, by decide⟩, ?_⟩
  decide +kernel

/-- Every core is busy but core 0, which is free, or runs a task that has issued END. -/
def queuedT : Task := { task1 with standing := .queued, grants := [] }
def busy (k : Core) : State := { world k .ctl with
  cores := (Vector.replicate 288 { Core.reset with task := some 9, mode := .run }).set 0 k, tasks := [(1, queuedT)] }
theorem witness_Scheduling : (busy Core.reset).tasks = [(1, queuedT)] ∧ (busy Core.reset).teams = [(1, Team.blank 1)]
    ∧ queuedT.record.team = 1 ∧ (busy Core.reset).preempts = [] ∧ queuedT.standing = .queued ∧ (Team.blank 1).gang = false
    ∧ (Team.blank 1).drain = false ∧ mget queuedT.record.ctx (busy Core.reset).contexts = some ctx1 ∧ ctx1.fault = false
    ∧ ctx1.recalled (busy Core.reset).cycle = false ∧ (busy Core.reset).grantable queuedT = true ∧ (busy Core.reset).freeCores = 0 :: [] ∧ ((busy Core.reset).core 0).task = none
    ∧ (busy { coreEnd with task := some 9 }).freeCores = 0 :: [] ∧ ((busy { coreEnd with task := some 9 }).core 0).task ≠ none := by
  decide +kernel
theorem witness_Scheduling_candidates : risingFrom 0 (busy Core.reset).tasks = true
    ∧ (∀ d ∈ ([] : List CoreId), dieOf d = dieOf 0) := by decide
theorem witness_Scheduling_class : queuedT.inherited = (busy Core.reset).inheritedBy 1 (Team.blank 1) := by decide +kernel
def waiting (t : Task) : State := { s0 with tasks := [(1, t)], cycle := 65536 * 940, cur := { s0.cur with a := 1 } }
theorem witness_Scheduling_times : mget (waiting queuedT).cur.a (waiting queuedT).tasks = some queuedT
    ∧ queuedT.aged < ((waiting queuedT).timeUs - queuedT.ready) / 65536
    ∧ (waiting queuedT).helmServes ((waiting queuedT).homeOf queuedT.record.ctx) 0 = true
    ∧ (let t := { task1 with standing := .parked 2 65536 }
       mget (waiting t).cur.a (waiting t).tasks = some t ∧ 65536 ≤ (waiting t).timeUs ∧ (waiting t).timeUs < 65537) := by decide +kernel

/-- A request with a deadline of 1 µs: to drain, to discard a task that has used nothing, and to save one that has used 2,000
cycles of its allowance. -/
def asked (a : Nat) (t : Task) : State := { s0 with tasks := [(1, t)], cur := { s0.cur with num := 1, b := 1, a := a } }
def used : Task := { task1 with record := { task1.record with part := 3 * 2 ^ 16 }, tleft := 2 ^ 32 - 2001 }
theorem witness_Preemption : mget 1 (asked 1 used).teams = some (Team.blank 1) ∧ (asked 1 used).runningOf 1 = [(1, used, 0)]
    ∧ mget 1 (asked 1 used).tasks = some used ∧ ((asked 1 used).core 0).task = some 1 ∧ ((asked 1 used).core 0).mode = .run
    ∧ (∀ p ∈ (asked 1 used).preempts, p.team ≠ 1)
    ∧ (asked 1 used).helmServes ((asked 1 used).homeOf (((mget (asked 1 used).cur.b (asked 1 used).teams).map (·.ctx)).getD 0)) 1 = true
    ∧ ((asked 0 used).cur.a = 0) ∧ ¬ ((asked 1 used).cur.a = 0 ∨ used.tleft ≤ (asked 1 used).cur.a * 940)
    ∧ fld used.record.part 16 7 * 65536 / 256 + 64 ≤ (asked 1 used).cur.a * 940
    ∧ fld used.record.part 16 7 * 65536 / 256 + 64 < used.record.atime - used.tleft
    ∧ task1.record.atime - task1.tleft ≤ fld task1.record.part 16 7 * 65536 / 256 + 64 ∧ used.pinned = false
    ∧ ((asked 1 used).core 0).shadow = none ∧ (∀ y ∈ (asked 1 used).tasks, y.2.standing ≠ .staged 0) ∧ s0.findRun ctx1 (2 + 16 * core0.bndc) ctx1.savel 1 = some 1 := by decide +kernel
def request (d : Option Nat) : Preempt := ⟨1, 0, d, 1, 2, false, [0]⟩
theorem witness_Preemption_overrun : let s : State := { s0 with preempts := [request (some 0)], cur := { s0.cur with num := 1 } }
    s.preempts = [request (some 0)] ∧ (request (some 0)).team = s.cur.num ∧ (request (some 0)).ovfl = false
      ∧ (0 : Nat) ≤ s.cycle ∧ s.heldBy 1 2 ≠ [] ∧ (request none).deadline = none := by decide +kernel

theorem saves_of {s : State} {c : CoreId} {tid b : Nat} {t : Task} {x : Context} (ht : mget tid s.tasks = some t)
    (hx : mget t.record.ctx s.contexts = some x) (hr : (readDirectory (dieOf c) x s).findRun x (runBlocks false (s.core c)) x.savel 1 = some b) :
    ∃ u, saveTask c tid false s = (some b, u) := by
  unfold saveTask
  simp only [ht, hx, hr, Bool.false_eq_true, if_false]
  exact ⟨_, rfl⟩
theorem witness_SavedRuns : mget 1 s0.tasks = some task1 ∧ mget task1.record.ctx s0.contexts = some ctx1 ∧ s0.mem.wf = true
    ∧ ctx1.keyid < 128 ∧ s0.Clean ∧ ∃ u, saveTask 0 1 false s0 = (some 1, u) :=
  ⟨by decide, by decide, by decide, by decide, s0_clean, saves_of (t := task1) (x := ctx1) (by decide) (by decide) (by decide)⟩
def saving (till : Nat) : State := { world { core0 with mode := .save .yield till } .ctl with cycle := 9 }
theorem witness_SavedRuns_yield : (saving 9).Runs 1 task1 ∧ (saving 9).me.mode = .save .yield 9 ∧ 9 ≤ (saving 9).cycle
    ∧ (saving 10).cycle < 10 ∧ ((saving 9).me.seq .ctl).acting = none ∧ (saving 9).me.shadow = none
    ∧ (saving 9).PathClean task1 ∧ task1.leased = [] ∧ mget task1.record.ctx (saving 9).contexts = some ctx1
    ∧ (∀ y ∈ (saving 9).tasks, y.2.standing ≠ .staged (saving 9).cur.core) ∧ (saving 9).Clean
    ∧ ctx1.woken ≠ some (saving 9).cycle ∧ ctx1.sevAt ≠ some (saving 9).cycle
    ∧ (saving 9).findRun ctx1 (2 + 16 * (saving 9).me.bndc) ctx1.savel 1 = some 1 := by
  unfold State.PathClean State.PathEmpty State.Clean
  refine ⟨⟨by decide, by decide⟩, ?_⟩
  decide +kernel
/-! ### Page moves, queues, slots and packets -/

/-- A context whose pages await: parked with a wake time of 1 µs and nothing away, or with a RESIDE of page 0 planned. -/
def recalls (waket : Nat) : State := { s0 with contexts := [(1, { ctx1 with state := 3, waket := waket })], cur := { s0.cur with a := 1 } }
theorem witness_PageMoves_lead : let x : Context := { ctx1 with state := 3, waket := 1 }
    mget (recalls 1).cur.a (recalls 1).contexts = some x ∧ x.waket ≠ 0 ∧ x.waket ≤ (recalls 1).timeUs + (recalls 1).recallLead 1 x
      ∧ x.recalling = false ∧ (recalls 1).moves = [] ∧ ({ x with waket := 0 } : Context).waket = 0
      ∧ (recalls 9999).timeUs + (recalls 9999).recallLead 1 { x with waket := 9999 } < 9999 := by decide +kernel
def leaf0 : Leaf := { leaf1 with bits := leafAt 0x10 - 2 ^ 5 }
def ctxM : Context := { ctx1 with plan := [(2, 1, 0)] }
def planned : State := { s0 with
  contexts := [(1, ctxM)], mem := wrNat (memOf leaf0.bits) (t1 0x8020) 32 (4096 * 2 ^ 64 + 7 * 2 ^ 112 + 2 ^ 128 + 2 ^ 148), freeFrames := [(32, [0x20])], cur := { s0.cur with a := 1 } }
theorem witness_PageMoves_start : mget 1 planned.contexts = some ctxM ∧ ctxM.plan = (2, 1, 0) :: [] ∧ planned.moves = []
    ∧ okIs (planned.walk ctxM 0) leaf0 = true ∧ planned.keyBusy = false ∧ bitAt leaf0.mask 7 = true ∧ leaf0.mig = false ∧ leaf0.lcnt = 0
    ∧ leaf0.tier ≠ 1 ∧ planned.freeFrames = [(t1Frames (2 * ctxM.home.val), [0x20])] ∧ planned.freeBte ctxM.home = some 0 := by
  decide +kernel
/-- The page is one of the context's own; a page that is not of MASK bit 7 is passed over. -/
theorem witness_PageMoves_own : (∃ p ∈ planned.ownPages 1 ctxM, p.2.2.head = leaf0.head)
    ∧ bitAt ({ leaf0 with bits := leaf0.bits - 2 ^ 15 } : Leaf).mask 7 = false := by decide +kernel
theorem witness_PageMoves_path :
    planned.moveCut ctxM leaf0.head (tierKey leaf0.tier (4096 * leaf0.frame)) (tierKey 1 (4096 * 0x20)) leaf0.size = false := by
  rw [State.moveCut, ringPath_up (by decide)]
  decide +kernel
theorem witness_PageMoves_quiet : (∀ c, planned.PathEmpty c) ∧ ∀ z ∈ planned.tasksOf 1, z.2.isQueued = false := by
  refine ⟨fun c => ?_, by decide +kernel⟩
  have h : ∀ c : CoreId, (planned.core c).dirty = Copies.none ∧ (planned.cluster c).dirty = Copies.none
    ∧ (planned.die (dieOf c)).dirty = Copies.none := by decide +kernel
  exact h c
def mv (till : Nat) : Move := ⟨1, 0x4000, 4096, t1 0x10000, t1 0x20000, 1, 0x20, till, 2, 0, 0, 0⟩
def moving (till : Nat) : State := { s0 with moves := [(0x4000, mv till)], cur := { s0.cur with a := 0x4000 }, cycle := 9 }
theorem witness_PageMoves_end : mget (moving 9).cur.a (moving 9).moves = some (mv 9) ∧ (moving 9).mem.wf = true ∧ (mv 9).till ≤ (moving 9).cycle
    ∧ (moving 10).cycle < (mv 10).till ∧ (moving 9).Clean ∧ (mv 9).src + (mv 9).size ≤ (mv 9).dst
    ∧ t1 0x4000 + 16 * 1024 ≤ (mv 9).src ∧ mget (mv 9).ctx (moving 9).contexts = some ctx1 ∧ risingFrom 0 (moving 9).moves = true := by
  unfold State.Clean
  decide +kernel
theorem witness_PageMoves_uncut : (moving 9).moveCut ctx1 0x4000 (mv 9).src (mv 9).dst (mv 9).size = false := by
  rw [State.moveCut, ringPath_up (by decide)]
  decide +kernel

/-- Queue 4 of die 0: enabled (EN), of class 0 and 64 packets, its ring at 0x30000; and slot 0, which holds it. -/
def qcb4 : Nat := 2 ^ 36 + 6 * 2 ^ 40 + 0x30000 * 2 ^ 64
def slot4 : QSlot := ⟨1, 4, 1, 0, 0, 0, 0, 0, 0, false, false, none, false⟩
def queued (qcb packet : Nat) (x : QSlot) (t : Turn) : State := { s0.onDie 0 fun d => { d with slots := d.slots.set 0 x } with
  cur := t, mem := wrNat (wrNat s0.mem (t1 128) 128 qcb) (t1 0x30000) 256 packet }
def none4 : QSlot := (Die.reset.slots.get 0)
def bell (v n a : Nat) (b : BellSource) : Turn := { s0.cur with a := a, b := n, num := v, bell := b }
theorem witness_Doorbells : let s := queued qcb4 0 none4 (bell 1 8 32 .task)
    s.cur.bell = .task ∧ s.cur.b = 8 ∧ s.cur.a % 8 = 0 ∧ s.cur.a < 2 ^ 23 ∧ s.cur.num < 2 ^ 32 ∧ s.slotOf 4 = none
      ∧ s.qEn 4 = true ∧ 4 ∉ (s.die (Fin.ofNat 4 4)).pendOrder ∧ s.mem.wf = true ∧ (queued 0 0 none4 (bell 1 8 32 .task)).qEn 4 = false
      ∧ (bell 1 4 32 .task).b ≠ 8 ∧ (bell 1 8 33 .task).a % 8 ≠ 0 ∧ 2 ^ 23 ≤ (bell 1 8 (2 ^ 23) .task).a
      ∧ 2 ^ 32 ≤ (bell (2 ^ 32) 8 32 .task).num := by decide +kernel
theorem witness_Doorbells_states :
    (let s := { queued qcb4 0 none4 (bell 1 8 32 .task) with mem := wrByte (queued qcb4 0 none4 (bell 1 8 32 .task)).mem (t1 0) 2 }
     s.slotOf 4 = none ∧ s.qEn 4 = true ∧ s.isPending 4 = true
       ∧ 4 ∈ ((s.onDie 0 fun d => { d with pendOrder := [4] }).die (Fin.ofNat 4 4)).pendOrder)
    ∧ (let s := queued qcb4 0 { slot4 with state := 4 } (bell 5 8 32 .task)
       s.slotOf 4 = some (0, 0) ∧ ((s.die 0).slots.get 0).state = 4)
    ∧ (let s := queued qcb4 0 slot4 (bell 5 8 32 .task)
       s.slotOf 4 = some (0, 0) ∧ ((s.die 0).slots.get 0).state ≠ 4 ∧ (5 + 2 ^ 32 - ((s.die 0).slots.get 0).ridx) % 2 ^ 32 ≤ 2 ^ s.qLsz 4)
    ∧ (let s := { queued (qcb4 + 2 ^ 35) 0 none4 (bell 1 8 32 (.vf 3)) with vfmap := s0.vfmap.set 3 (2 ^ 31 + 2 ^ 16) }
       s.pcieDown = false ∧ bitAt (s.vfmap.get 3).toNat 31 = true ∧ s.cur.a < 4096 * fld (s.vfmap.get 3).toNat 16 12
         ∧ (4096 * fld (s.vfmap.get 3).toNat 0 11 + s.cur.a) / 8 = 4 ∧ bitAt (s.qcb 4 4 1) 3 = true
         ∧ bitAt (s.vfmap.get 4).toNat 31 = false)
    ∧ ({ s0 with pcieDown := true, cur := bell 1 8 32 .pf } : State).cur.bell ≠ .task := by decide +kernel

def pends (x : QSlot) (ready : Nat) : State := { (queued qcb4 0 x s0.cur).onDie 0 fun d => { d with pendOrder := [4], mapAt := ready } with
  bells := [(4, 3, 0)], cycle := 9 }
theorem witness_Slots_map : (pends none4 9).helmServes 0 0 = true ∧ ((pends none4 9).die 0).mapAt ≤ 9 ∧ (pends none4 9).cycle = 9
    ∧ (pends none4 9).nextPending 0 = some 4 ∧ (pends none4 10).cycle < ((pends none4 10).die 0).mapAt
    ∧ ((pends none4 9).die 0).freeSlot = some 0 ∧ (pends none4 9).qWblk 4 = false ∧ (pends none4 9).mem.wf = true
    ∧ (pends none4 9).bitKey 4 < (pends none4 9).qcbKey 4
    ∧ (((mget 4 (pends none4 9).bells).getD (0, 0)).1 % 2 ^ 32 + 2 ^ 32 - (pends none4 9).qcb 4 20 4) % 2 ^ 32 ≤ 2 ^ (pends none4 9).qLsz 4
    ∧ s0.nextPending 0 = none := by decide +kernel
/-- One slot in use, which another queue holds. -/
def oneSlot : State := (pends { slot4 with queue := 8 } 9).onDie 0 fun d => { d with nslot := 1 }
theorem witness_Slots_full : oneSlot.helmServes 0 0 = true ∧ oneSlot.nextPending 0 = some 4 ∧ (oneSlot.die 0).freeSlot = none
    ∧ (∀ k, ((oneSlot.die 0).slots.get k).state ≠ 4 ∧ ((oneSlot.die 0).slots.get k).leaves = none) ∧ oneSlot.oldestSlot 0 = some 0 := by decide +kernel
def slotted (x : QSlot) : State := { queued qcb4 0 x s0.cur with cycle := 940 * 1000 }
theorem witness_Slots_idle : (let s := slotted { slot4 with ridx := 1 }
      s.helmServes 0 0 = true ∧ s.mySlot.state = 1 ∧ s.mySlot.ridx = s.mySlot.widx ∧ s.idleUs 0 s.mySlot ≤ s.sinceBell s.mySlot)
    ∧ (slotted slot4).mySlot.ridx ≠ (slotted slot4).mySlot.widx ∧ 0 < ((slotted slot4).die 0).nslot
    ∧ (slotted slot4).mySlot.mapped = true ∧ (slotted none4).mySlot.mapped = false ∧ (slotted slot4).mySlot.state ≠ 4
    ∧ (slotted { slot4 with leaves := some 9 }).mySlot.leaves = some 9 ∧ 9 < (slotted slot4).cycle ∧ (slotted slot4).mySlot.leaves = none
    ∧ (slotted { slot4 with state := 4 }).mySlot.state = 4 ∧ (slotted slot4).qcb 4 0 4 % 2 = 0
    ∧ ({ slotted slot4 with mem := wrNat (slotted slot4).mem (t1 128) 4 1 } : State).qcb 4 0 4 % 2 = 1 ∧ (slotted slot4).mem.wf = true
    ∧ (slotted slot4).bitKey 4 < (slotted slot4).qcbKey 4 := by decide +kernel
theorem witness_Slots_writes : (slotted { slot4 with ridx := 1 }).mySlot.mapped = true
    ∧ (slotted { slot4 with ridx := 1 }).mySlot.written ≠ (slotted { slot4 with ridx := 1 }).mySlot.ridx
    ∧ (slotted slot4).mySlot.written = (slotted slot4).mySlot.ridx ∧ (slotted slot4).mem.wf = true
    ∧ (1 ≤ (bell 256 0 0 .pf).num ∧ (bell 256 0 0 .pf).num ≤ 256) ∧ (bell 0 0 0 .pf).num = 0 ∧ 256 < (bell 257 0 0 .pf).num := by decide +kernel

/-- The package whose slot 0 has the packet `w` at its head. -/
def heads (w : Nat) (x : QSlot) : State := { queued qcb4 w x s0.cur with cycle := 940 }
/-- A packet of type `ty` for context 1, with OPC and the words at bytes 8 and 16. -/
def packetOf (ty opc a v : Nat) : Nat := ty + 2 ^ 16 + opc * 2 ^ 32 + a * 2 ^ 64 + v * 2 ^ 128
theorem witness_Packets_ready : (heads 0 slot4).mySlot.state = 1 ∧ (heads 0 slot4).mySlot.ridx ≠ (heads 0 slot4).mySlot.widx
    ∧ (heads 0 slot4).mySlot.readyAt ≤ (heads 0 slot4).cycle ∧ (heads 0 none4).mySlot.state ≠ 1
    ∧ fld ((heads 0 slot4).packet slot4) 0 8 < 1 ∧ 5 < fld ((heads 6 slot4).packet slot4) 0 8
    ∧ bitAt ((heads (5 + 2 ^ 8) { slot4 with outt := 1 }).packet slot4) 8 = true
    ∧ packetSpare ((heads (packetOf 3 5 0 0) slot4).packet slot4) = true := by decide +kernel
theorem witness_Packets_note : fld ((heads (5 + 7 * 2 ^ 64) slot4).packet slot4) 0 8 = 5
    ∧ packetSpare ((heads (5 + 7 * 2 ^ 64) slot4).packet slot4) = false ∧ bitAt ((heads (5 + 7 * 2 ^ 64) slot4).packet slot4) 8 = false
    ∧ (heads (packetOf 3 0 64 5 + 2 ^ 16) slot4).packetCtx slot4 2 = none := by decide +kernel
theorem sched_of {s : State} {va : Nat} {a : Acts} (hb : s.bufferAt ctx1 va = some 1)
    (he : okIs (s.checkEntry ctx1 1 1 (va - (s.buffer ctx1 1).vbase : Nat) 8 (some (a, false))) (s0.buffer ctx1 1) = true)
    (hw : okIs (s.walk ctx1 va) leaf1 = true) (hu : s.uciDown = []) (hk : s.keys = s0.keys)
    (hf : s.linkFail 0 (leaf1.keyOf va) = none) : s.schedPage 0 1 ctx1 va a = some leaf1 := by
  have hm : bitAt leaf1.mask (if (a == .read) = true then 0 else 1) = true := by cases a <;> decide
  have hp := checkPage_ok (b := s0.buffer ctx1 1) (d := 0) (i0 := 0) (ok_of hw) hu hm (by decide) (by decide) (by rw [hk]; decide)
    (by decide) hf
  simp only [State.schedPage, hb, ok_of he, hp]
  decide +kernel
def signals : State := heads (packetOf 3 1 64 5) slot4
theorem witness_Packets_signal : fld (signals.packet slot4) 0 8 = 3 ∧ packetSpare (signals.packet slot4) = false
    ∧ signals.packetCtx slot4 1 = some ctx1 ∧ bitAt (signals.packet slot4) 8 = false ∧ leaf1.mig = false
    ∧ isAperture (leaf1.keyOf (fld (signals.packet slot4) 64 64)) = false ∧ signals.mem.wf = true
    ∧ signals.schedPage 0 1 ctx1 0x5000 .atomic = none := by decide +kernel
/-- The signal's bytes lie in no line that is dirty, fails or is written under a key that is gone, and not in the Chart. -/
theorem witness_Packets_signal_bytes : signals.PathEmpty (coreOf signals.cur.die) ∧ signals.Clean ∧ leaf1.keyOf 64 + 8 ≤ 2 ^ 54
    ∧ (∀ j, j < 8 → signals.hidden (tagged leaf1.tag (leaf1.keyOf 64 + j) / 64) = none
      ∧ signals.isPoisoned (tagged leaf1.tag (leaf1.keyOf 64 + j) / 64) = false)
    ∧ mget 0 signals.tasks = none ∧ ∀ j, j < 8 → OffLeaves [leaf1] (leaf1.keyOf 64 + j) := by
  unfold State.PathEmpty State.Clean OffLeaves
  refine ⟨by decide +kernel, by decide +kernel, by decide, by decide +kernel, by decide +kernel, ?_⟩
  intro j _ l hl
  cases List.mem_singleton.mp hl
  right
  show t1 0x4000 + 16 ≤ leaf1.keyOf 64 + j
  rw [show leaf1.keyOf 64 = t1 0x10040 by decide]
  simp only [t1]; omega
theorem witness_Packets_signal_page : signals.schedPage 0 1 ctx1 (fld (signals.packet slot4) 64 64) .atomic = some leaf1 := by
  rw [show fld (signals.packet slot4) 64 64 = 64 by decide]
  exact sched_of (by decide +kernel) (by decide +kernel) (by decide +kernel) rfl rfl (by decide +kernel)
/-- A WAIT for bytes that read 0: for at least 0, which holds, or at least 9. -/
def waits (v : Nat) (x : QSlot) : State := heads (packetOf 2 0 64 v) x
theorem witness_Packets_wait : (∀ v ∈ [0, 9], fld ((waits v slot4).packet slot4) 0 8 = 2 ∧ packetSpare ((waits v slot4).packet slot4) = false
      ∧ (waits v slot4).packetCtx slot4 1 = some ctx1 ∧ okIs ((waits v slot4).walk ctx1 64) leaf1 = true
      ∧ (waits v slot4).cycle % 940 = 0 ∧ fld ((waits v slot4).packet slot4) 64 64 = 64
      ∧ waitHolds 0 ((waits v slot4).signalAt leaf1 64) v = decide (v = 0))
    ∧ leaf1.mig = false ∧ leaf1.tier ≤ 1 ∧ 2 ≤ ({ leaf1 with bits := leafAt 0x10 + 2 ^ 5 } : Leaf).tier ∧ (waits 9 { slot4 with state := 3 }).mySlot.state = 3
    ∧ (waits 9 { slot4 with state := 3, far := true }).mySlot.far = true := by decide +kernel
/-- The watch of a waiting slot, before and after a write meets it; a signal whose page is gone. -/
def watching (met : Bool) : State := { waits 9 { slot4 with state := 3 } with watches := [⟨0, 0, leaf1.keyOf 64, 0, 9, met⟩] }
theorem witness_Packets_wait_met : (∃ e ∈ (watching true).watches, e.die = (watching true).cur.die
      ∧ e.slot = (watching true).cur.slot ∧ e.met = true)
    ∧ (∀ e ∈ (watching false).watches, ¬ (e.die = (watching false).cur.die ∧ e.slot = (watching false).cur.slot ∧ e.met = true))
    ∧ (watching true).wasMet (leaf1.keyOf 64) = true
    ∧ (waits 9 slot4).schedPage 0 1 ctx1 0x5000 .read = none := by decide +kernel
theorem witness_Packets_wait_page : (waits 9 slot4).schedPage 0 1 ctx1 64 .read = some leaf1 :=
  sched_of (by decide +kernel) (by decide +kernel) (by decide +kernel) rfl rfl (by decide +kernel)
def resides : State := heads (packetOf 4 0 1 (2 ^ 32)) slot4
theorem witness_Packets_reside : fld (resides.packet slot4) 0 8 = 4 ∧ packetSpare (resides.packet slot4) = false
    ∧ resides.packetCtx slot4 1 = some ctx1 ∧ okIs (resides.checkEntry ctx1 1 1 0 0 none) (s0.buffer ctx1 1) = true := by decide +kernel
/-- LAUNCH with bits `more` in the packet's first half, of the record of a domain for context 1 whose image lies in no buffer. -/
def launches (more rec : Nat) : State := { heads 0 slot4 with
  mem := wrNat (wrNat (heads 0 slot4).mem (t1 0x30000) 128 (1 + more)) (t1 0x30080) 128 (rec + 1 + 0x5000 * 2 ^ 64) }
theorem witness_Packets_launch : let s := launches 0 record1
    let w := s.packet slot4
    let r := fld w 1024 1024
    fld w 0 8 = 1 ∧ bitAt w 8 = false ∧ launchSpare w = false ∧ s.packetCtx slot4 1 = some ctx1 ∧ fld r 0 16 = 1
      ∧ s.bufferAt ctx1 (fld r 64 56) = none ∧ recordBit r r = none ∧ bitAt r 48 = false ∧ fld w 32 4 = 0 ∧ fld w 128 64 = 0 := by
  decide +kernel
theorem witness_Packets_launch_bad : launchSpare ((launches (2 ^ 36) record1).packet slot4) = true
    ∧ (let w := (launches 0 (2 ^ 50)).packet slot4
       launchSpare w = false ∧ (recordBit (fld w 1024 1024) (fld w 1024 1024)).isSome = true)
    ∧ (let w := (launches (0x5000 * 2 ^ 128) record1).packet slot4
       launchSpare w = false ∧ fld w 128 64 = 0x5000)
    ∧ (launches 0 record1).schedPage 0 1 ctx1 0x5000 .atomic = none ∧ (launches 0 record1).packetCtx slot4 2 = none := by decide +kernel
/-- A LAUNCH whose team signals at address 64, and the record of a gang of more tasks than its scope has cores. -/
theorem witness_Packets_launch_signal : fld ((launches (64 * 2 ^ 128) record1).packet slot4) 128 64 = 64
    ∧ (launches (64 * 2 ^ 128) record1).schedPage 0 1 ctx1 64 .atomic = some leaf1
    ∧ scopeCores .cl < (splitRounds 4 [recordOf (record1 + 12 * 2 ^ 224) 1 0 0 true]).length := by
  refine ⟨by decide +kernel, sched_of (by decide +kernel) (by decide +kernel) (by decide +kernel) rfl rfl (by decide +kernel), ?_⟩
  decide +kernel
theorem witness_Packets_launch_image : ∃ c, (launches 0 record1).readImage 0 1 0x5000 = .error c := by
  refine ⟨0x20, ?_⟩
  have h : mget 1 (launches 0 record1).contexts = some ctx1 := by decide +kernel
  have h' : (launches 0 record1).bufferAt ctx1 0x5000 = none := by decide +kernel
  simp only [State.readImage, h, State.fetchBytes, State.fetchKeys, h']
/-! ### Faults, the Helm, links, power, keys and the Binnacle -/

def raised1 : Raised := ⟨1, .ctl, 15, 7, 0, 0xDEAD, 3, true⟩
/-- A core whose task has raised a fault in cycle 5, in mode `m`, with debugging on or off. -/
def faulted (m : Mode) (debug : Bool) (cycle : Nat) : State :=
  let s := world { core0 with mode := m, faults := [raised1], faultAt := some 5 } .ctl
  { s with
    cycle := cycle, mem := if debug then wrByte s.mem (t1 0) 2 else s.mem
    teams := [(1, { Team.blank 1 with live := 2 })], tasks := [(1, task1), (2, { task1 with standing := .queued, grants := [] })] }
theorem witness_FaultDelivery : (∀ b, (faulted .fault b 6).Runs 1 task1 ∧ (faulted .fault b 6).me.endFaults = []
      ∧ (faulted .fault b 6).me.faultAt = some 5 ∧ (faulted .fault b 6).me.faults ≠ [] ∧ 5 < (faulted .fault b 6).cycle
      ∧ (faulted .fault b 6).me.startedDone 1 = true ∧ (faulted .fault b 6).me.resumed = false
      ∧ (faulted .fault b 6).debugOn 0 1 = b ∧ mget 1 (faulted .fault b 6).teams = some { Team.blank 1 with live := 2 })
    ∧ (faulted .fault false 6).me.shadow = none ∧ risingFrom 0 (faulted .fault false 6).tasks = true
    ∧ (∀ j ∈ (faulted .fault false 6).tasksOf 1, j.1 ≠ 1 → j.2.standing = .queued) ∧ mget 1 (faulted .fault false 6).contexts = some ctx1
    ∧ (faulted .run false 6).me.mode ≠ .fault ∧ (faulted .fault false 5).cycle ≤ 5 := by
  unfold State.Runs
  decide +kernel
theorem witness_FaultDelivery_record : let s := faulted .fault false 6
    mget task1.record.ctx s.contexts = some ctx1 ∧ task1.record.team < 2 ^ 24 ∧ task1.record.depth ≤ 16 ∧ raised1.cause < 2 ^ 8
      ∧ raised1.eng < 16 ∧ (s.core 0).tdep < 2 ^ 8 ∧ task1.record.lo.get 0 < 2 ^ 32 ∧ (s.core 0).under = []
      ∧ ∀ i : Fin 4, ((s.core 0).engines.get i).cmds = [] := by decide +kernel
/-- The queue of the context has room, or holds 63 records. -/
theorem witness_FaultDelivery_queue : ctx1.conf = false ∧ s0.mem.wf = true
    ∧ (rdNat s0.mem (t1 ctx1.fqb) 4 + 2 ^ 32 - rdNat s0.mem (t1 (ctx1.fqb + 4)) 4) % 2 ^ 32 < 63
    ∧ (let m := wrNat s0.mem (t1 ctx1.fqb) 4 63
       m.wf = true ∧ 63 ≤ (rdNat m (t1 ctx1.fqb) 4 + 2 ^ 32 - rdNat m (t1 (ctx1.fqb + 4)) 4) % 2 ^ 32) := by decide +kernel
def heldCtx : Context := { ctx1 with state := 3, fault := true }
def heldState : State := { s0 with
  contexts := [(1, heldCtx)], tasks := [(1, { task1 with standing := .faultHeld, grants := [] })], cur := { s0.cur with a := 1 } }
theorem witness_FaultDelivery_release : mget heldState.cur.a heldState.contexts = some heldCtx ∧ heldCtx.fault = true
    ∧ heldCtx.state = 3 ∧ heldState.boot = 3 ∧ risingFrom 0 heldState.tasks = true ∧ ctx1.fault = false := by decide +kernel

/-- Helm core `a` of die 0 with the given standings. -/
def helms (a b c since : Nat) (t : List (Fin 3 × Nat)) : State := { s0.onDie 0 fun d => { d with
  helm := #v[⟨a, since, 0, 0⟩, ⟨b, 0, 0, 0⟩, ⟨c, 0, 0, 0⟩], takeover := t } with cycle := 940 * 1000000 }
theorem witness_HelmCores : ((helms 0 0 1 0 []).die 0).takeover = [] ∧ (helms 0 0 1 0 []).boot = 3
    ∧ (((helms 0 0 1 0 []).die 0).helm.get 0).status = 0 ∧ (helms 0 0 1 0 []).cur.num = 0 ∧ (helms 0 0 1 0 []).cur.a = 0
    ∧ (((helms 0 0 1 0 []).die 0).helm.get 2).status = 1
    ∧ (∀ j : Fin 3, j ≠ 0 → (((helms 0 4 4 0 []).die 0).helm.get j).status ≠ 1 ∧ (((helms 0 4 4 0 []).die 0).helm.get j).status ≠ 0)
    ∧ ((0, 7) ∈ ((helms 2 0 1 0 [(0, 7)]).die 0).takeover ∧ 7 ≤ (helms 2 0 1 0 [(0, 7)]).cycle)
    ∧ ((helms 2 0 1 0 [(0, 7)]).die 0).taker 0 = some 2 ∧ (((helms 2 0 1 0 []).die 0).helm.get 0).status ≠ 0
    ∧ (((helms 3 0 1 0 []).die 0).helm.get 0).status = 3
    ∧ (helms 3 0 1 0 []).cycle = (((helms 3 0 1 0 []).die 0).helm.get 0).since + 1000000 * 940
    ∧ (helms 3 0 1 5 []).cycle < (((helms 3 0 1 5 []).die 0).helm.get 0).since + 1000000 * 940 := by decide +kernel

/-- A journal entry that the relief core's copy holds; one for a QCB whose update is done, and one for a parked context. -/
theorem witness_HelmCores_replay : (∀ e ∈ ((helms 2 0 1 0 [(0, 7)]).die 0).journal, e.jseq < (((helms 2 0 1 0 [(0, 7)]).die 0).helm.get 2).copied)
    ∧ s0.qcb 4 0 4 % 2 = 0 ∧ s0.qcb 4 0 4 ≠ (2 ^ 64 : Nat) / 2 ^ 64
    ∧ mget 1 ({ s0 with contexts := [(1, { ctx1 with state := 3 })] } : State).contexts = some { ctx1 with state := 3 }
    ∧ ({ s0.cur with word := 1 } : Turn).word = 1 ∧ s0.cur.word ≠ 1 := by decide +kernel

def request3 : LinkReq := ⟨0, .ctl, 1, 8, false, 3, 2⟩
def remote (r : RemoteReq) : State := { s0 with cur := { s0.cur with remote := r, link := request3 } }
theorem witness_LinksAndHost : (Fin.ofNat 4 s0.cur.a ∉ s0.uciDown) ∧ Fin.ofNat 12 s0.cur.a ∉ s0.uaDown ∧ Fin.ofNat 2 s0.cur.a ∉ s0.cxlDown
    ∧ 0 ∈ ({ s0 with uciDown := [0] } : State).uciDown ∧ 0 ∈ ({ s0 with uaDown := [0] } : State).uaDown
    ∧ 0 ∈ ({ s0 with cxlDown := [0] } : State).cxlDown
    ∧ (remote (.read 0x10000 8)).cur.link.seq = .ctl ∧ ((remote (.read 0x10000 8)).core 0).task ≠ none
    ∧ ((remote (.read 0x10000 8)).core 0).faultAt = none ∧ (remote (.read 0x10000 8)).cur.remote = .read 0x10000 8
    ∧ (∀ b ∈ keysFrom (t1 (0x10000 % 2 ^ 42)) 8, isAperture b = false) ∧ s0.failing = [] ∧ s0.lineKeys = [] ∧ s0.mem.wf = true
    ∧ (remote (.write 0x10000 [1, 2])).cur.remote = .write 0x10000 [1, 2]
    ∧ (remote (.atomic 0x10000 0 true 5 0)).cur.remote = .atomic 0x10000 0 true 5 0
    ∧ (∃ a < 8, (t1 0x10000 + a) / 64 ∈ ({ remote (.atomic 0x10000 0 true 5 0) with poisoned := [t1 0x10000 / 64] } : State).poisoned)
    ∧ (remote (.atomic 0x10000 0 true 5 0)).poisoned = [] ∧ (remote (.atomic 0x10000 0 true 5 0)).mended = []
    ∧ (s0.cur.a + 8 ≤ 2 ^ 36 ∧ 2 ^ 36 < ({ s0.cur with a := 2 ^ 36 - 4 } : Turn).a + 8)
    ∧ s0.pcieDown = false ∧ ({ s0 with pcieDown := true } : State).pcieDown = true
    ∧ (let k := t1 (fld s0.hwbase.toNat 30 22 * 2 ^ 30 + s0.cur.a)
       isAperture k = false ∧ (∀ b ∈ keysFrom k 8, isAperture b = false) ∧ s0.secured k 8 = false) ∧ s0.cur.flag = false
    ∧ s0.secured (t1 (0x10000 % 2 ^ 42)) 8 = false ∧ s0.secured (t1 0x4000) 8 = true ∧ s0.secured (t1 0x20000) 2 = true := by
  decide +kernel
/-- A write of another package that covers a whole poisoned line. -/
theorem witness_LinksAndHost_mends : let k := t1 (0x10000 % 2 ^ 42)
    let s : State := { remote (.write 0x10000 (List.replicate 64 1)) with poisoned := [k / 64] }
    k / 64 ∈ s.poisoned ∧ s.mended = [] ∧ s.failing = [] ∧ 64 * (k / 64) = k ∧ (List.replicate 64 (1 : Byte)).length = 64
      ∧ s.secured k 64 = false ∧ s.mem.wf = true := by decide +kernel
/-- A page of the non-secure world, which the host reaches through BAR4, and a request of a move to another package. -/
def hosted : State := { s0 with mem := memOf (leafAt 0x10), contexts := [(1, { ctx1 with savel := 0 })], cur := { s0.cur with a := 0x10000, b := 8 } }
theorem witness_LinksAndHost_reach : hosted.hostReaches (t1 (fld hosted.hwbase.toNat 30 22 * 2 ^ 30 + hosted.cur.a)) 8 = true
    ∧ hosted.hostReaches (t1 0x4000) 8 = false ∧ hosted.inImage 0x10000 = false
    ∧ ({ hosted with boot := 1 } : State).inImage 0x10000 = true ∧ hosted.cur.a + 8 ≤ 2 ^ (30 + hosted.bar4)
    ∧ (∀ b ∈ keysFrom (t1 0x10000) 8, hosted.hidden (tagged (outTag hosted.allPages b) b / 64) = none)
    ∧ hosted.Clean ∧ outTag hosted.allPages (t1 0x10000) = 1 ∧ outTag hosted.allPages (t1 0x90000) = 128
    ∧ (∀ j, j < 8 → (hosted.bellAt .pf (32 + j)).isSome = true) ∧ hosted.bellAt .pf (2 ^ 23) = none := by
  unfold State.Clean
  decide +kernel
theorem witness_LinksAndHost_moves : let m : Move := ⟨1, 0x4000, 4096, t1 0x10000, tierKey 3 0x20000, 3, 0x20, 9, 1, 0, 0, 0⟩
    let s : State := { s0 with moves := [(0x4000, m)], cur := { s0.cur with a := 0x4000, b := 1 } }
    mget s.cur.a s.moves = some m ∧ keyTier m.dst = 3 ∧ risingFrom 0 s.moves = true
      ∧ keyTier (mv 9).src ≠ 3 ∧ keyTier (mv 9).dst ≠ 3 ∧ s0.cur.b ≠ 1 := by decide +kernel
/-- A window of the host that reaches the doorbell aperture. -/
theorem witness_LinksAndHost_bells : ∃ v : Dword, isAperture (t1 (fld v.toNat 30 22 * 2 ^ 30)) = true :=
  ⟨BitVec.ofNat 64 (2 ^ 51), by decide⟩

def powered (tmax icore hot act : Nat) : State := { s0 with
  tmax := BitVec.ofNat 8 tmax, icore := BitVec.ofNat 16 icore, hot := hot = 1, cur := { s0.cur with a := act }, vcore := 700 }
theorem witness_PowerAndHeat : 105 ≤ (powered 105 0 0 0).tmax.toNat ∧ (powered 99 0 0 0).tmax.toNat < 100
    ∧ (100 ≤ (powered 100 0 0 0).tmax.toNat ∧ (powered 104 0 0 0).tmax.toNat < 105)
    ∧ (powered 100 0 1 0).hot = true ∧ 8 * fld (powered 0 0 0 24001).plimNow.toNat 0 12 < (powered 0 0 0 24001).cur.a
    ∧ 6000 < (powered 0 6001 0 0).icore.toNat
    ∧ ¬ ((powered 0 6000 0 24000).hot = true ∨ 8 * fld (powered 0 6000 0 24000).plimNow.toNat 0 12 < (powered 0 6000 0 24000).cur.a
      ∨ 8 * fld (powered 0 6000 0 24000).plimNow.toNat 32 12 < (powered 0 6000 0 24000).pwr.toNat
      ∨ 6000 < (powered 0 6000 0 24000).icore.toNat)
    ∧ (powered 120 0 0 0).railsOff = false ∧ 120 ≤ (powered 120 0 0 0).tmax.toNat ∧ (powered 120 0 0 0).cur.a = 0
    ∧ (powered 119 0 0 0).tmax.toNat < 120 := by decide +kernel
theorem witness_PowerAndHeat_trips : ({ powered 0 0 0 1 with vcore := 599 } : State).vcore.toNat < 600
    ∧ (powered 0 6001 0 2).cur.a = 2 ∧ ({ powered 0 6001 0 2 with gating := 0 } : State).gating = 0
    ∧ s0.cycle % 940 = 0 ∧ s0.cycle % 9400 = 0 ∧ ({ s0 with cycle := 940 } : State).cycle % 9400 ≠ 0
    ∧ ({ s0 with cycle := 1 } : State).cycle % 940 ≠ 0
    ∧ 2 ≤ ({ s0 with lowFor := 2 } : State).lowFor ∧ 2 ≤ ({ s0 with overFor := 2 } : State).overFor ∧ t1 0x10000 / 64 < 2 ^ 48
    ∧ s0.failing = [] ∧ ({ s0 with failing := [(0x10000 / 64, 1)] } : State).failing = [(0x10000 / 64, 1)]
    ∧ frameDie (64 * (t1 0x10000 / 64)) = some s0.cur.die := by decide +kernel

def keyed (op kid : Nat) : State := { s0 with
  keyBusy := true, keyOp := op, keyKid := kid, cur := { s0.cur with a := kid }, mem := memOf leaf0.bits }
theorem witness_BootKeysAndRegisters : s0.mem.wf = true ∧ s0.boot ≠ 1 ∧ ({ s0 with boot := 1 } : State).boot = 1
    ∧ (keyed 1 1).keyBusy = true ∧ s0.keyBusy = false ∧ s0.cur.a = 0 ∧ (keyed 1 1).cur.a = 1 ∧ (1 ≤ 127 ∧ 127 < 128)
    ∧ (keyed 1 1).keyOp = 1 ∧ (keyed 2 1).keyOp = 2 ∧ (keyed 2 1).keyMoving 1 = false ∧ (keyed 2 1).mem.wf = true
    ∧ (keyed 2 1).keyPages 1 = [(0x10000, 4096)]
    ∧ ({ keyed 2 1 with moves := [(0x4000, mv 9)] } : State).keyMoving 1 = true
    ∧ ({ s0 with pkgSet := true } : State).pkgSet = true ∧ s0.pkgSet = false := by decide +kernel
/-- The keys of the command in progress, and a memory-side cache that holds nothing dirty. -/
theorem witness_BootKeysAndRegisters_keys : ({ keyed 2 1 with keyFor := 1 } : State).keyFor < 128 ∧ s0.behind = []
    ∧ tagOf (tagged 1 (t1 0x10000) / 64) % 128 = 1 ∧ (mget 9 s0.contexts).getD Context.free = Context.free
    ∧ Context.free.state = 0 ∧ ctx1.state ≠ 0 := by decide +kernel
/-- A register write at offset `o` by the package's own software or, with `own` false, by the host. -/
def writes (o v : Nat) (own : Bool) : State := { s0 with cur := { s0.cur with a := o, num := v, flag := own } }
theorem witness_BootKeysAndRegisters_writes : (writes 0 (5 * 2 ^ 16) true).cur.flag = true
    ∧ fld ((writes 0 (5 * 2 ^ 16) true).cur.num % 2 ^ 64) 16 16 ≠ 0 ∧ fld ((writes 0 1 true).cur.num % 2 ^ 64) 16 16 = 0
    ∧ ((writes 8 0 false).cur.flag = false ∧ (writes 8 0 false).cur.a < 0x200)
    ∧ ((writes 0x1000 0 false).cur.a < 0x1800 ∧ 0x200 ≤ (writes 0x1000 0 false).cur.a)
    ∧ (fld (32 + 8 * 2 ^ 8) 0 6 ≠ 0 ∧ fld (32 + 8 * 2 ^ 8) 8 4 ≤ 8) ∧ (12 ≤ fld 26 0 5 ∧ fld 26 0 5 ≤ 26)
    ∧ (let v := 500 + 1000 * 2 ^ 16 + 3000 * 2 ^ 32
       500 ≤ fld v 0 12 ∧ fld v 0 12 ≤ fld v 32 12 ∧ fld v 32 12 ≤ 3000 ∧ 1 ≤ fld v 16 10 ∧ fld v 16 10 ≤ 1000)
    ∧ fld 499 0 12 < 500 ∧ fld (2047 + 2 ^ 16) 0 11 + fld (2047 + 2 ^ 16) 16 12 ≤ 2048
    ∧ 2048 < fld (2047 + 2 * 2 ^ 16) 0 11 + fld (2047 + 2 * 2 ^ 16) 16 12 ∧ s0.cur.die = 0 ∧ s0.cur.b ≠ 1 := by decide +kernel
/-- System software writes BTLEN of the context-table entry of context 1, and the host reads ENERGY. -/
theorem witness_BootKeysAndRegisters_entry : let s : State := { s0 with cur := { s0.cur with a := 512 + 24, b := 1, num := 2, flag := true } }
    s.cur.b = 1 ∧ s.cur.flag = true ∧ s.cur.a / 512 = 1 ∧ s.cur.a % 8 = 0 ∧ s.cur.a % 512 = 8 * 3 ∧ fld 2 0 21 ≤ 2 ^ 20
      ∧ (let r : State := { s0 with cur := { s0.cur with a := 0x2018, b := 8, flag := true } }
         r.pcieDown = false ∧ r.cur.flag = true ∧ r.cur.b = 8 ∧ r.cur.a % 2 ^ 24 = 0x2018 ∧ Fin.ofNat 4 (r.cur.a / 2 ^ 24) = 0
           ∧ r.cur.num = 0) := by
  decide +kernel
/-- The Helm reads PBBASE, and system software the first doubleword of the entry of context 1. -/
theorem witness_BootKeysAndRegisters_secure :
    (let r : State := { s0 with cur := { s0.cur with a := 0x10, b := 8, num := 1, flag := true } }
     r.cur.num = 1 ∧ r.cur.flag = true ∧ r.cur.b = 8 ∧ r.cur.a % 2 ^ 24 = 0x10 ∧ r.cur.a < 2 ^ 26)
    ∧ (let r : State := { s0 with cur := { s0.cur with a := 512, b := 8, num := 2, flag := true }, contexts := [(1, ctx1)] }
       r.cur.num = 2 ∧ r.cur.a % 512 = 0 ∧ mget (r.cur.a / 512) r.contexts = some ctx1 ∧ ctx1.state < 16 ∧ ctx1.prsn < 16
        ∧ ctx1.cls < 8) ∧ mget 2 s0.contexts = none := by
  decide +kernel

/-- A request at the accounting port for core 0 or, with bit 16 clear, context 1, that ends in cycle `t`. -/
def samples (q t : Nat) : State := { s0.onDie 0 fun d => { d with accq := BitVec.ofNat 64 q, accT := some t } with cycle := 9 }
theorem witness_Accounting : (s0.die 0).accT = none ∧ 9 < 10 ∧ (samples (2 ^ 16) 10).cycle = 9
    ∧ ((samples (2 ^ 16) 9).die 0).accT = some 9 ∧ bitAt ((samples (2 ^ 16) 9).die 0).accq.toNat 16 = true
    ∧ fld ((samples (2 ^ 16) 9).die 0).accq.toNat 0 16 = (0 : CoreId).val ∧ (samples (2 ^ 16) 9).cycle < 2 ^ 64
    ∧ ((samples (2 ^ 16) 9).core 0).zero < 2 ^ 48 ∧ (∀ i : Fin 16, ((samples (2 ^ 16) 9).core 0).counters.get i < 2 ^ 48)
    ∧ s0.Runs 1 task1 ∧ mget task1.record.ctx s0.contexts = some ctx1 ∧ ∀ v ∈ ctx1.acct.toList, v < 2 ^ 48 := by
  unfold State.Runs
  decide +kernel
def sampled : State := { (samples 1 9).putCore 0 Core.reset with contexts := [(1, ctx1)] }
theorem witness_Accounting_context : bitAt (sampled.die 0).accq.toNat 16 = false ∧ fld (sampled.die 0).accq.toNat 0 16 = 1
    ∧ mget 1 sampled.contexts = some ctx1 ∧ (∀ c, (sampled.taskOn c).map (·.record.ctx) ≠ some 1) ∧ ctx1.disc < 2 ^ 48
    ∧ (∀ i : Fin 16, ctx1.acct.get i < 2 ^ 48 ∧ ctx1.tokq.get i < 2 ^ 48) ∧ ∀ i : Fin 4, ctx1.qfull.get i < 2 ^ 48 := by decide +kernel

/-- A window open since cycle 0, with a sample each 8 cycles, under key 1, and the records of its cycle so far. -/
def traced (cycle put : Nat) : State := { s0.onDie 0 fun d => { d with
  trace := { d.trace with en := true, openW := true, sper := 8, seqm := 15, key := 1, base := 0x40000, inCycle := put } } with cycle := cycle }
theorem witness_Tracing : ((traced (2 ^ 24) 0).die 0).trace.openW = true ∧ ((traced 0 0).die 0).trace.openedAt = 0
    ∧ (2 ^ 24 - 0) % 2 ^ 24 = 0 ∧ (traced 1 0).cycle % 8 ≠ 0 ∧ ((traced 1 0).die 0).trace.sper = 8
    ∧ ((traced 0 0).die 0).trace.en = true ∧ (s0.die 0).trace.en = false ∧ (traced 0 0).mem.wf = true
    ∧ (mget 1 (traced 0 0).contexts).map (·.conf) ≠ some true ∧ ((traced 0 0).die 0).trace.key < 128
    ∧ ((traced 0 3).die 0).trace.inCycle < 4 ∧ ¬ ((traced 0 4).die 0).trace.inCycle < 4
    ∧ (((traced 0 3).keys[1]?).bind id).isSome = true ∧ (traced 0 3).linkFail 0 (t1 0x40000) = none
    ∧ recordPlace 0 < recordPlace (2 ^ 16) ∧ (287 : Nat) < 2 ^ 9 := by decide +kernel

/-- The turn of a breakpoint's sample on the control sequencer of core 0, whose run is that of context 1. -/
theorem witness_Tracing_sample : let s : State := { (traced 9 0).onMe fun k => { k with runs := k.runs.set 0 (some ⟨1, .issue, 0, 3, 3, 4, 0, false⟩) } with
      cur := { s0.cur with a := 1 } }
    s.cur.a = 1 + (0 : Fin 4).val ∧ s.cur.die = dieOf s.cur.core ∧ (s.die s.cur.die).trace.openW = true
      ∧ (s.die s.cur.die).trace.en = true ∧ s.me.runs.get 0 = some ⟨1, .issue, 0, 3, 3, 4, 0, false⟩
      ∧ admitted (s.die s.cur.die).trace.seqm.toNat (s.die s.cur.die).trace.fctx 0 1 = true := by decide +kernel

/-- A stopped core, with the die's slots from `free` on free. -/
def stops (src : Nat) (fs : List Raised) (stopv : Nat) : State :=
  (world { core0 with mode := .debug src 7 2, faults := fs } .ctl).onDie 0 fun d => { d with stopv := BitVec.ofNat 8 stopv }
theorem witness_DebugStops : (∀ fs ∈ [[], [raised1]], (stops 0 fs 1).me.mode = .debug 0 7 2 ∧ (stops 0 fs 1).me.faults = fs)
    ∧ s0.me.mode = .run ∧ s0.debugOn 0 s0.myCtxN = false
    ∧ ({ s0 with mem := wrByte s0.mem (t1 0) 2 } : State).debugOn 0 s0.myCtxN = true
    ∧ (stops 0 [] 1).Runs 1 task1 ∧ (stops 0 [] 1).me.startedDone 1 = true ∧ (∀ p ∈ (stops 0 [] 1).me.pending, p.interlocked = true)
    ∧ ((stops 0 [] 1).me.seq .ctl).delay = none ∧ (∀ k, ((stops 0 [] 1).die 0).stopsOf.get k ≠ some 0)
    ∧ ((stops 0 [] 1).die 0).stopv.getLsbD 1 = false ∧ (∀ k : Fin 8, k < 1 → ((stops 0 [] 1).die 0).stopv.getLsbD k.val = true)
    ∧ (∀ j : Fin 8, ((stops 0 [] 255).die 0).stopv.getLsbD j.val = true) ∧ task1.record.ctx < 2 ^ 16 ∧ task1.record.team < 2 ^ 24
    ∧ (stops 0 [] 1).me.under = [] := by
  unfold State.Runs
  decide +kernel
theorem witness_DebugStops_dump : (stops 0 [] 1).me.task = some 1 ∧ ∃ u, saveTask 0 1 false (stops 0 [] 1) = (some 1, u) :=
  ⟨by decide, saves_of (t := task1) (x := ctx1) (by decide) (by decide) (by decide)⟩
/-- A stop whose record is still to be placed, in cycle 9, before and after a resume; a stop of a task that was leaving its core; and
a command that comes while a placement loads. -/
theorem witness_DebugStops_waits : let s (go : Bool) : State := (stops 0 [] 1).onMe fun k => { k with stopAt := some 9, stopGo := go }
    (∀ go ∈ [false, true], (s go).me.stopAt = some 9 ∧ (s go).me.stopGo = go ∧ (s go).me.settled = true ∧ (s go).me.endHolds = []
      ∧ (s go).me.faults = [])
    ∧ (stops 0 [] 1).me.stopAt = none
    ∧ (world { core0 with mode := .drain .yield } .ctl).me.mode = .drain .yield
    ∧ (world { core0 with mode := .load 9 false } .ctl).me.mode = .load 9 false
    ∧ (world { core0 with endHolds := [(1, 4, 0)] } .ctl).me.endHolds ≠ [] := by decide +kernel
/-- A context whose save area has no blocks. -/
theorem witness_DebugStops_undumped :
    (saveTask 0 1 false { stops 0 [] 1 with contexts := [(1, { ctx1 with savel := 0 })] }).1 = none := by decide +kernel
/-- Breakpoint 2 at the head of the control sequencer, with ACT `act`. -/
def broken (act : Nat) : State := (world { core0.onSeq .ctl fun q => { q with isNew := true, pos := 6 } with mode := .run } .ctl).onDie 0
  fun d => { d with bps := d.bps.set 2 (BitVec.ofNat 64 (1 + act * 8 + 6 * 2 ^ 32)) }
theorem witness_DebugStops_breakpoint : ∀ act ∈ [0, 1, 2, 3],
    let s := broken act
    let b := ((s.die 0).bps.get 2).toNat
    s.Runs 1 task1 ∧ s.me.mode = .run ∧ bitAt b 0 = true ∧ fld b 1 2 = (0 : Fin 4).val ∧ fld b 16 16 = 0 ∧ fld b 3 2 = act
      ∧ (s.me.seqs.get 0).isNew = true ∧ (s.me.seqs.get 0).stopped = false ∧ (s.me.seqs.get 0).pos = fld b 32 32
      ∧ (∀ k, k ≠ 2 → bitAt ((s.die 0).bps.get k).toNat 0 = false) ∧ (s.die 0).trace.openW = false := by
  unfold State.Runs
  decide +kernel
/-! ### Encodings, steps and memory -/

theorem witness_Encoding : (Instr.divn 3 1 2).wf = true ∧ encode (.divn 3 1 2) = some (.ctl, 0x0430420F) ∧ (Instr.tsig 0).wf = true
    ∧ decodeWord .ctl 0x0430420F = .ok (.divn 3 1 2) ∧ (0x0430420F : Nat) < 2 ^ 32 := by decide +kernel
theorem witness_Encoding_shared : (Instr.copy ⟨none, some 1, 4, 0, 2, 0, 0⟩).wf = true
    ∧ encode (.copy ⟨none, some 1, 4, 0, 2, 0, 0⟩) = some (.ld, 0x010424000000100000000000)
    ∧ (∀ x, Instr.copy ⟨none, some 1, 4, 0, 2, 0, 0⟩ ≠ .bcopy x) ∧ (∀ g h o n, Instr.copy ⟨none, some 1, 4, 0, 2, 0, 0⟩ ≠ .pref g h o n)
    ∧ ∀ x h, Instr.copy ⟨none, some 1, 4, 0, 2, 0, 0⟩ ≠ .gather x h :=
  ⟨by decide, by decide, by intros; simp, by intros; simp, by intros; simp⟩

/-- The core with words in its sections, all its sequencers but `q` stopped and `q` at position 0, about to take its turn. The bytes
of position 0 are there once the core runs. -/
def about (q : Seq) (c : List Word) (w : List (BitVec 96)) (delay : Option (Nat × Option Nat × Nat)) : State :=
  let k := { core0 with
    seqs := Vector.replicate 4 { Sequencer.fresh with stopped := true }
    plane := { core0.plane with ctl := c, ld := w, st := w, cmp := w } }
  { world (k.onSeq q fun _ => { Sequencer.fresh with delay := delay }) .ctl with agenda := [Turn.issueOf 0 q] }
def wDivn : List Word := [0x0430420F]
def wCopy : List (BitVec 96) := [0x010424000000100000000000]
def wLoops : List (BitVec 96) := [0xFC0000000000000004000000]
def wMmaM : List (BitVec 96) := [0x010040000004000000020401, 0x000001000000000000000002]
def iCopy : Instr := .copy ⟨none, some 1, 4, 0, 2, 0, 0⟩
def iMma : Instr := .mma ⟨none, 1, 0, 2, 0, 16, 256, 0, 0, 0, 0, .add, false, false, false⟩
def settled (s : State) (t : Turn) : State := settleHead { s with cur := t, agenda := [] }
theorem witness_StepRunsDecoded : s0.agenda = [] ∧ ∀ q ∈ [Seq.ctl, .ld, .st, .cmp], ∀ w ∈ [wCopy, wLoops, wMmaM],
    let s := about q wDivn w none
    let t := Turn.issueOf 0 q
    s.agenda = [t] ∧ t.kind = .issue ∧ (s.core t.core).mode = .run ∧ ((s.core t.core).seq t.seq).stopped = false
      ∧ ((s.core t.core).seq t.seq).acting = none ∧ ((s.core t.core).seq t.seq).hold ≤ s.cycle
      ∧ ((s.core t.core).seq t.seq).target ≤ s.cycle ∧ ((s.core t.core).seq t.seq).pos = 0 ∧ ((s.core t.core).seq t.seq).delay = none
      ∧ (settled s t).pos = 0 := by decide +kernel
theorem witness_StepRunsDecoded_words : decodeWord .ctl 0x0430420F = .ok (.divn 3 1 2)
    ∧ decodeWord .ld 0x010424000000100000000000 = .ok iCopy ∧ decodeWord .st 0x010424000000100000000000 = .ok iCopy
    ∧ fld 0xFC0000000000000004000000 0 2 = 0 ∧ decodeWord .vec 0xFC0000000000000004000000 = .ok (.loopsCmp 4)
    ∧ fld 0x010040000004000000020401 0 2 = 1
    ∧ decodeWord .mat (0x010040000004000000020401 * 2 ^ 96 + 0x000001000000000000000002) = .ok iMma := by decide +kernel
theorem unfetched_zero {s : State} (h : s.pos = 0) : s.unfetched = false := by simp [State.unfetched, h]
theorem witness_StepRunsDecoded_free : (settled (about .ctl wDivn [] none) (Turn.issueOf 0 .ctl)).me.interlocked (.divn 3 1 2) = false
    ∧ (settled (about .ld [] wCopy none) (Turn.issueOf 0 .ld)).me.interlocked iCopy = false
    ∧ (settled (about .cmp [] wLoops none) (Turn.issueOf 0 .cmp)).me.interlocked (.loopsCmp 4) = false
    ∧ (settled (about .cmp [] wMmaM none) (Turn.issueOf 0 .cmp)).me.interlocked iMma = false
    ∧ (settled (about .cmp [] wMmaM none) (Turn.issueOf 0 .cmp)).unfetched = false :=
  ⟨by decide +kernel, by decide +kernel, by decide +kernel, by decide +kernel, unfetched_zero (by decide +kernel)⟩
/-- The turn of core 0's heads, where a fault of an engine of this cycle has stopped the core. -/
theorem witness_StepRunsDecoded_heads : let t : Turn := { Turn.issueOf 0 .ctl with kind := .heads, a := 1 }
    let s : State := { world { core0 with mode := .fault, faultAt := some 0, faults := [⟨9, .ld, 0, 0, 0, 0, 0, false⟩] } .ctl with agenda := [t] }
    s.agenda = t :: [] ∧ t.kind = .heads ∧ t.a ≠ 0 ∧ s.me.faultsNow s.cycle = true := by decide +kernel
/-- A COMMIT that waits for the stores before cycle 5, with one of them in flight and with none. -/
theorem witness_StepRunsDecoded_act : ∀ m ∈ [[], [cmd (.fill xf) .st 0 [] 1]],
    let k := (core0.onEngine .store fun e => { e with cmds := m }).onSeq .ctl fun q => { q with acting := some (.stores .commit 5) }
    let s : State := { world k .ctl with agenda := [Turn.issueOf 0 .ctl] }
    (s.core 0).mode = .run ∧ ((s.core 0).seq .ctl).stopped = false ∧ ((s.core 0).seq .ctl).acting = some (.stores .commit 5)
      ∧ (settled s (Turn.issueOf 0 .ctl)).storesBefore 5 = !m.isEmpty := by decide +kernel
/-- The turn of an event. -/
theorem witness_StepRunsDecoded_event : ({ s0 with agenda := [{ s0.cur with kind := .act, instr := .traceGo }] } : State).agenda
    = { s0.cur with kind := .act, instr := .traceGo } :: [] ∧ ({ s0.cur with kind := .act } : Turn).kind ≠ .issue := by decide +kernel

/-- An illegal and a reserved word, an empty section, and a J that comes in a delay slot. -/
theorem witness_CyclesAndCharges : ∀ w ∈ [[0], [0xB0800001], [], [(0x7400004D : Word)]],
    let s := about .ctl w [] (if w = [0x7400004D] then some (1, none, 0) else none)
    let v := settled s (Turn.issueOf 0 .ctl)
    s.agenda = [Turn.issueOf 0 .ctl] ∧ (s.core 0).mode = .run ∧ ((s.core 0).seq .ctl).stopped = false
      ∧ ((s.core 0).seq .ctl).acting = none ∧ ((s.core 0).seq .ctl).hold ≤ s.cycle ∧ ((s.core 0).seq .ctl).target ≤ s.cycle
      ∧ ((s.core 0).seq .ctl).pos = 0 ∧ v.pos = 0 ∧ v.peers = [] ∧ (s.core 0).plane.ctl = w ∧ (s.core 0).owed = none
      ∧ (w = [0x7400004D] → ((s.core 0).seq .ctl).delay ≠ none) := by decide +kernel
/-- A core whose slots of cycle 0 are owed to a preemption of context 1. -/
theorem witness_CyclesAndCharges_owed : ((world { core0 with owed := some (0, 1, .preempt, Vector.replicate 4 0, false) } .ctl).core 0).owed
    = some (0, 1, .preempt, Vector.replicate 4 0, false) := by decide +kernel
theorem witness_CyclesAndCharges_words : decodeWord .ctl 0 = .illegal ∧ decodeWord .ctl 0xB0800001 = .reserved 0
    ∧ decodeWord .ctl 0x7400004D = .ok (.j 77) ∧ isTransfer (.j 77) = true := by decide +kernel

/-- Two bytes in canonical form. -/
theorem witness_CanonicalMemory : Memory.wf [(3, 5), (9, 1)] = true ∧ s0.mem.wf = true
    ∧ (∀ a, rdByte s0.mem a = rdByte s0.mem a) := ⟨by decide, by decide, fun _ => rfl⟩
/-- A step that issues an instruction answers a next state. -/
theorem witness_EveryStep : (match step (about .ctl wDivn [] none) with
    | .next t => t.cycle == 0 && t.gating == 15
    | _ => false) = true ∧ (about .ctl wDivn [] none).mem.wf = true ∧ (about .ctl wDivn [] none).gating ≤ 15 := by decide +kernel
/-! ## Results that the spec works out -/

/-- The table of R176. -/
theorem test_division_corners : opDiv 7 0 = -1 ∧ opDivn 7 0 = -1 ∧ opRem 7 0 = 7 ∧ opRemn 7 0 = 7
    ∧ opDiv 0x8000000000000000 (-1) = 0x8000000000000000 ∧ opRem 0x8000000000000000 (-1) = 0 := by decide +kernel
/-- The quotient of a DIVN that issues in cycle 3 lands for cycle 13, and the register reads 0 until then (the example after R183). -/
theorem test_divn_lands_after_ten : (match exec (.divn 3 1 2) { world { core0 with x := (core0.x.set 1 100).set 2 7 } .ctl with cycle := 3 } with
    | .next t => t.me.pending == [⟨.x 3 14, 13, false, false⟩] && t.me.xr 3 == 0 && t.me.xr 1 == 100
    | _ => false) = true := by decide +kernel
/-- Case A of R379's examples: CALL at position 11 with SP = SPL = 0xF8. -/
theorem test_stack_fault : (match exec (.call 1) (world ({ core0 with sp := 0xF8, spl := 0xF8 }.onSeq .ctl fun q => { q with pos := 11 }) .ctl) with
    | .next t => t.me.faults.map (fun f => (f.cause, f.seq, f.eng, f.pos)) == [(5, .ctl, 15, 11)]
        && t.me.faults.map (fun f => (f.info0, f.info1)) == [(0xF0, 0x100 * 2 ^ 32 + 0xF8)] && t.me.sp == 0xF8
    | _ => false) = true := by decide +kernel
/-- The examples of conversion into E4M3 (R131). -/
theorem test_e4m3_overflow : convert .f32 .e4m3 .rne false none false 0 0x43E80000 = (0x7E, false)
    ∧ convert .f32 .e4m3 .rne false none false 0 0x43E88000 = (0x7E, true)
    ∧ convert .f32 .e4m3 .rne true none false 0 0x43E88000 = (0x7F, true) := by decide +kernel
/-- The example of block_sum (R137): 1 + 2^-24 + 2^-70 rounds to 1. -/
theorem test_block_sum : blockSum [.fin false 1 0, .fin false 1 (-24), .fin false 1 (-70)] = 0x3F800000 := by decide +kernel
/-- The table of R45's example. -/
def halved (hi0 lo1 hi1 : Nat) : TaskRec := { TaskRec.blank 1 1 with
  ndim := 2, hord := 1 + 4 * 0 + 16 * 3, lo := #v[0, lo1, 0], hi := #v[hi0, hi1, 0], gr := #v[4, 2, 0] }
theorem test_split_axis : splitAxis (halved 16 0 6) [0, 1, 2] [] = some 1 ∧ splitAxis (halved 16 2 6) [0, 1, 2] [] = some 1
    ∧ splitAxis (halved 16 0 2) [0, 1, 2] [] = some 0 ∧ splitAxis (halved 4 0 2) [0, 1, 2] [] = none
    ∧ (splitRecord (halved 16 2 6) 1).1.hi.get 1 = 4 ∧ (splitRecord (halved 16 2 6) 1).2.lo.get 1 = 4 := by decide +kernel
/-- A word placed at reset issues in the next step: ADDI x2, x1, 3. -/
theorem test_fetch_word : (match step (State.reset.withFetchWord 32 0x08204003) with
    | .next t => (t.core 0).x.get 2 == 3 && ((t.core 0).seq .ctl).pos == 1
    | _ => false) = true := by decide +kernel

end Sys2Proof.Tests
end

section
/-! PROOF. O59: memory in canonical form is the bytes that it holds (R3, R16). -/

namespace Sys2Proof.Machine

variable {α : Type}

/-- The least key of a rising map is found at once. -/
theorem mget_cons_self (j : Nat) (v : α) (t : SMap α) : mget j ((j, v) :: t) = some v := by simp [mget]

/-- A head whose key lies below every key of the tail is not in the tail. -/
theorem mget_tail {j : Nat} {v : α} {t : SMap α} {k : Nat} (ht : risingFrom (j + 1) t = true) (hk : k ≠ j) :
    mget k ((j, v) :: t) = mget k t := by
  simp only [mget]
  by_cases h : k < j
  · rw [if_pos h, mget_below (by omega) ht]
  · rw [if_neg h, if_neg hk]

/-- Maps with rising keys that hold the same values are equal. -/
theorem smap_ext {m n : SMap α} {b : Nat} (hm : risingFrom b m = true) (hn : risingFrom b n = true)
    (h : ∀ k, mget k m = mget k n) : m = n := by
  induction m generalizing b n with
  | nil =>
    cases n with
    | nil => rfl
    | cons c t => have := h c.1; simp [mget] at this
  | cons c t ih =>
    obtain ⟨j, v⟩ := c
    cases n with
    | nil => have := h j; simp [mget] at this
    | cons d u =>
      obtain ⟨i, w⟩ := d
      simp only [risingFrom, Bool.and_eq_true, decide_eq_true_eq] at hm hn
      have hi := h i
      have hj := h j
      rw [mget_cons_self] at hi hj
      have hji : j = i := by
        rcases Nat.lt_trichotomy j i with hlt | heq | hgt
        · simp [mget, hlt] at hj
        · exact heq
        · simp [mget, hgt] at hi
      subst hji
      have hvw : v = w := by simpa [mget_cons_self] using hj
      have htail : t = u := ih hm.2 hn.2 fun k => by
        by_cases hk : k < j + 1
        · rw [mget_below hk hm.2, mget_below hk hn.2]
        · have := h k
          rwa [mget_tail hm.2 (by omega), mget_tail hn.2 (by omega)] at this
      rw [hvw, htail]

/-- A canonical memory lists no byte 0. -/
theorem mget_ne_zero {m : Memory} (h : m.wf = true) {a : Nat} {v : Byte} (hv : mget a m = some v) : v ≠ 0 := by
  simp only [Memory.wf, Bool.and_eq_true] at h
  obtain ⟨-, hall⟩ := h
  induction m with
  | nil => simp [mget] at hv
  | cons c t ih =>
    simp only [List.all_cons, Bool.and_eq_true] at hall
    simp only [mget] at hv
    split at hv
    · exact nomatch hv
    · split at hv
      · cases hv; simpa using hall.1
      · exact ih hv hall.2

/-- What a canonical memory lists at an address is its byte there, unless that is 0. -/
theorem mget_eq_rdByte {m : Memory} (h : m.wf = true) (a : Nat) :
    mget a m = if rdByte m a = 0 then none else some (rdByte m a) := by
  cases hv : mget a m with
  | none => simp [rdByte, hv]
  | some v =>
    have hne : v ≠ 0 := mget_ne_zero h hv
    rw [show rdByte m a = v by simp [rdByte, hv], if_neg hne]

/-- Canonical memories that read alike are equal. -/
theorem memory_ext {m n : Memory} (hm : m.wf = true) (hn : n.wf = true) (h : ∀ a, rdByte m a = rdByte n a) : m = n :=
  smap_ext (Memory.wf_rising hm) (Memory.wf_rising hn) fun a => by rw [mget_eq_rdByte hm, mget_eq_rdByte hn, h a]

/-- Settles O59: equality from the values that rising keys hold, and the rules of `wrByte` and `wrNat`. -/
theorem canonicalMemory : Obligations.CanonicalMemory := by
  unfold Obligations.CanonicalMemory
  intro m hm
  refine ⟨fun m' hm' h => memory_ext hm hm' h, fun a v => ?_, fun a n v => ?_⟩
  · exact ⟨wrByte_wf hm a v, rdByte_wrByte_self hm a v, fun b hb => rdByte_wrByte_ne hm hb v⟩
  · refine ⟨wrNat_wf hm a n v, ?_, fun b hb => rdByte_wrNat_out hm a n v b hb⟩
    rw [rdNat_wrNat hm, Nat.pow_mul]

end Sys2Proof.Machine
end

section
/-! PROOF. O56: what a step does with each turn of the agenda (R7, R307; log 1). -/

namespace Sys2Proof.Machine

/-! ## The head that is settled -/

@[simp] theorem cur_settleHead (s : State) : (settleHead s).cur = s.cur := by
  unfold settleHead
  split
  · rfl
  · dsimp only [State.onMe, State.onCore, State.putCore]; split <;> rfl

@[simp] theorem cycle_settleHead (s : State) : (settleHead s).cycle = s.cycle := by
  unfold settleHead
  split
  · rfl
  · dsimp only [State.onMe, State.onCore, State.putCore]; split <;> rfl

/-- In a core that runs, the head of the turn's sequencer is no longer new, and nothing else of the core changes. -/
theorem me_settleHead {s : State} (h : s.me.mode = .run) :
    (settleHead s).me = s.me.onSeq s.cur.seq fun q => { q with isNew := false } := by
  unfold settleHead
  rw [h]
  show ((if s.pos = 0 then s else s.tick).onMe _).me = _
  rw [State.me_onMe]
  split <;> rfl

/-- The turn's sequencer once its head is settled. -/
theorem seq_settleHead {s : State} (h : s.me.mode = .run) :
    (settleHead s).me.seq s.cur.seq = { s.me.seq s.cur.seq with isNew := false } := by
  rw [me_settleHead h, Core.seq_onSeq_self]

theorem pos_settleHead {s : State} (h : s.me.mode = .run) : (settleHead s).pos = (s.me.seq s.cur.seq).pos := by
  rw [State.pos, cur_settleHead, seq_settleHead h]

theorem plane_settleHead {s : State} (h : s.me.mode = .run) : (settleHead s).me.plane = s.me.plane := by
  rw [me_settleHead h]; rfl

/-- A running core's choice is that of the turn's own stream. -/
theorem choice_settleHead {s : State} (h : s.me.mode = .run) : (settleHead s).choice = (settleHead s).ownChoice := by
  unfold State.choice
  rw [show (settleHead s).me.mode = .run by rw [me_settleHead h]; exact h]

/-! ## What the head decodes to, for each kind of stream -/

theorem head_ctl {k : Core} {p : Nat} {w : BitVec 32} (hp : (k.seq .ctl).pos = p) (hw : k.plane.ctl[p]? = some w) :
    k.head .ctl = some (w.toNat, 1, decodeWord .ctl w.toNat) := by
  subst hp; simp [Core.head, hw, decodeWord]

theorem head_ld {k : Core} {p : Nat} {w : BitVec 96} (hp : (k.seq .ld).pos = p) (hw : k.plane.ld[p]? = some w) :
    k.head .ld = some (w.toNat, 1, decodeWord .ld w.toNat) := by
  subst hp; simp [Core.head, hw, decodeWord]

theorem head_st {k : Core} {p : Nat} {w : BitVec 96} (hp : (k.seq .st).pos = p) (hw : k.plane.st[p]? = some w) :
    k.head .st = some (w.toNat, 1, decodeWord .st w.toNat) := by
  subst hp; simp [Core.head, hw, decodeWord]

/-- A first parcel whose code is 0 is a word of its own (R158). -/
theorem decodeCmp_vec {p : Nat} (h : fld p 0 2 = 0) (next : Option Nat) : decodeCmp p next = (decodeWord .vec p, 1) := by
  simp [decodeCmp, decodeWord, h]

/-- A first parcel whose code is 1 begins a matrix word where the two parcels decode as one (R158). -/
theorem decodeCmp_mat {p q : Nat} {i : Instr} (hp : fld p 0 2 = 1) (hi : (decodeCmp p (some q)).1 = .ok i) :
    decodeCmp p (some q) = (.ok i, 2) := by
  simp only [decodeCmp, hp] at hi ⊢
  split at hi
  · rw [if_pos ‹_›]; exact congrArg (·, 2) hi
  · exact nomatch hi

/-- A matrix word is decoded from its two parcels (R145). -/
theorem decodeWord_mat (p q : BitVec 96) :
    decodeWord .mat (p.toNat * 2 ^ 96 + q.toNat) = (decodeCmp p.toNat (some q.toNat)).1 := by
  have hdiv : (p.toNat * 2 ^ 96 + q.toNat) / 2 ^ 96 = p.toNat := by omega
  have hmod : (p.toNat * 2 ^ 96 + q.toNat) % 2 ^ 96 = q.toNat := by omega
  rw [decodeWord, hdiv, hmod]

theorem head_vec {k : Core} {p : Nat} {w : BitVec 96} (hp : (k.seq .cmp).pos = p) (hw : k.plane.cmp[p]? = some w)
    (hf : fld w.toNat 0 2 = 0) : k.head .cmp = some (w.toNat, 1, decodeWord .vec w.toNat) := by
  subst hp; simp [Core.head, hw, decodeCmp_vec hf]

theorem head_mat {k : Core} {p : Nat} {w w' : BitVec 96} {i : Instr} (hp : (k.seq .cmp).pos = p) (hw : k.plane.cmp[p]? = some w)
    (hw' : k.plane.cmp[p + 1]? = some w') (hf : fld w.toNat 0 2 = 1) (hi : decodeWord .mat (w.toNat * 2 ^ 96 + w'.toNat) = .ok i) :
    k.head .cmp = some (w.toNat * 2 ^ 96 + w'.toNat, 2, .ok i) := by
  subst hp; rw [decodeWord_mat] at hi; simp [Core.head, hw, hw', decodeCmp_mat hf hi]

/-! ## The steps -/

theorem step_issue {s : State} {t : Turn} {rest : List Turn} (ha : s.agenda = t :: rest) (hk : t.kind = .issue) :
    step s = issueTurn { s with cur := t, agenda := rest } := by
  simp only [step, ha, hk]; rfl

/-- The turn of a sequencer whose choice is known. -/
theorem issueTurn_choice {s : State} {ch : Choice} (h : (settleHead s).choice = ch) :
    issueTurn s = onNext (perform ch (settleHead s)) fun t =>
      chargeSlot (settleHead s).me (settleHead s).pos ch (withPeers (settleHead s).peers (settleHead s) t) := by
  rw [issueTurn, h]

/-- A running stream whose ordered act waits for the stores before it goes on waiting, or has its effect. -/
theorem choice_of_stores {s : State} {act : Late} {since : Nat} (hrun : s.me.mode = .run)
    (hstop : (s.me.seq s.cur.seq).stopped = false) (hact : (s.me.seq s.cur.seq).acting = some (.stores act since)) :
    (settleHead s).choice = if (settleHead s).storesBefore since then .rest (waitCause act) else .late act := by
  rw [choice_settleHead hrun]
  simp only [State.ownChoice, cur_settleHead, seq_settleHead hrun, hstop, hact]
  rfl

/-- A running stream that nothing holds back issues the instruction of its head. -/
theorem choice_of_head {s : State} {i : Instr} {w n : Nat} (hrun : s.me.mode = .run)
    (hstop : (s.me.seq s.cur.seq).stopped = false) (hact : (s.me.seq s.cur.seq).acting = none)
    (hhold : (s.me.seq s.cur.seq).hold ≤ s.cycle) (htarget : (s.me.seq s.cur.seq).target ≤ s.cycle)
    (hdelay : (s.me.seq s.cur.seq).delay = none ∨ isTransfer i = false) (hfetch : (settleHead s).unfetched = false)
    (hlock : (settleHead s).me.interlocked i = false) (hhead : (settleHead s).me.head s.cur.seq = some (w, n, .ok i)) :
    (settleHead s).choice = .issue i w n := by
  have hslot : ((s.me.seq s.cur.seq).delay.isSome && isTransfer i) = false := by
    rcases hdelay with h | h <;> simp [h]
  rw [choice_settleHead hrun]
  simp only [State.ownChoice, cur_settleHead, cycle_settleHead, seq_settleHead hrun, hstop, hact, hfetch, Core.atHead, hhead, hslot,
    hlock, Nat.not_lt.2 hhold, Nat.not_lt.2 htarget, if_neg, Bool.false_eq_true, not_false_eq_true]

/-- A turn before the events that may stop a core, its condition as a proposition. -/
theorem headsTurn_eq (v : State) :
    let w := settleHalving ((v.me.acts (v.cur.a == 2)).foldl tryHead v)
    headsTurn v = if v.cur.a ≠ 0 ∧ (v.me.faultsNow v.cycle = true ∨ ((v.cur.flag = true ∨ v.me.halving ≠ none) ∧ v.me.goes = true)) then
      if v.cur.b = 1 then halveFirst w else w else v := by
  simp only [headsTurn, Bool.and_eq_true, Bool.or_eq_true, bne_iff_ne, Option.isSome_iff_ne_none]

/-- Settles O56: each kind of turn by what `step` does with it, and a head by what its stream decodes to. -/
theorem stepRunsDecoded : Obligations.StepRunsDecoded := by
  unfold Obligations.StepRunsDecoded
  refine ⟨fun s ha => ?_, fun s t rest ha hk => ?_, fun s t rest ha hk => ?_, fun s t rest act since ha hk => ?_,
    fun s t rest i p ha hk => ?_⟩
  · simp only [step, ha]
  · rcases hk with hk | hk <;> simp only [step, ha, hk] <;> rfl
  · intro v w
    rw [show step s = .next (headsTurn v) by simp only [step, ha, hk]; rfl]
    exact congrArg _ (headsTurn_eq v)
  · intro q v hrun hstop hact
    let u : State := { s with cur := t, agenda := rest }
    have hch := choice_of_stores (s := u) hrun hstop hact
    have hpos : v.pos = q.pos := pos_settleHead (s := u) hrun
    have hcur : v.cur = t := cur_settleHead u
    refine ⟨fun hst => ?_, fun hst => ?_⟩
    · rw [show v.storesBefore since = true from hst] at hch
      rw [step_issue ha hk, issueTurn_choice hch, ← hpos]; rfl
    · rw [show v.storesBefore since = false from hst] at hch
      rw [step_issue ha hk, issueTurn_choice hch, ← hpos, ← hcur]; rfl
  · intro k q v hrun hstop hact hhold htarget hp hdelay hfetch hlock Runs
    let u : State := { s with cur := t, agenda := rest }
    have runs {w n : Nat} (hhead : v.me.head t.seq = some (w, n, .ok i)) : Runs w n := by
      have hpos : v.pos = p := (pos_settleHead (s := u) hrun).trans hp
      have hcur : v.cur = t := cur_settleHead u
      have hch := choice_of_head (s := u) hrun hstop hact hhold htarget hdelay hfetch hlock hhead
      have hiss : v.issuing i w = { v with cur := { t with instr := i, word := w, why := .issue, sub := 0 } } := by
        rw [State.issuing, hcur, ← hk]
      show step s = _
      rw [step_issue ha hk, issueTurn_choice hch, ← hiss, ← hpos]; rfl
    have hplane : v.me.plane = k.plane := plane_settleHead (s := u) hrun
    have hseq : (v.me.seq t.seq).pos = p := by
      rw [show v.me.seq t.seq = _ from seq_settleHead (s := u) hrun]; exact hp
    refine ⟨fun w hq hw hd => runs ?_, fun w hq hw hd => runs ?_, fun w hq hw hd => runs ?_, fun w hq hw hf hd => runs ?_,
      fun w w' hq hw hw' hf hd => runs ?_⟩ <;> rw [hq] at hseq ⊢
    · rw [head_ctl hseq (hplane ▸ hw), hd]
    · rw [head_ld hseq (hplane ▸ hw), hd]
    · rw [head_st hseq (hplane ▸ hw), hd]
    · rw [head_vec hseq (hplane ▸ hw) hf, hd]
    · exact head_mat hseq (hplane ▸ hw) (hplane ▸ hw') hf hd

end Sys2Proof.Machine
end

section
/-! PROOF. What each instruction of a stream keeps, where its meaning is more than one shared operation: memory in its canonical form,
D and the rollback number (`Kept`; R3, R16, R356, R359). -/

namespace Sys2Proof.Machine

variable (s : State)

/-! ## The control stream (R181 to R215) -/

theorem call_keeps (b : BReg) : Completes (.call b) s (Kept s) := by
  refine ⟨_, rfl, ?_⟩
  split
  · exact stackBad_keeps (.refl s) ‹_›
  · exact transfer_keeps (onMe_keeps (.refl s) _) _ _

theorem ret_keeps : Completes .ret s (Kept s) := by
  refine ⟨_, rfl, ?_⟩
  split
  · exact stackBad_keeps (.refl s) ‹_›
  · exact poolRead_keeps (.refl s) _ _ fun t => transfer_keeps (onMe_keeps (.refl t) _) _ _

theorem trap_keeps (code : BitVec 16) : Completes (.trap code) s (Kept s) :=
  ⟨_, rfl, kept_ite (takeTrap_keeps (.refl s) _) (stall_keeps (.refl s) _ _)⟩

theorem brk_keeps (code : BitVec 16) : Completes (.brk code) s (Kept s) :=
  ⟨_, rfl, kept_ite (kept_ite (stall_keeps (onMe_keeps (advance_keeps (.refl s)) _) _ _) (stall_keeps (.refl s) _ _))
    (advance_keeps (.refl s))⟩

theorem wfe_keeps : Completes .wfe s (Kept s) :=
  ⟨_, rfl, kept_ite (advance_keeps (onTask_keeps (.refl s) _ _)) (stall_keeps (.refl s) _ _)⟩

theorem hld_keeps (h : HReg) (a : XReg) (imm : BitVec 9) : Completes (.hld h a imm) s (Kept s) :=
  ⟨_, rfl, spadAt_keeps (.refl s) _ _ _ fun _ => poolRead_keeps (.refl s) _ _ fun t =>
    poolPoison_keeps (.refl t) _ _ (advance_keeps (postLater_keeps (.refl t) _ _))⟩

theorem hst_keeps (h : HReg) (a : XReg) (imm : BitVec 9) : Completes (.hst h a imm) s (Kept s) :=
  ⟨_, rfl, spadAt_keeps (.refl s) _ _ _ fun _ => advance_keeps (onMe_keeps (.refl s) _)⟩

theorem fqw_keeps (a : XReg) : Completes (.fqw a) s (Kept s) :=
  ⟨_, rfl, kept_ite (advance_keeps (onMe_keeps (.refl s) _)) (kept_ite (raise_keeps (.refl s) _ _ _) (stall_keeps (.refl s) _ _))⟩

theorem swr_keeps (r : SReg) (a : XReg) : Completes (.swr r a) s (Kept s) := by
  cases r with
  | spb | spl | sp => exact ⟨_, rfl, advance_keeps (onMe_keeps (.refl s) _)⟩
  | _ => exact ⟨_, rfl, advance_keeps (.refl s)⟩

theorem repart_keeps (a : XReg) : Completes (.repart a) s (Kept s) :=
  ⟨_, rfl, kept_ite (raise_keeps (.refl s) _ _ _) (kept_ite (stall_keeps (.refl s) _ _) (kept_ite (stall_keeps (tick_keeps (.refl s)) _ _)
    (stall_keeps (advance_keeps (onMe_keeps (leaveCache_keeps (.refl s) _) _)) _ _)))⟩

/-! ## Memory, order and barriers (R109 to R116, R192 to R204) -/

theorem flush_keeps (sc : Scope) (h : HReg) (a : XReg) : Completes (.flush sc h a) s (Kept s) :=
  ⟨_, rfl, rangeOp_keeps (.refl s) _ _ fun _ _ _ => ordered_keeps (.refl s) _ _ _ fun _ ht => flushEffect_keeps ht _ _ _ _⟩

theorem inv_keeps (sc : Scope) (h : HReg) (a : XReg) : Completes (.inv sc h a) s (Kept s) :=
  ⟨_, rfl, rangeOp_keeps (.refl s) _ _ fun _ _ _ => holdOn_keeps (acquireAt_keeps (advance_keeps (.refl s)) _ _ _)⟩

theorem fenceRel_keeps (sc : Scope) : Completes (.fenceRel sc) s (Kept s) :=
  ⟨_, rfl, ordered_keeps (.refl s) _ _ _ fun _ ht => fenceEffect_keeps ht _ _ _⟩

theorem fenceAr_keeps (sc : Scope) : Completes (.fenceAr sc) s (Kept s) :=
  ⟨_, rfl, ordered_keeps (.refl s) _ _ _ fun _ ht => fenceEffect_keeps ht _ _ _⟩

theorem phase_keeps (l : Level) : Completes (.phase l) s (Kept s) := by
  refine ⟨_, rfl, ?_⟩
  split
  · exact .refl s
  · exact kept_ite (raise_keeps (.refl s) _ _ _) (ordered_keeps (onTask_keeps (.refl s) _ _) _ _ _ fun _ ht => phaseEffect_keeps ht _)

theorem commit_keeps : Completes .commit s (Kept s) :=
  ⟨_, rfl, kept_ite (publishAll_keeps (advance_keeps (.refl s)) _ _ _ _) (ordered_keeps (.refl s) _ _ _ fun _ ht => commitEffect_keeps ht)⟩

theorem bslot_keeps (k : KReg) (h : HReg) (a : XReg) : Completes (.bslot k h a) s (Kept s) := by
  refine ⟨_, rfl, kept_ite (kept_ite (raise_keeps (.refl s) _ _ _) ?_) ?_⟩
  · exact poolRead_keeps (.refl s) _ _ fun t => advance_keeps (postLater_keeps (onSlotK_keeps (.refl t) _ _) _ _)
  · refine request_keeps (.refl s) _ _ _ _ _ fun ks _ integ ls => ?_
    have ht : Kept s (ls.foldl (fun t l => markLeaf (dieOf t.cur.core) l false 1 t) (acquireMoved s.cur.core ls (meetAtomic ls ks s))) :=
      kept_foldl (fun t l => markLeaf_keeps (.refl t) _ _ _ _) (acquireMoved_keeps (meetAtomic_keeps (.refl s) _ _) _ _) _
    refine readPoison_keeps ht _ _ _ ?_
    split
    · exact ht
    · dsimp only
      split
      · exact raise_keeps ht _ _ _
      · exact advance_keeps (postLater_keeps (onSlotK_keeps ht _ _) _ _)

theorem binit_keeps (k : KReg) (a : XReg) (sc : Scope) : Completes (.binit k a sc) s (Kept s) :=
  ⟨_, rfl, bound_keeps (.refl s) _ (kept_ite (raise_keeps (.refl s) _ _ _)
    (postAdvance_keeps (.refl s) _ _ fun t => onSlotK_keeps (.refl t) _ _))⟩

theorem bexpect_keeps (k : KReg) (a : XReg) : Completes (.bexpect k a) s (Kept s) :=
  ⟨_, rfl, bound_keeps (.refl s) _ (postAdvance_keeps (.refl s) _ _ Kept.refl)⟩

theorem barrive_keeps (k : KReg) : Completes (.barrive k) s (Kept s) :=
  ⟨_, rfl, bound_keeps (.refl s) _ (postAdvance_keeps (.refl s) _ _ Kept.refl)⟩

theorem bwait_keeps (k : KReg) : Completes (.bwait k) s (Kept s) :=
  ⟨_, rfl, bound_keeps (.refl s) _ (sound_keeps (.refl s) _ fun t => kept_ite (advance_keeps (seeFlip_keeps (.refl t) _))
    (stall_keeps (onMe_keeps (advance_keeps (addWaiter_keeps (.refl t) _ _ _)) _) _ _))⟩

theorem btest_keeps (f : FReg) (k : KReg) : Completes (.btest f k) s (Kept s) :=
  ⟨_, rfl, bound_keeps (.refl s) _ (sound_keeps (.refl s) _ fun t =>
    advance_keeps (postLater_keeps (kept_ite (seeFlip_keeps (.refl t) _) (.refl t)) _ _))⟩

/-! ## Tasks, contexts and pool objects (R50 to R54, R83, R204 to R216) -/

theorem spawn_keeps (a : XReg) : Completes (.spawn a) s (Kept s) := by
  refine ⟨_, rfl, ?_⟩
  split
  · exact .refl s
  · refine kept_ite (raise_keeps (.refl s) _ _ _) (poolRead_keeps (.refl s) _ _ fun t => ?_)
    dsimp only
    split
    · exact raise_keeps (.refl t) _ _ _
    · exact onMe_keeps (advance_keeps (refresh_keeps (onTeam_keeps (makeTask_keeps (pin_keeps (.refl t)) _ _ _) _ _) _ _)) _

theorem park_keeps (a : XReg) : Completes (.park a) s (Kept s) :=
  ⟨_, rfl, kept_ite (stall_keeps (.refl s) _ _) (kept_ite (raise_keeps (.refl s) _ _ _) (kept_ite (raise_keeps (.refl s) _ _ _)
    (kept_ite (stall_keeps (ordered_keeps (.refl s) _ _ _ fun _ ht => parkEffect_keeps ht) _ _) (leaveBy_keeps (.refl s) _))))⟩

theorem yield_keeps : Completes .yield s (Kept s) :=
  ⟨_, rfl, kept_ite (leaveBy_keeps (.refl s) _) (stall_keeps (.refl s) _ _)⟩

theorem wake_keeps (a : XReg) : Completes (.wake a) s (Kept s) :=
  ⟨_, rfl, advance_keeps (kept_ite (wakeCtx_keeps (.refl s) _ _) (onTask_keeps (.refl s) _ _))⟩

theorem sev_keeps : Completes .sev s (Kept s) :=
  ⟨_, rfl, advance_keeps (kept_ite (sevCtx_keeps (.refl s) _) (onTask_keeps (.refl s) _ _))⟩

theorem dmrw_keeps (a : XReg) : Completes (.dmrw a) s (Kept s) := by
  refine ⟨_, rfl, ?_⟩
  split
  · exact .refl s
  · exact kept_ite (raise_keeps (.refl s) _ _ _) (advance_keeps (onTask_keeps (.refl s) _ _))

theorem snapc_keeps (a : XReg) : Completes (.snapc a) s (Kept s) := by
  refine ⟨_, rfl, ?_⟩
  split
  · exact .refl s
  · refine kept_ite (raise_keeps (.refl s) _ _ _) (kept_ite (raise_keeps (.refl s) _ _ _) (kept_ite (raise_keeps (.refl s) _ _ _)
      (kept_ite ?_ (endBinding_keeps (advance_keeps (.refl s)) _))))
    split
    · exact raise_keeps (.refl s) _ _ _
    · exact ordered_keeps (.refl s) _ _ _ fun _ ht => snapEffect_keeps ht _

theorem chrd_keeps (d : XReg) (h : HReg) (a : XReg) : Completes (.chrd d h a) s (Kept s) := by
  refine ⟨_, rfl, ?_⟩
  split
  · exact .refl s
  · refine kept_ite (raise_keeps (.refl s) _ _ _) ?_
    split
    · exact raise_keeps (.refl s) _ _ _
    · refine kept_ite (raise_keeps (.refl s) _ _ _) ?_
      split
      · exact raise_keeps (.refl s) _ _ _
      · exact advance_keeps (postLater_keeps (postLater_keeps (.refl s) _ _) _ _)

/-! ## The engines (R218 to R283) -/

theorem copy_keeps (w : Xfer) : Completes (.copy w) s (Kept s) :=
  ⟨_, rfl, engineInstr_keeps (.refl s) (issueXfer_keeps (.refl s) _ _ _) fun t => startCopy_keeps (.refl t) _ _ _ _ _ _⟩

theorem copyt_keeps (w : Xfer) : Completes (.copyt w) s (Kept s) :=
  ⟨_, rfl, engineInstr_keeps (.refl s) (issueXfer_keeps (.refl s) _ _ _) fun t => startCopy_keeps (.refl t) _ _ _ _ _ _⟩

theorem copyc_keeps (w : Xfer) (mode : Rnd) (prop : Bool) : Completes (.copyc w mode prop) s (Kept s) :=
  ⟨_, rfl, engineInstr_keeps (.refl s) (issueXfer_keeps (.refl s) _ _ _) fun t => startCopy_keeps (.refl t) _ _ _ _ _ _⟩

theorem fill_keeps (w : Xfer) : Completes (.fill w) s (Kept s) :=
  ⟨_, rfl, engineInstr_keeps (.refl s) (issueXfer_keeps (.refl s) _ _ _) fun t => startCopy_keeps (.refl t) _ _ _ _ _ _⟩

theorem gather_keeps (w : Xfer) (xh : HReg) : Completes (.gather w xh) s (Kept s) :=
  ⟨_, rfl, engineInstr_keeps (.refl s) (issueXfer_keeps (.refl s) _ _ _) fun t => startRows_keeps (.refl t) _ _ _⟩

theorem scatter_keeps (w : Xfer) (xh : HReg) : Completes (.scatter w xh) s (Kept s) :=
  ⟨_, rfl, engineInstr_keeps (.refl s) (issueXfer_keeps (.refl s) _ _ _) fun t => startRows_keeps (.refl t) _ _ _⟩

theorem redadd_keeps (w : Xfer) : Completes (.redadd w) s (Kept s) :=
  ⟨_, rfl, engineInstr_keeps (.refl s) (issueXfer_keeps (.refl s) _ _ _) fun t => startRedadd_keeps (.refl t) _⟩

theorem pref_keeps (g : Option Guard) (sh : HReg) (soff : BitVec 24) (cnt : BitVec 12) : Completes (.pref g sh soff cnt) s (Kept s) :=
  ⟨_, rfl, engineInstr_keeps (.refl s) (enqueue_keeps (.refl s) _ _ _ _ _) fun t => startPref_keeps (.refl t) _ _ _⟩

theorem bcopy_keeps (w : Xfer) : Completes (.bcopy w) s (Kept s) :=
  ⟨_, rfl, engineInstr_keeps (.refl s)
    (kept_ite (enqueue_keeps (.refl s) _ _ _ _ _) (pin_keeps (enqueue_keeps (.refl s) _ _ _ _ _))) fun t => startBulk_keeps (.refl t) _⟩

theorem radv_keeps (g : Option Guard) (q : QReg) : Completes (.radv g q) s (Kept s) := by
  refine ⟨_, rfl, engineInstr_keeps (.refl s) ?_ fun t => performing_keeps (.refl t) fun _ _ => ?_⟩
  · exact kept_ite (raise_keeps (.refl s) _ _ _) (kept_ite (stall_keeps (.refl s) _ _) (kept_ite (stall_keeps (.refl s) _ _)
      (onMe_keeps (enqueue_keeps (.refl s) _ _ _ _ _) _)))
  · exact kept_ite (.refl t) (onMe_keeps (kept_ite (onMe_keeps (.refl t) _) (.refl t)) _)

theorem vcmp_keeps (fmt : Fmt) (pred : Option PReg) (g : Option Guard) (pd : PReg) (cond : VCond) (a b : Operand) :
    Completes (.vcmp fmt pred g pd cond a b) s (Kept s) :=
  ⟨_, rfl, engineInstr_keeps (.refl s) (issueVec_keeps (.refl s) _) fun t => startCmp_keeps (.refl t) _ _ _ _ _ _⟩

theorem vcvt_keeps (w : Vec1) (sfmt : Fmt) (mode : Rnd) (prop : Bool) : Completes (.vcvt w sfmt mode prop) s (Kept s) :=
  ⟨_, rfl, engineInstr_keeps (.refl s) (issueVec_keeps (.refl s) _) fun t => startVec_keeps (.refl t) _⟩

theorem mma_keeps (w : Mat) : Completes (.mma w) s (Kept s) :=
  ⟨_, rfl, matrix_keeps (.refl s) _ _ _ fun t _ _ _ => startMma_keeps (.refl t) _ _ _ _ _⟩

theorem mmab_keeps (w : Mat) : Completes (.mmab w) s (Kept s) :=
  ⟨_, rfl, matrix_keeps (.refl s) _ _ _ fun t _ _ _ => startMma_keeps (.refl t) _ _ _ _ _⟩

theorem mmag_keeps (w : Mat) : Completes (.mmag w) s (Kept s) :=
  ⟨_, rfl, matrix_keeps (.refl s) _ _ _ fun t _ _ _ => startMmag_keeps (.refl t) _ _ _ _⟩

theorem mst_keeps (w : Mat) : Completes (.mst w) s (Kept s) :=
  ⟨_, rfl, matrix_keeps (.refl s) _ _ _ fun t _ _ _ => startMst_keeps (.refl t) _ _ _ _⟩

theorem mzero_keeps (w : Mat) : Completes (.mzero w) s (Kept s) :=
  ⟨_, rfl, matrix_keeps (.refl s) _ _ _ fun t _ _ _ => beginMat_keeps (.refl t) _ _ _ _ _⟩

theorem mclr_keeps : Completes .mclr s (Kept s) :=
  ⟨_, rfl, matrix_keeps (.refl s) _ _ _ fun t _ _ _ => beginMat_keeps (.refl t) _ _ _ _ _⟩

theorem mld_keeps (w : Mat) : Completes (.mld w) s (Kept s) := by
  refine ⟨_, rfl, matrix_keeps (.refl s) _ _ _ fun t _ _ _ => ?_⟩
  dsimp only
  split
  · exact matFail_keeps (.refl t) _ _
  · exact beginMat_keeps (.refl t) _ _ _ _ _

theorem mstat_keeps (w : Mat) : Completes (.mstat w) s (Kept s) := by
  refine ⟨_, rfl, matrix_keeps (.refl s) _ _ _ fun t _ _ _ => ?_⟩
  dsimp only
  split
  · exact .refl t
  · exact fail_keeps (.refl t) _ _
  · exact putLater_keeps (beginMat_keeps (.refl t) _ _ _ _ _) _ _

end Sys2Proof.Machine
end

section
/-! PROOF. What each event of the device keeps, where its meaning is more than one shared operation: memory in its canonical form, D and
the rollback number (`Kept`; R3, R16, R356, R359). -/

namespace Sys2Proof.Machine

variable (s : State)

/-! ## Tasks and scheduling -/

theorem overlaySwap_keeps : Completes .overlaySwap s (Kept s) := by
  refine ⟨_, rfl, ?_⟩
  split
  · exact .refl s
  · exact kept_ite (swapPlanes_keeps (.refl s) _ _) (.refl s)

theorem taskRetirement_keeps : Completes .taskRetirement s (Kept s) :=
  ⟨_, rfl, kept_ite (retireTask_keeps (.refl s) _ _) (.refl s)⟩

theorem timeAllowanceExpiry_keeps : Completes .timeAllowanceExpiry s (Kept s) := by
  refine ⟨_, rfl, ?_⟩
  split
  · exact kept_ite (.refl s) (exhaust_keeps (kept_ite (onMe_keeps (.refl s) _) (.refl s)) _ _ _ _
      fun _ _ _ t => raiseOn_keeps (.refl t) _ _)
  · exact .refl s

theorem preemptingRequest_keeps : Completes .preemptingRequest s (Kept s) :=
  ⟨_, rfl, kept_ite (startPreempt_keeps (.refl s) _ _ _ _) (.refl s)⟩

theorem preemptOverrun_keeps : Completes .preemptOverrun s (Kept s) := by
  refine ⟨_, rfl, ?_⟩
  split
  · exact .refl s
  · exact kept_ite (.refl s) (kept_foldl (fun t _ => stopRunning_keeps (.refl t) _ _ _) ⟨rfl, rfl, id⟩ _)

theorem contextSaveComplete_keeps : Completes .contextSaveComplete s (Kept s) := by
  refine ⟨_, rfl, ?_⟩
  split
  · exact kept_ite (finishSave_keeps (.refl s) _ _) (.refl s)
  · exact .refl s

theorem timeParkExpiry_keeps : Completes .timeParkExpiry s (Kept s) := by
  refine ⟨_, rfl, ?_⟩
  split
  · exact .refl s
  · split
    · exact kept_ite (refresh_keeps (startRecall_keeps (releaseParked_keeps (.refl s) _) _) _ _) (.refl s)
    · exact .refl s

theorem ageingStep_keeps : Completes .ageingStep s (Kept s) := by
  refine ⟨_, rfl, ?_⟩
  split
  · exact .refl s
  · exact kept_ite (changeClass_keeps (.refl s) _ _) (.refl s)

theorem faultDelivery_keeps : Completes .faultDelivery s (Kept s) := by
  refine ⟨_, rfl, kept_foldl (fun t _ => ?_) (deliverOwn_keeps (.refl s) _) _⟩
  split
  · exact onCore_keeps (.refl t) _ _
  · exact kept_ite (endStep_keeps (.refl t) _ _ _) (.refl t)

theorem helmFaultRelease_keeps : Completes .helmFaultRelease s (Kept s) := by
  refine ⟨_, rfl, ?_⟩
  split
  · exact .refl s
  · exact kept_ite (refresh_keeps (endFaultHold_keeps (.refl s) _) _ _) (.refl s)

/-! ## The residency engine -/

theorem recallLeadExpiry_keeps : Completes .recallLeadExpiry s (Kept s) := by
  refine ⟨_, rfl, ?_⟩
  split
  · exact .refl s
  · exact kept_ite (refresh_keeps (startRecall_keeps (.refl s) _) _ _) (.refl s)

theorem pageMoveStart_keeps : Completes .pageMoveStart s (Kept s) := by
  refine ⟨_, rfl, ?_⟩
  split
  · exact .refl s
  · refine kept_ite (.refl s) ?_
    split
    · exact startPlanned_keeps (.refl s) _ _ _ _ _
    · split
      · exact .refl s
      · refine kept_ite (.refl s) ?_
        split
        · exact beginMove_keeps (.refl s) ‹_›
        · exact ringCount_keeps (onCtx_keeps (.refl s) _ _) _ _ _ _

theorem pageMoveComplete_keeps : Completes .pageMoveComplete s (Kept s) := by
  refine ⟨_, rfl, ?_⟩
  split
  · exact .refl s
  · refine kept_ite (.refl s) ?_
    split
    · exact abandonMove_keeps (.refl s) _ _
    · exact afterMove_keeps (kept_ite (abandonMove_keeps (.refl s) _ _) (finishMove_keeps (.refl s) _ _)) _

/-! ## Doorbells, slots and packets -/

theorem doorbellStore_keeps : Completes .doorbellStore s (Kept s) :=
  ⟨_, rfl, kept_ite (.refl s) (ringBell_keeps (.refl s) _ _ _ _ _)⟩

theorem queueMapping_keeps : Completes .queueMapping s (Kept s) := by
  refine ⟨_, rfl, kept_ite (.refl s) ?_⟩
  split
  · exact .refl s
  · split
    · exact tick_keeps (mapQueue_keeps (onDie_keeps (.refl s) _ _) _ _ _)
    · refine kept_ite (.refl s) ?_
      split
      · exact .refl s
      · exact helmUnmap_keeps (.refl s) _ _

theorem idleTimeout_keeps : Completes .idleTimeout s (Kept s) :=
  ⟨_, rfl, kept_ite (.refl s) (kept_ite (finishUnmap_keeps (.refl s) _ _) (kept_ite (setUnmapping_keeps (.refl s) _ _ _)
    (kept_ite (helmUnmap_keeps (.refl s) _ _) (kept_ite (helmUnmap_keeps (.refl s) _ _) (.refl s)))))⟩

theorem ridxWriteback_keeps : Completes .ridxWriteback s (Kept s) :=
  ⟨_, rfl, kept_ite (onMySlot_keeps (updateQcb_keeps (.refl s) _ _ fun m _ => memKept_wrNat (.refl m) _ _ _) _) (.refl s)⟩

theorem nslotWrite_keeps : Completes .nslotWrite s (Kept s) :=
  ⟨_, rfl, kept_ite (onDie_keeps (.refl s) _ _) (.refl s)⟩

theorem launch_keeps : Completes .launch s (Kept s) := by
  refine ⟨_, rfl, headPacket_keeps (.refl s) _ _ fun w => kept_ite (packetError_keeps (.refl s) _ _ _ _) ?_⟩
  split
  · exact packetError_keeps (.refl s) _ _ _ _
  · exact kept_ite (packetError_keeps (.refl s) _ _ _ _) (kept_ite (packetError_keeps (.refl s) _ _ _ _)
      (kept_ite (packetError_keeps (.refl s) _ _ _ _) (consume_keeps (makeTeam_keeps (.refl s) _ _ _))))

theorem wait_keeps : Completes .wait s (Kept s) := by
  refine ⟨_, rfl, headPacket_keeps (.refl s) _ _ fun w => withCtx_keeps (.refl s) _ _ fun n x => ?_⟩
  split
  · exact packetError_keeps (.refl s) _ _ _ _
  · exact compareWait_keeps (.refl s) _ _ _

theorem sigfarPoll_keeps : Completes .sigfarPoll s (Kept s) :=
  ⟨_, rfl, kept_ite (recheckWait_keeps (.refl s) _) (.refl s)⟩

theorem signal_keeps : Completes .signal s (Kept s) := by
  refine ⟨_, rfl, headPacket_keeps (.refl s) _ _ fun w => withCtx_keeps (.refl s) _ _ fun n x => ?_⟩
  dsimp only
  split
  · exact packetError_keeps (.refl s) _ _ _ _
  · exact kept_ite (.refl s) (kept_ite (kept_ite (consume_keeps (ringBell_keeps (.refl s) _ _ _ _ _)) (packetError_keeps (.refl s) _ _ _ _))
      (consume_keeps (signalAtomic_keeps (.refl s) _ _ _ _)))

theorem reside_keeps : Completes .reside s (Kept s) := by
  refine ⟨_, rfl, headPacket_keeps (.refl s) _ _ fun w => withCtx_keeps (.refl s) _ _ fun n x => ?_⟩
  dsimp only
  split
  · exact packetError_keeps (.refl s) _ _ _ _
  · exact consume_keeps (onCtx_keeps (.refl s) _ _)

theorem note_keeps : Completes .note s (Kept s) :=
  ⟨_, rfl, headPacket_keeps (.refl s) _ _ fun _ => kept_ite (packetError_keeps (.refl s) _ _ _ _)
    (consume_keeps (onTrace_keeps (putPlain_keeps (onMySlot_keeps (.refl s) _) _ _ _ _) _ _))⟩

/-! ## The Helm -/

theorem helmCoreFailure_keeps : Completes .helmCoreFailure s (Kept s) :=
  ⟨_, rfl, kept_ite (takeOver_keeps (.refl s) _ _) (kept_ite (.refl s) (kept_ite (onHelm_keeps (.refl s) _ _ _)
    (helmFails_keeps (.refl s) _ _ _ _)))⟩

theorem helmSelfTestDone_keeps : Completes .helmSelfTestDone s (Kept s) :=
  ⟨_, rfl, kept_ite (onHelm_keeps (.refl s) _ _ _) (.refl s)⟩

theorem helmSelfTestTimeout_keeps : Completes .helmSelfTestTimeout s (Kept s) :=
  ⟨_, rfl, kept_ite (onHelm_keeps (.refl s) _ _ _) (.refl s)⟩

/-! ## Links and the host -/

theorem ucieLinkDown_keeps : Completes .ucieLinkDown s (Kept s) := by
  have hd : Kept s { s with uciDown := Fin.ofNat 4 s.cur.a :: s.uciDown } := ⟨rfl, rfl, id⟩
  exact ⟨_, rfl, kept_ite (.refl s) (openEntry_keeps hd _ _ _ _)⟩

theorem ualinkPortDown_keeps : Completes .ualinkPortDown s (Kept s) := by
  have hd : Kept s { s with uaDown := Fin.ofNat 12 s.cur.a :: s.uaDown } := ⟨rfl, rfl, id⟩
  exact ⟨_, rfl, kept_ite (.refl s) (openEntry_keeps hd _ _ _ _)⟩

theorem cxlPortDown_keeps : Completes .cxlPortDown s (Kept s) := by
  have hd : Kept s { s with cxlDown := Fin.ofNat 2 s.cur.a :: s.cxlDown } := ⟨rfl, rfl, id⟩
  exact ⟨_, rfl, kept_ite (.refl s) (openEntry_keeps hd _ _ _ _)⟩

theorem ualinkRemoteRequest_keeps : Completes .ualinkRemoteRequest s (Kept s) := by
  refine ⟨_, rfl, ?_⟩
  split
  · exact kept_ite (refusedRead_keeps (.refl s) _) (outsideRead_keeps (.refl s) _ _)
  · exact kept_ite (.refl s) (outsideWrite_keeps (.refl s) _ _ _)
  · have hr (k n : Nat) : Kept s (outsideRead k n s) := outsideRead_keeps (.refl s) k n
    exact kept_ite (refusedRead_keeps (.refl s) _) (kept_ite (hr _ _) (outsideWrite_keeps (hr _ _) _ _ _))

theorem hostBar4Write_keeps : Completes .hostBar4Write s (Kept s) := by
  have hr : Kept s { s with aer := 3 :: s.aer } := ⟨rfl, rfl, id⟩
  have ha : Kept s (if s.cur.flag then { s with aer := 2 :: s.aer } else s) := kept_ite ⟨rfl, rfl, id⟩ (.refl s)
  exact ⟨_, rfl, kept_ite (.refl s) (kept_ite hr (kept_ite (kept_of ha rfl rfl rfl) (kept_ite (ringBell_keeps ha _ _ _ _ _)
    (kept_ite (outsideWrite_keeps ha _ _ _) ha))))⟩

theorem hostBar4Read_keeps : Completes .hostBar4Read s (Kept s) := by
  have hr (r : List Byte) : Kept s { s with hostReply := r, hostPoison := false } := ⟨rfl, rfl, id⟩
  have ha : Kept s { s with aer := 3 :: s.aer } := ⟨rfl, rfl, id⟩
  have hf := refusedRead_keeps (.refl s) s.cur.b
  have ho := outsideRead_keeps (.refl s) (s.barFour s.cur.a) s.cur.b
  exact ⟨_, rfl, kept_ite (hr _) (kept_ite (hr _) (kept_ite (.refl s) (kept_ite ha (kept_ite (hr _) (kept_ite (kept_ite (hr _) hf)
    (kept_ite (.refl s) (kept_ite hf (kept_ite ho hf))))))))⟩

/-! ## Heat and power, keys and registers -/

theorem heatGating_keeps : Completes .heatGating s (Kept s) :=
  ⟨_, rfl, kept_ite ⟨rfl, rfl, id⟩ (kept_ite ⟨rfl, rfl, id⟩ (.refl s))⟩

theorem telemetrySample_keeps : Completes .telemetrySample s (Kept s) := by
  refine ⟨_, rfl, ?_⟩
  split
  · exact .refl s
  · exact ⟨rfl, rfl, id⟩

theorem trip_keeps : Completes .trip s (Kept s) := by
  refine ⟨_, rfl, ?_⟩
  split
  · exact .refl s
  · obtain ⟨hg, hr, hm⟩ :=
      kept_foldl (fun t d => openEntry_keeps (.refl t) d (if t.cur.a = 0 then 10 else 11) 0 none) (.refl s) (List.finRange 4)
    simp only [kept_mk]
    exact ⟨hg, hr, hm⟩

theorem scrubPass_keeps : Completes .scrubPass s (Kept s) := by
  refine ⟨_, rfl, kept_of (kept_foldl (fun t e => ?_) (.refl s) _) rfl rfl rfl⟩
  exact kept_ite (memEntry_keeps (meetLine_keeps (.refl t) _ _) _ _ _ _ _ _ _ _ _ _ _) (meetLine_keeps (.refl t) _ _)

theorem keyCommandDone_keeps : Completes .keyCommandDone s (Kept s) :=
  ⟨_, rfl, kept_ite (.refl s) (kept_of (kept_ite (dropKey_keeps (.refl s) _) (.refl s)) rfl rfl rfl)⟩

theorem pkgidWrite_keeps : Completes .pkgidWrite s (Kept s) :=
  ⟨_, rfl, kept_ite (.refl s) ⟨rfl, rfl, id⟩⟩

theorem registerWrite_keeps : Completes .registerWrite s (Kept s) :=
  ⟨_, rfl, kept_ite (kept_ite (writeContext_keeps (.refl s) _ _) (.refl s)) (kept_ite (kept_ite ⟨rfl, rfl, id⟩ (.refl s))
    (kept_ite (.refl s) (writeReg_keeps (.refl s) _ _ _)))⟩

/-! ## The Binnacle -/

theorem accountingSampleDone_keeps : Completes .accountingSampleDone s (Kept s) := by
  refine ⟨_, rfl, ?_⟩
  split
  · exact kept_ite (finishSample_keeps (.refl s) _ _) (.refl s)
  · exact .refl s

theorem traceTimeRecord_keeps : Completes .traceTimeRecord s (Kept s) :=
  ⟨_, rfl, kept_ite (putPlain_keeps (.refl s) _ _ _ _) (.refl s)⟩

theorem traceSample_keeps : Completes .traceSample s (Kept s) :=
  ⟨_, rfl, kept_ite (sampleAll_keeps (.refl s) _) (kept_ite (sampleRecord_keeps (.refl s) _ _) (.refl s))⟩

theorem breakpointHit_keeps : Completes .breakpointHit s (Kept s) := by
  refine ⟨_, rfl, ?_⟩
  split
  · exact .refl s
  · exact kept_ite (.refl s) (kept_foldl (fun t _ => actBreak_keeps (.refl t) _ _ _ _) (.refl s) _)

theorem dbgcmdStop_keeps : Completes .dbgcmdStop s (Kept s) := by
  have hn : Kept s (noteDbgcmd 1 s) := noteDbgcmd_keeps (.refl s) 1
  refine ⟨_, rfl, kept_ite ?_ hn⟩
  split
  · exact onMe_keeps hn _
  · exact onMe_keeps hn _
  · exact kept_of hn rfl rfl rfl
  all_goals exact hn

theorem dbgcmdResume_keeps : Completes .dbgcmdResume s (Kept s) := by
  have hn : Kept s (noteDbgcmd 2 s) := noteDbgcmd_keeps (.refl s) 2
  refine ⟨_, rfl, ?_⟩
  split
  · exact resumeEnd_keeps (kept_ite (onMe_keeps hn _) (resumeStop_keeps hn _)) _
  · exact resumeEnd_keeps hn _

theorem dbgcmdDump_keeps : Completes .dbgcmdDump s (Kept s) := by
  have hn : Kept s (noteDbgcmd 3 s) := noteDbgcmd_keeps (.refl s) 3
  refine ⟨_, rfl, ?_⟩
  split
  · next tid _ _ =>
    have ht : Kept s (saveTask s.cur.core tid false (noteDbgcmd 3 s)).2 := saveTask_keeps hn _ _ _
    split
    · exact hn
    · next heq => rw [heq] at ht; exact onDie_keeps ht _ _
  · exact hn

theorem debugCut_keeps : Completes .debugCut s (Kept s) :=
  ⟨_, rfl, kept_foldl (fun t _ => cutEnd_keeps (.refl t) _ _) (cutStop_keeps (.refl s) _) _⟩

/-! ## The three events that change D or the rollback number -/

/-- D moves by 1 within 0 to 15 (R359). -/
theorem powerGatingStep_grows : Completes .powerGatingStep s (Grows s) := by
  have hs : Grows s s := (Kept.refl s).grows
  have hl : Grows s { s with gating := s.gating - 1 } := ⟨id, fun h => Nat.le_trans (Nat.sub_le _ _) h, Nat.le_refl _⟩
  have hr : Grows s { s with gating := Nat.min 15 (s.gating + 1) } := ⟨id, fun _ => Nat.min_le_left _ _, Nat.le_refl _⟩
  have ht {t : State} (h : Grows s t) : Grows s t.tick := h
  exact ⟨_, rfl, grows_ite hs (grows_ite hl (grows_ite hs (grows_ite (ht hl) (grows_ite (ht hr) (ht hs)))))⟩

/-- D is 15 after a reset, and the fuses keep the rollback number (R355, R359). -/
theorem packageReset_grows : Completes .packageReset s (Grows s) :=
  ⟨_, rfl, memKept_filter (bareHome_keeps (.refl s)).2.2 _, fun _ => Nat.le_refl 15, Nat.le_refl _⟩

/-- The firmware starts only if its rollback number is not below the fused one (R356). -/
theorem bootstGo_grows : Completes .bootstGo s (Grows s) := by
  refine ⟨_, rfl, grows_ite (Kept.refl s).grows ?_⟩
  dsimp only
  split
  · next hok =>
    simp only [Bool.and_eq_true, BitVec.ule, decide_eq_true_eq] at hok
    have hset : Grows s { s with ecok := (Config.imageVerdict s.image).1, lmok := (Config.imageVerdict s.image).2.1,
                                 rbok := s.rbcnt.ule (Config.imageVerdict s.image).2.2, boot := 3
                                 rbcnt := (Config.imageVerdict s.image).2.2 } := ⟨id, id, hok.2⟩
    exact grows_foldl (fun t d => (startFirmware_keeps (.refl t) d).grows) hset _
  · exact ⟨id, id, Nat.le_refl _⟩

end Sys2Proof.Machine
end



section
/-! PROOF. O60: every step keeps memory in its canonical form and D within 0 to 15, and never lowers the rollback number (R3, R16, R356,
R359). -/

namespace Sys2Proof.Machine

/-- What every instruction and event does: exec answers a next state, to which memory stays canonical, D within its range, and the
rollback number does not fall. Most meanings are one shared operation; the others have their lemma above. -/
theorem exec_grows (i : Instr) (s : State) : Completes i s (Grows s) := by
  have kept {i : Instr} : Completes i s (Kept s) → Completes i s (Grows s) := fun ⟨t, h, k⟩ => ⟨t, h, k.grows⟩
  cases i with
  | powerGatingStep => exact powerGatingStep_grows s
  | packageReset => exact packageReset_grows s
  | bootstGo => exact bootstGo_grows s
  | add | sub | and | or | xor | andn | sll | srl | sra | rol | ror | mul | mulh | mulhn | div | divn | rem | remn | min | max | minn
  | maxn => exact kept ⟨_, rfl, alu_keeps (.refl s) _ _ _ _ _⟩
  | clz | ctz | popc | sextB | sextH | sextW | zextB | zextH | zextW | bswap => exact kept ⟨_, rfl, alu1_keeps (.refl s) _ _ _⟩
  | addi | andi | ori | xori | muli => exact kept ⟨_, rfl, aluI_keeps (.refl s) _ _ _ _ _⟩
  | slli | srli | srai | rori => exact kept ⟨_, rfl, aluSh_keeps (.refl s) _ _ _ _⟩
  | li | lhi | hsetf | hgetf | hadv | tcnt | srd => exact kept ⟨_, rfl, advance_keeps (post_keeps (.refl s) _ _)⟩
  | pt | ptr => exact kept ⟨_, rfl, advance_keeps (setTarget_keeps (.refl s) _ _ _)⟩
  | vsetn => exact kept ⟨_, rfl, advance_keeps (onMe_keeps (.refl s) _)⟩
  | nop => exact kept ⟨_, rfl, advance_keeps (.refl s)⟩
  | cmpEq | cmpNe | cmpLt | cmpGe | cmpLtn | cmpGen | cmpLe | cmpGt | cmpLen | cmpGtn => exact kept ⟨_, rfl, cmpReg_keeps (.refl s) _ _ _ _⟩
  | fand | forF | fxor | fandn | fnot => exact kept ⟨_, rfl, flagOp_keeps (.refl s) _ _ _ _⟩
  | cmpiEq | cmpiNe | cmpiLt | cmpiGe | cmpiLtn | cmpiGen | cmpiLe | cmpiGt | cmpiLen | cmpiGtn =>
    exact kept ⟨_, rfl, cmpImm_keeps (.refl s) _ _ _ _⟩
  | ldB | ldH | ldW | ldD => exact kept ⟨_, rfl, loadMem_keeps (.refl s) _ _ _ _ _⟩
  | stB | stH | stW | stD => exact kept ⟨_, rfl, storeMem_keeps (.refl s) _ _ _ _ _⟩
  | aaddW | aminW | amaxW | aminnW | amaxnW | aandW | aorW | axorW | aswpW | acasW | afaddW | aldW | astW | aaddD | aminD | amaxD
  | aminnD | amaxnD | aandD | aorD | axorD | aswpD | acasD | afaddD | aldD | astD => exact kept ⟨_, rfl, atomic_keeps (.refl s) _ _ _⟩
  | j => exact kept ⟨_, rfl, transfer_keeps (.refl s) _ _⟩
  | br | brNot => exact kept ⟨_, rfl, branchIf_keeps (.refl s) _ _⟩
  | ldsB | ldsH | ldsW | ldsD => exact kept ⟨_, rfl, loadSpad_keeps (.refl s) _ _ _ _⟩
  | stsB | stsH | stsW | stsD => exact kept ⟨_, rfl, storeSpad_keeps (.refl s) _ _ _ _⟩
  | tsig | tsigLdSt | tsigCmp => exact kept ⟨_, rfl, giveToken_keeps (.refl s) _⟩
  | twait | twaitLdSt | twaitCmp => exact kept ⟨_, rfl, takeToken_keeps (.refl s) _⟩
  | gset | gseti => exact kept ⟨_, rfl, pushGuard_keeps (.refl s) _ _⟩
  | allocS | allocV => exact kept ⟨_, rfl, alloc_keeps (.refl s) _ _ _ _⟩
  | fenceAcq => exact kept ⟨_, rfl, fenceEffect_keeps (advance_keeps (.refl s)) _ _ _⟩
  | snapoRd | snapoWr => exact kept ⟨_, rfl, snapOpen_keeps (.refl s) _ _ _⟩
  | csw | cswReg => exact kept ⟨_, rfl, switchTo_keeps (.refl s) _ _⟩
  | loops | loopsCmp => exact kept ⟨_, rfl, openLoop_keeps (.refl s) _⟩
  | jump | jumpCmp => exact kept ⟨_, rfl, jumpBy_keeps (.refl s) _⟩
  | vadd | vsub | vmul | vfma | vfms | vfnma | vfnms | vdiv | vsqrt | vrsqrt | vrcp | vexp2 | vlog2 | vexp | vtanh | vmin | vmax | vabs
  | vneg | vclamp | viadd | visub | vimul | vimulh | vand | vor | vxor | vandn | vsll | vsrl | vsra | vrol | vpopc | vclz | vclmul
  | vclmulh | vbswap | vbrev | vpack | vunpack | vradd | vrmax | vrmin | vargmax | vtopk8 | vperm | vbcast | vsel | viota | vscan
  | vmov => exact kept ⟨_, rfl, vector_keeps (.refl s) _⟩
  | vpand | vpor | vpxor | vpnot => exact kept ⟨_, rfl, predOp_keeps (.refl s) _ _ _ _⟩
  | voteAny | voteAll | voteNone | voteCnt => exact kept ⟨_, rfl, vote_keeps (.refl s) _ _ _⟩
  | rte => exact kept ⟨_, rfl, returnTrap_keeps (.refl s)⟩
  | loope | loopeCmp => exact kept ⟨_, rfl, closeLoop_keeps (.refl s)⟩
  | stop | stopCmp => exact kept ⟨_, rfl, stopSeq_keeps (.refl s)⟩
  | commandStart => exact kept ⟨_, rfl, startHead_keeps (.refl s)⟩
  | commandRetirement => exact kept ⟨_, rfl, retireAll_keeps (.refl s) _ _⟩
  | bcopyComplete => exact kept ⟨_, rfl, endBulk_keeps (.refl s) _⟩
  | dispatch => exact kept ⟨_, rfl, dispatchRounds_keeps (inheritClasses_keeps (serveRequests_keeps (.refl s))) _ _ _⟩
  | waitSatisfied => exact kept ⟨_, rfl, recheckWait_keeps (.refl s) _⟩
  | ualinkRequestTimeout | ualinkErrorCompletion => exact kept ⟨_, rfl, linkLost_keeps (.refl s) _⟩
  | keyLoad | keyDestroy => exact kept ⟨_, rfl, startKey_keeps (.refl s) _⟩
  | accountFlush => exact kept ⟨_, rfl, flushAccounts_keeps (.refl s) _⟩
  | pmcReprogram | pmcClear | pmcOvfClear => exact kept ⟨_, rfl, onPmc_keeps (.refl s) _⟩
  | traceGo | traceHalt | traceEnableWrite => exact kept ⟨_, rfl, onTrace_keeps (.refl s) _ _⟩
  | loop => exact kept ⟨_, rfl, branchIf_keeps (post_keeps (.refl s) _ _) _ _⟩
  | endT | resultLands => exact kept ⟨_, rfl, onMe_keeps (.refl s) _⟩
  | pcieLinkDown | pcieLinkUp | vfFlr | pfFlr | plimTakesEffect => exact kept ⟨_, rfl, rfl, rfl, id⟩
  | accqWrite => exact kept ⟨_, rfl, tick_keeps (onDie_keeps (.refl s) _ _)⟩
  | stopvClear => exact kept ⟨_, rfl, onDie_keeps (.refl s) _ _⟩
  | call => exact kept (call_keeps s ..)
  | ret => exact kept (ret_keeps s ..)
  | trap => exact kept (trap_keeps s ..)
  | brk => exact kept (brk_keeps s ..)
  | wfe => exact kept (wfe_keeps s ..)
  | hld => exact kept (hld_keeps s ..)
  | hst => exact kept (hst_keeps s ..)
  | fqw => exact kept (fqw_keeps s ..)
  | swr => exact kept (swr_keeps s ..)
  | repart => exact kept (repart_keeps s ..)
  | flush => exact kept (flush_keeps s ..)
  | inv => exact kept (inv_keeps s ..)
  | fenceRel => exact kept (fenceRel_keeps s ..)
  | fenceAr => exact kept (fenceAr_keeps s ..)
  | phase => exact kept (phase_keeps s ..)
  | commit => exact kept (commit_keeps s ..)
  | bslot => exact kept (bslot_keeps s ..)
  | binit => exact kept (binit_keeps s ..)
  | bexpect => exact kept (bexpect_keeps s ..)
  | barrive => exact kept (barrive_keeps s ..)
  | bwait => exact kept (bwait_keeps s ..)
  | btest => exact kept (btest_keeps s ..)
  | spawn => exact kept (spawn_keeps s ..)
  | park => exact kept (park_keeps s ..)
  | yield => exact kept (yield_keeps s ..)
  | wake => exact kept (wake_keeps s ..)
  | sev => exact kept (sev_keeps s ..)
  | dmrw => exact kept (dmrw_keeps s ..)
  | snapc => exact kept (snapc_keeps s ..)
  | chrd => exact kept (chrd_keeps s ..)
  | copy => exact kept (copy_keeps s ..)
  | copyt => exact kept (copyt_keeps s ..)
  | copyc => exact kept (copyc_keeps s ..)
  | fill => exact kept (fill_keeps s ..)
  | gather => exact kept (gather_keeps s ..)
  | scatter => exact kept (scatter_keeps s ..)
  | redadd => exact kept (redadd_keeps s ..)
  | pref => exact kept (pref_keeps s ..)
  | bcopy => exact kept (bcopy_keeps s ..)
  | radv => exact kept (radv_keeps s ..)
  | vcmp => exact kept (vcmp_keeps s ..)
  | vcvt => exact kept (vcvt_keeps s ..)
  | mma => exact kept (mma_keeps s ..)
  | mmab => exact kept (mmab_keeps s ..)
  | mmag => exact kept (mmag_keeps s ..)
  | mst => exact kept (mst_keeps s ..)
  | mzero => exact kept (mzero_keeps s ..)
  | mclr => exact kept (mclr_keeps s ..)
  | mld => exact kept (mld_keeps s ..)
  | mstat => exact kept (mstat_keeps s ..)
  | overlaySwap => exact kept (overlaySwap_keeps s ..)
  | taskRetirement => exact kept (taskRetirement_keeps s ..)
  | timeAllowanceExpiry => exact kept (timeAllowanceExpiry_keeps s ..)
  | preemptingRequest => exact kept (preemptingRequest_keeps s ..)
  | preemptOverrun => exact kept (preemptOverrun_keeps s ..)
  | contextSaveComplete => exact kept (contextSaveComplete_keeps s ..)
  | timeParkExpiry => exact kept (timeParkExpiry_keeps s ..)
  | ageingStep => exact kept (ageingStep_keeps s ..)
  | faultDelivery => exact kept (faultDelivery_keeps s ..)
  | helmFaultRelease => exact kept (helmFaultRelease_keeps s ..)
  | recallLeadExpiry => exact kept (recallLeadExpiry_keeps s ..)
  | pageMoveStart => exact kept (pageMoveStart_keeps s ..)
  | pageMoveComplete => exact kept (pageMoveComplete_keeps s ..)
  | doorbellStore => exact kept (doorbellStore_keeps s ..)
  | queueMapping => exact kept (queueMapping_keeps s ..)
  | idleTimeout => exact kept (idleTimeout_keeps s ..)
  | ridxWriteback => exact kept (ridxWriteback_keeps s ..)
  | nslotWrite => exact kept (nslotWrite_keeps s ..)
  | launch => exact kept (launch_keeps s ..)
  | wait => exact kept (wait_keeps s ..)
  | sigfarPoll => exact kept (sigfarPoll_keeps s ..)
  | signal => exact kept (signal_keeps s ..)
  | reside => exact kept (reside_keeps s ..)
  | note => exact kept (note_keeps s ..)
  | helmCoreFailure => exact kept (helmCoreFailure_keeps s ..)
  | helmSelfTestDone => exact kept (helmSelfTestDone_keeps s ..)
  | helmSelfTestTimeout => exact kept (helmSelfTestTimeout_keeps s ..)
  | ucieLinkDown => exact kept (ucieLinkDown_keeps s ..)
  | ualinkPortDown => exact kept (ualinkPortDown_keeps s ..)
  | cxlPortDown => exact kept (cxlPortDown_keeps s ..)
  | ualinkRemoteRequest => exact kept (ualinkRemoteRequest_keeps s ..)
  | hostBar4Write => exact kept (hostBar4Write_keeps s ..)
  | hostBar4Read => exact kept (hostBar4Read_keeps s ..)
  | heatGating => exact kept (heatGating_keeps s ..)
  | telemetrySample => exact kept (telemetrySample_keeps s ..)
  | trip => exact kept (trip_keeps s ..)
  | scrubPass => exact kept (scrubPass_keeps s ..)
  | keyCommandDone => exact kept (keyCommandDone_keeps s ..)
  | pkgidWrite => exact kept (pkgidWrite_keeps s ..)
  | registerWrite => exact kept (registerWrite_keeps s ..)
  | accountingSampleDone => exact kept (accountingSampleDone_keeps s ..)
  | traceTimeRecord => exact kept (traceTimeRecord_keeps s ..)
  | traceSample => exact kept (traceSample_keeps s ..)
  | breakpointHit => exact kept (breakpointHit_keeps s ..)
  | dbgcmdStop => exact kept (dbgcmdStop_keeps s ..)
  | dbgcmdResume => exact kept (dbgcmdResume_keeps s ..)
  | dbgcmdDump => exact kept (dbgcmdDump_keeps s ..)
  | debugCut => exact kept (debugCut_keeps s ..)

/-- The turn of a sequencer: whatever its choice is, and with the faults of the other streams and the charge of its slot. -/
theorem perform_grows (he : ∀ i t u, exec i t = .next u → Grows t u) {s t : State} {ch : Choice} (h : perform ch s = .next t) : Grows s t := by
  cases ch with
  | rest => cases h; exact (stall_keeps (.refl s) _ _).grows
  | flip => cases h; exact (stall_keeps (onMe_keeps (addWaiter_keeps (seeFlip_keeps (.refl s) _) _ _ _) _) _ _).grows
  | late => cases h; exact (lateEffect_keeps (stall_keeps (onMe_keeps (.refl s) _) _ _) _).grows
  | fault => cases h; exact (raiseOn_keeps (.refl s) _ _).grows
  | issue i w n => exact (issuing_keeps (.refl s) i w).grows.trans (he _ _ _ h)

/-- The faults of the other streams, laid over the effect of the turn's own or over the state before it. -/
theorem withPeers_grows {s pre post : State} (hp : Kept s pre) (hq : Grows s post) (fs : List Raised) : Grows s (withPeers fs pre post) := by
  cases fs with
  | nil => exact hq
  | cons f fs => exact grows_foldl (fun t f => (raiseOn_keeps (.refl t) _ _).grows) (grows_ite hq hp.grows) _

theorem issueTurn_grows (he : ∀ i t u, exec i t = .next u → Grows t u) {s t : State} (h : issueTurn s = .next t) : Grows s t := by
  have hs : Kept s (settleHead s) := settleHead_keeps (.refl s)
  simp only [issueTurn] at h
  cases hp : perform (settleHead s).choice (settleHead s) with
  | next u =>
    rw [hp] at h
    cases h
    have hu : Grows s u := hs.grows.trans (perform_grows he hp)
    exact (withPeers_grows hs hu _).trans (chargeSlot_keeps (.refl _) _ _ _).grows
  | fault r => rw [hp] at h; cases h
  | refused r => rw [hp] at h; cases h

/-- A step to a next state is the passage of a cycle, the turn of a head, an issue or an act, and each of them does so. -/
theorem step_grows {s t : State} (h : step s = .next t) : Grows s t := by
  have he (i : Instr) (v u : State) (hu : exec i v = .next u) : Grows v u := by
    obtain ⟨w, hw, hg⟩ := exec_grows i v
    rw [hw] at hu
    cases hu
    exact hg
  unfold step at h
  split at h
  · obtain rfl := Host.Outcome.next.inj h
    exact (nextCycle_keeps (.refl s)).grows
  · next x rest _ =>
    have ht : Kept s (s.takes x rest) := takes_keeps (.refl s) x rest
    split at h
    · exact ht.grows.trans (issueTurn_grows he h)
    · cases h
      exact headsTurn_grows he ht.grows
    · exact ht.grows.trans (he _ _ _ h)
    · exact ht.grows.trans (he _ _ _ h)

/-- Settles O60: an invariant of `exec`, of the turns that call it and of the passage of a cycle. -/
theorem everyStep : Obligations.EveryStep := by
  unfold Obligations.EveryStep
  intro s t h hm hg
  obtain ⟨hmem, hgating, hrb⟩ := step_grows h
  exact ⟨hmem hm, hgating hg, hrb⟩

end Sys2Proof.Machine
end

section
/-! PROOF. O48 fails: the clause on a whole-line write that clears poison assumes nothing of the memory-side cache's map (R91, R400). -/

namespace Sys2Proof.Machine

/-- The first line of T1. -/
def doubledLine : Nat := 2 ^ 46

/-- A machine at reset but for one poisoned line of T1 of which no copy may lie in the memory-side cache, though `behind` names it
twice: first under the tag of the outside's requests, and again under tag 0. Another package writes the whole line. -/
def doubledBehind : State :=
  { State.reset with
    cur := { Turn.blank with remote := .write 0 (List.replicate 64 1) }
    poisoned := [doubledLine]
    policy := [(taggedLine 128 doubledLine, 2)]
    behind := [(doubledLine, ⟨128, [], false⟩), (doubledLine, ⟨0, [], false⟩)] }

/-- The request's bytes are those of the one line. -/
theorem doubledBehind_inLine : ∀ b, 64 * doubledLine ≤ b → b < 64 * doubledLine + 64 →
    t1 0 ≤ b ∧ b < t1 0 + (List.replicate 64 (1 : Byte)).length := by
  intro b hlo hhi
  simp only [doubledLine, t1, List.length_replicate] at *
  omega

/-- The first entry of `behind` has the tag of the request, so nothing hides the line from it. -/
theorem doubledBehind_visible : ∀ b ∈ keysFrom (t1 0) (List.replicate 64 (1 : Byte)).length,
    doubledBehind.hidden (tagged (outTag doubledBehind.allPages b) b / 64) = none := by decide +kernel

/-- The write strikes off the first entry of `behind` alone; the second, of another tag, then hides the line, and without poison. -/
theorem doubledBehind_readsClean : ∀ u, exec .ualinkRemoteRequest doubledBehind = .next u →
    u.isPoisoned (tagged (outTag doubledBehind.allPages (64 * doubledLine)) (64 * doubledLine) / 64) = false := by
  rintro u ⟨⟩
  decide +kernel

/-- Refutes O48: from `doubledBehind`, whose map `behind` is not in rising order, a whole-line write that clears poison
leaves the line without poison at once, where the statement has it read as before the write for this cycle. The statement assumes
`mended` in rising order, but not `behind`. -/
theorem not_linksAndHost : ¬ Obligations.LinksAndHost := by
  intro h
  obtain ⟨-, -, -, -, -, -, -, -, -, hwrite, -⟩ := h doubledBehind
  have hopen : doubledBehind.secured (t1 0) (List.replicate 64 (1 : Byte)).length = false := by decide +kernel
  obtain ⟨u, hu, -, -, -, -, -, hmends⟩ := (hwrite 0 (List.replicate 64 1) rfl).2 hopen (by decide +kernel) ⟨rfl, rfl, rfl, rfl⟩
    doubledBehind_visible (by decide +kernel)
  have hpoisoned := (hmends doubledLine rfl (by decide +kernel) (by decide +kernel) doubledBehind_inLine (by decide +kernel)).1
  exact absurd hpoisoned (by rw [doubledBehind_readsClean u hu]; decide)

end Sys2Proof.Machine
end
